-- ==== Sys2Proof/Word.lean ====
section
/-!
DEFINITION. The architectural word (R38), the fixed tags (R42, R48, R50, R51, R54), bit fields, and the sparse
table in which registers and memories are kept.
-/

namespace Sys2Proof

/-- The 8-bit tag of a word (R38). -/
abbrev Tag := BitVec 8

/-- A payload, a control register or a counter of 64 bits. -/
abbrev W64 := BitVec 64

/-- An architectural word: tag [71:64] and payload [63:0] (R38). -/
structure Word where
  tag : Tag
  pay : W64
deriving DecidableEq, Repr

/-- A FIX word (R48). -/
def Word.fix (v : W64) : Word := ⟨0x00, v⟩

/-- A FIX word holding a natural number, modulo 2^64. -/
def Word.fixN (n : Nat) : Word := ⟨0x00, BitVec.ofNat 64 n⟩

/-- FIX 0, the all-zero word, which `NULL` yields (R49). -/
def Word.zero : Word := ⟨0x00, 0⟩

/-- NIL (R48). -/
def Word.nil : Word := ⟨0x03, 0⟩

/-- LOG false or true (R48). -/
def Word.log (b : Bool) : Word := ⟨0x04, if b then 1 else 0⟩

/-- A FLO word with the given binary64 encoding (R48). -/
def Word.flo (v : W64) : Word := ⟨0x01, v⟩

def tagFIX : Tag := 0x00
def tagFLO : Tag := 0x01
def tagCHR : Tag := 0x02
def tagNIL : Tag := 0x03
def tagLOG : Tag := 0x04
def tagUNBOUND : Tag := 0x05
def tagRAW : Tag := 0x06
def tagCONS : Tag := 0x40
def tagOBJ : Tag := 0x41
def tagVEC : Tag := 0x42
def tagSTR : Tag := 0x43
def tagBIG : Tag := 0x44
def tagRAT : Tag := 0x45
def tagCLO : Tag := 0x46
def tagWEAK : Tag := 0x47
def tagBIGH : Tag := 0x83
def tagRATH : Tag := 0x84
def tagFILLH : Tag := 0x87
def tagCODE : Tag := 0xC8
def tagPENDING : Tag := 0xF0
def tagFORWARD : Tag := 0xF1
def tagFRAME : Tag := 0xF2
def tagRETADDR : Tag := 0xF3
def tagPTE : Tag := 0xF4
def tagPTD : Tag := 0xF5
def tagGATE : Tag := 0xF6
def tagPOISON : Tag := 0xFF

/-- Bits [hi:lo] of a 64-bit value, as a number. -/
def bits (v : W64) (hi lo : Nat) : Nat := (v.toNat / 2 ^ lo) % 2 ^ (hi + 1 - lo)

/-- Bit n of a 64-bit value. -/
def bit (v : W64) (n : Nat) : Bool := v.getLsbD n

/-- A value placed at bit lo of a 64-bit register. -/
def field (v lo : Nat) : W64 := BitVec.ofNat 64 (v * 2 ^ lo)

/-- A flag placed at bit n. -/
def flagBit (b : Bool) (n : Nat) : W64 := if b then BitVec.ofNat 64 (2 ^ n) else 0

/-- Bits [hi:lo] of v replaced by n. -/
def setBits (v : W64) (hi lo n : Nat) : W64 :=
  (v &&& ~~~(BitVec.ofNat 64 ((2 ^ (hi + 1 - lo) - 1) * 2 ^ lo))) |||
    BitVec.ofNat 64 ((n % 2 ^ (hi + 1 - lo)) * 2 ^ lo)

/-- 1 for true and 0 for false. -/
def b2n (b : Bool) : Nat := if b then 1 else 0

/-- Byte i of a 64-bit value, byte 0 being the most significant. -/
def byteBE (v : W64) (i : Nat) : BitVec 8 := BitVec.ofNat 8 (v.toNat / 2 ^ (8 * (7 - i)))

/-- The eight bytes of a payload from its most significant byte. -/
def bytesBE (v : W64) : List (BitVec 8) := (List.range 8).map (byteBE v)

/-- The eight bytes of a payload from its least significant byte. -/
def bytesLE (v : W64) : List (BitVec 8) := (bytesBE v).reverse

/-- A big-endian number of n bytes. -/
def natBytesBE (n v : Nat) : List (BitVec 8) :=
  (List.range n).map fun i => BitVec.ofNat 8 (v / 2 ^ (8 * (n - 1 - i)))

/-- The number that a list of bytes spells, first byte most significant. -/
def natOfBytesBE (bs : List (BitVec 8)) : Nat := bs.foldl (fun a b => a * 256 + b.toNat) 0

/-- The number that a list of bytes spells, first byte least significant. -/
def natOfBytesLE (bs : List (BitVec 8)) : Nat := natOfBytesBE bs.reverse

/-- A sparse table: an unlisted key holds a default that the reader names. -/
abbrev Tab (α : Type) := List (Nat × α)

end Sys2Proof
end

