-- ==== Sys2Proof/Syntax.lean ====
section
/-!
DEFINITION. The commands: one constructor for each row of the opcode table. A context is numbered as `SY.id` [13:0]
numbers it (R136), a core as cluster × 16 + core, and a line by its local word address divided by 8.
-/

namespace Sys2Proof

/-- A unit that translates and acknowledges invalidations (R258): a core, a Routine Engine or a range engine. -/
inductive TransUnit where
  | core (n : Nat)
  | engine (cluster n : Nat)
  | range (cluster : Nat)
deriving DecidableEq, Repr

/-- Who sends a message that arrives at its home (R296): a cluster of this device, the host, the device itself, or a
peer by its port. -/
inductive MsgFrom where
  | cluster (c : Nat)
  | host
  | base
  | port (p : Nat)
deriving DecidableEq, Repr

/-- An error that a core's step meets: a tag or entry parity error of its L1s, its cluster's L2 or a TLB, a Routine Engine's and the
range engine's included (R222, R223, R249, R254), or a word lost in a general register (R39); the environment decides when. -/
inductive ParityLoss where
  | l1d (slot : Nat)
  | l2 (slot : Nat)
  | l1i (slot : Nat)
  | tlb (entry : Nat)
  | engineTlb (engine entry : Nat)
  | rangeTlb (entry : Nat)
  | reg (ctx reg : Nat)
deriving DecidableEq, Repr

/-- The subject or the witness of an Afterglow report (R424): `device` is this device, `peer` another. -/
inductive Subject where
  | none
  | device
  | peer (n : Nat)
  | partition (n : Nat)
  | context (n : Nat)
  | core (n : Nat)
  | cluster (n : Nat)
  | cacheWay (unit kind way : Nat)
  | dramRow (n : Nat)
  | stack (n : Nat)
  | engine (n : Nat)
  | queue (n : Nat)
  | port (n : Nat)
  | lane (n : Nat)
deriving DecidableEq, Repr

/-- A report on its way to the recorder (R428): event code, subject, the payload words that follow the witness, the witness
where the subject does not give it (R433), and when it was detected. -/
structure Report where
  code : Nat
  subj : Subject
  pay : List W64 := []
  wit : Option Subject := Option.none
  time : Nat := 0
deriving DecidableEq, Repr

/-- Where a flit comes from and goes to (R314): destination and originating device, and partition; the reserved field, in which a
non-zero value is a violation (R345); COUNT, the items of the flit that follow the first; and its SEQ, `none` where it is the one that
the port expects next. -/
structure XPort where
  dst : Nat
  src : Nat
  part : Nat
  rsvd : Nat := 0
  count : Nat := 0
  seq : Option Nat := none
deriving DecidableEq, Repr

/-- The header of a control message (R322), and the SEQ of its flit, `none` where it is the one that the port expects next. -/
structure CtrlHdr where
  origin : Nat
  target : Nat
  part : Nat
  token : Nat := 0
  seq : Option Nat := none
deriving DecidableEq, Repr

/-- A MSG flit of a peer, with its continuation (R317): SRCKIND, SRCCTX, BASE, the destination, FLOWIX and DLOW of Sunlit, and
the message words. -/
structure PeerMsg where
  x : XPort
  kind : Nat
  ctx : Nat
  base : Bool := false
  qid : Nat
  sun : Bool := false
  flowix : Nat := 0
  dlow : Nat := 0
  words : List Word
deriving DecidableEq, Repr

/-- Who writes a register of device control space (R474): a partition through a device page, the physical function, or
SMBus. -/
inductive DcsWho where
  | part (p : Nat)
  | pf
  | smb
deriving DecidableEq, Repr

/-- A command of the device; each constructor is one row of the table. -/
inductive Instr where
  | fetchPacket (ctx : Nat)
  | packetIssue (core : Nat) (loss : Option ParityLoss)
  | interruptTaken (core : Nat)
  | receiveWaitWithdraw (ctx : Nat)
  | deferredStoreFaultEntry (ctx : Nat)
  | nurserySuspendEntry (ctx : Nat)
  | valueArrival (ctx : Nat)
  | tlbWalkComplete (ctx : Nat)
  | storeDrain (core : Nat)
  | fenceWaitEnd (ctx : Nat)
  | udrainWaitEnd (ctx : Nat)
  | tlbiReceive (unit : TransUnit)
  | tlbiAck (unit : TransUnit)
  | routineRequestTaken (cluster engine : Nat)
  | routineSegment (cluster engine : Nat)
  | routineYieldComplete (ctx : Nat)
  | collectorPhaseAdvance (part : Nat)
  | collectorMarkWork (part : Nat)
  | weakBoxVisit (part : Nat)
  | collectorEvacuation (part : Nat)
  | rangeOperationRun (cluster : Nat)
  | rangeCompletionRetry (cluster : Nat)
  | l1dFill (core line : Nat)
  | l1dEvictionWrite (core : Nat)
  | homeRead (cluster line : Nat)
  | homeReadForOwnership (cluster line : Nat)
  | homeUpgrade (cluster line : Nat)
  | homeClaim (cluster line : Nat)
  | homeWriteback (cluster line : Nat)
  | homeCleanEviction (cluster line : Nat)
  | homeUncachedRead (slice : Nat)
  | homeUncachedWrite (slice : Nat)
  | keepNotice (cluster line : Nat)
  | clusterRecall (cluster line : Nat) (inv : Bool)
  | queueReceiveRequest (ctx : Nat)
  | messageRelease (src : MsgFrom)
  | queueMessageArrival (src : MsgFrom) (m : Option PeerMsg)
  | slwinlWrite (part : Nat) (w : Word)
  | windowFillDone (part : Nat)
  | slcmdAttest (part : Nat)
  | slcmdExtend (part : Nat)
  | sealingCommandDone (part : Nat)
  | tmdlWrite (part : Nat) (w : Word)
  | contextTimerExpiry (ctx : Nat)
  | wdctlKick
  | wdctlEnable (w : Word)
  | watchdogExpiry
  | calalmExpiry
  | calsecWrite (w : Word)
  | caltrimWrite (w : Word)
  | calOscFail
  | clcmdOff (cluster : Nat)
  | clusterDrainDone (cluster : Nat)
  | clcmdOn (cluster : Nat)
  | clusterRetainEntry (cluster : Nat)
  | clusterWake (cluster : Nat)
  | stackSelfRefresh (stack : Nat)
  | powerDomainOffRequest (domain : Nat)
  | vcoreAdjust (busy watts cap : Nat)
  | thermalLimitChange (tj : Nat)
  | thermtrip
  | vrqAlert (asserted : Bool)
  | refclkLoss
  | refclkReturn
  | railLoss (rail : Nat)
  | coldReset
  | warmReset (cause : Nat)
  | afterglowReport (r : Option Report)
  | aggEntryClose (ix : Nat)
  | suppRecordTimeout (ix : Nat)
  | afterglowDrain
  | afterglowDrainRetry
  | ringScrub (bad : List Nat)
  | penumbraWindowExpiry (ix : Nat)
  | agcmdClearFb
  | agcmdFlushAgg
  | ltcmdSave
  | lifetimePageWrite
  | dcsRegisterWrite (who : DcsWho) (addr : Nat) (w : Word)
  | pcieMemoryRead (fn bar off len : Nat)
  | pcieMemoryWrite (fn bar off : Nat) (ep : Bool) (bytes : List (Option (BitVec 8)))
  | pcieConfigRequest (fn reg : Nat) (write : Bool) (v : W64)
  | pcieFlr (fn : Nat)
  | pcieUnsupportedRequest (fn kind : Nat)
  | pcieMalformedTlp (fn : Option Nat) (rule : Nat)
  | pciePmeTurnOff
  | pcieLinkDown
  | hqheadWrite (fn queue : Nat) (w : Word)
  | hscmdSend (part : Nat) (w : Word)
  | hmcmdAttest (arg : W64)
  | hmcmdEnrol (arg : W64)
  | hmcmdTransfer (arg : W64)
  | hmcmdRevoke (arg : W64)
  | hmcmdSvnRaise (arg : W64)
  | hmcmdReform (arg : W64)
  | hmcmdPartReset (arg : W64)
  | hmcmdWarmReset (arg : W64)
  | hmcmdFlashWrite (arg : W64)
  | hmcmdFlashErase (arg : W64)
  | hostCommandDone
  | flashOperationDone
  | rfcmdForm
  | rfcmdStanddown
  | rfcmdRelinquish
  | smbGetStatus
  | smbSetAddr (bytes : List (BitVec 8)) (badPec : Bool)
  | smbRead
  | smbWrite (bytes : List (BitVec 8)) (badPec : Bool)
  | smbGetLast
  | smbWarmReset (bytes : List (BitVec 8)) (badPec : Bool)
  | smbFlashAddr (bytes : List (BitVec 8)) (badPec : Bool)
  | smbFlashRead
  | smbFlashWrite (bytes : List (BitVec 8)) (badPec : Bool)
  | smbFlashErase (bytes : List (BitVec 8)) (badPec : Bool)
  | smbAlertResponse
  | jtagExtest
  | dbgChalCapture
  | dbgToken (bytes : List (BitVec 8))
  | dbgNop
  | dbgReadBoot
  | dbgReadDcs (addr : Nat)
  | dbgReadMem (addr : Nat)
  | dbgWriteMem (addr : Nat) (w : Word)
  | dbgReadCtx (ctx ix : Nat)
  | dbgWriteCtx (ctx ix : Nat) (w : Word)
  | dbgHalt (ctx : Nat)
  | dbgStep (ctx : Nat)
  | dbgResume (ctx : Nat)
  | dbgReadMatch (cluster engine ix : Nat)
  | dbgReadPatch (cluster engine ix part : Nat)
  | dbgReadRom (ix part : Nat)
  | dbgTraceCtl (die : Nat) (v : W64)
  | dbgTraceRead (die ix : Nat)
  | portTraining (port lanes : Nat) (word : W64) (tSend tEcho tTurn : Nat)
  | trainingStepTimeout (port : Nat)
  | trainFlit (port : Nat) (v : W64) (tSend tEcho tTurn : Nat)
  | linkCtrlAck (port seq : Nat)
  | linkCtrlReplay (port seq : Nat)
  | linkCtrlCredit (port vc n : Nat)
  | linkCtrlRetrain (port lane : Nat)
  | linkAckSend (port : Nat)
  | flitError (port lane : Nat)
  | linkUnackTimeout (port : Nat)
  | flitViolation (port kind : Nat) (x : XPort) (rtag : Option Nat)
  | ctrlRouteOpen (port : Nat) (h : CtrlHdr) (digest : W64) (via : Nat)
  | ctrlRouteReply (port : Nat) (h : CtrlHdr) (status : Nat) (digest : W64)
  | ctrlWithdraw (port : Nat) (h : CtrlHdr) (kind ix : Nat)
  | ctrlWithdrawAck (port : Nat) (h : CtrlHdr) (kind ix : Nat)
  | ctrlFlowRequest (port : Nat) (h : CtrlHdr) (rec flowix : Nat)
  | ctrlFlowReply (port : Nat) (h : CtrlHdr) (result flowix : Nat)
  | ctrlForwardDeclare (port : Nat) (h : CtrlHdr) (mask dst : Nat)
  | ctrlRetrain (port : Nat) (h : CtrlHdr)
  | ctrlCollect (port : Nat) (h : CtrlHdr) (v : W64)
  | ctrlPhaseEnd (port : Nat) (h : CtrlHdr) (phase cycle : Nat)
  | remoteReadRequest (port : Nat) (x : XPort) (req : W64)
  | remoteResolveRequest (port : Nat) (x : XPort) (req : W64)
  | remoteWriteRequest (port : Nat) (x : XPort) (req : W64) (w : Word)
  | remoteCasRequest (port : Nat) (x : XPort) (req : W64) (cmp new : Word)
  | remoteWriteBarRequest (port : Nat) (x : XPort) (req : W64) (w va : Word)
  | remoteResponse (port : Nat) (x : XPort) (resp : W64) (w : Word)
  | remoteRequestTimeout (rtag : Nat)
  | msgAckReceive (port : Nat) (x : XPort) (v : W64)
  | timeRequest (port : Nat) (v : W64) (t1 : Nat)
  | timeResponse (port : Nat) (v : W64) (t1 t2 t3 : Nat)
  | timeExchangeTick
  | timebaseLockTimeout
  | linkFailure (port cause : Nat)
  | epochEndTrigger
  | epochCapture
  | reflectLine (port : Nat) (desc : W64) (ws : List Word)
  | reflectSnap (port : Nat) (desc : W64) (ws : List Word)
  | reflectPstate (port : Nat) (desc : W64) (ws : List Word)
  | reflectQdesc (port : Nat) (desc : W64) (ws : List Word)
  | reflectFailed (port : Nat) (desc : W64) (ws : List Word)
  | reflectEmslot (port : Nat) (desc : W64) (ws : List Word)
  | reflectAfterglow (port : Nat) (desc : W64) (ws : List Word)
  | reflectGcmTag (port : Nat) (desc : W64) (ws : List Word)
  | reflectEpochEnd (port : Nat) (desc : W64)
  | journalApplyDone
  | reflectEpochAck (port : Nat) (desc : W64)
  | reflectHeartbeat (port : Nat) (desc : W64)
  | heartbeatSend
  | pairFormationTimeout
  | reflectRekey
  | reflectLinkLoss
  | twinAliveEdge
  | twinAliveSilent
  | twinAlivePatternEdge
  | settleWindowEnd
  | vaonLoss
  | vbakLoss
  | railReturn
  | crystalTickReturn
  | thermalExcursion
  | thermalReadmission
  | powerDomainWake (domain : Nat)
  | pcieLinkUp (rate width : Nat)
  | rngHealthFail
  | bootStageComplete
  | flitSlot (port : Nat)
  | routineRestartAbandon (ctx : Nat)
deriving DecidableEq, Repr

end Sys2Proof
end

