-- ==== Sys2Proof/Decode.lean ====
section
/-!
DEFINITION. The decoder of table words. The opcode table gives no row any bits: its rows are events and bus commands,
not encodings, so no word spells a command.
-/

namespace Sys2Proof

/-- The command that a word of nbits bits spells by the table's bits: none of the 201 rows has any. -/
def decodeTableWord (_nbits _w : Nat) : Option Instr := none

end Sys2Proof
end

