-- ==== Sys2Proof/Config.lean ====
section
/-!
DEFINITION. What the part fixes (R20 to R22, R34 to R36) and the free values: opaque constants, about which
nothing can be proved, for every value that the spec leaves open or names only by an outside standard.
-/

namespace Sys2Proof

/-- The three parts (R21). -/
inductive Part where
  | ah9512
  | ah9256
  | ah9128L
deriving DecidableEq, Repr

/-- Clusters that the part carries (R20, R21). -/
def Part.clusters : Part → Nat
  | .ah9512 => 32
  | .ah9256 => 16
  | .ah9128L => 8

/-- Compute dies that the part carries. -/
def Part.dies : Part → Nat
  | .ah9512 => 4
  | .ah9256 => 2
  | .ah9128L => 1

/-- DRAM stacks that the part carries. -/
def Part.stacks : Part → Nat
  | .ah9512 => 8
  | .ah9256 => 4
  | .ah9128L => 2

/-- Broif ports that the part carries. -/
def Part.ports : Part → Nat
  | .ah9512 => 16
  | .ah9256 => 8
  | .ah9128L => 4

/-- Largest mesh of the part (R36). -/
def Part.mesh : Part → Nat := Part.ports

/-- First local DRAM address that the part lacks (R34). -/
def Part.dramTop : Part → Nat
  | .ah9512 => 0x800000000
  | .ah9256 => 0x400000000
  | .ah9128L => 0x200000000

/-- Collector engines, big-number and rational routines are present (R21). -/
def Part.full : Part → Bool
  | .ah9128L => false
  | _ => true

/-- Reflection logic is present (R21). -/
def Part.hasReflect : Part → Bool := Part.full

/-- The Reflection anchor port (R35). -/
def Part.anchor : Part → Nat
  | .ah9512 => 15
  | .ah9256 => 7
  | .ah9128L => 3

/-- Cores of a cluster and contexts of a core. -/
def coresPerCluster : Nat := 16
def ctxPerCore : Nat := 32

/-- One free bit for each draw: where the spec says "one of the following, not predictable in advance". -/
opaque Config.freeBool : Nat → Bool

/-- One free 64-bit value for each draw. -/
opaque Config.freeW64 : Nat → W64

/-- One free natural number for each draw. -/
opaque Config.freeNat : Nat → Nat

/-- The order in which the steps of every 8 are given to a core that is throttled to k of them (R84, R452): the spec fixes the number of
issuing steps, not which they are. -/
opaque Config.throttleOrder : Nat → Nat → Nat

/-- The payload of a NaN that an IEEE operation makes from its operands; only that it is a NaN is fixed (R121). -/
opaque Config.nanPayload : Nat → W64 → W64 → W64 → W64

/-- Byte i of the SHA-512 digest of a string. -/
opaque Config.sha512Byte : List (BitVec 8) → Nat → BitVec 8

/-- Whether an ECDSA signature over a digest verifies under a public key (R376, R380, R488). -/
opaque Config.ecdsaVerify : List (BitVec 8) → List (BitVec 8) → List (BitVec 8) → Bool

/-- Byte i of the signature that a device key makes over a digest (R382). -/
opaque Config.ecdsaSignByte : List (BitVec 8) → List (BitVec 8) → Nat → BitVec 8

/-- Byte i of a key derived from a secret, a salt and a label (R378, R385, R395). -/
opaque Config.hkdfByte : List (BitVec 8) → List (BitVec 8) → List (BitVec 8) → Nat → BitVec 8

/-- The fused unique secret and the family key; their values are per device (R377, R399). -/
opaque Config.uds : List (BitVec 8)
opaque Config.familyKey : List (BitVec 8)

/-- Byte i of the public key that belongs to a secret. -/
opaque Config.publicKeyByte : List (BitVec 8) → Nat → BitVec 8

/-- Whether an AES-GCM tag over a record verifies under a key and counter (R395, R408). -/
opaque Config.gcmVerify : Nat → Nat → List (Nat × W64) → W64 × W64 → Bool

/-- The tag that the Sealing unit makes for a record. -/
opaque Config.gcmTag : Nat → Nat → List (Nat × W64) → W64 × W64

/-- A random byte of the random-number source. -/
opaque Config.rngByte : Nat → BitVec 8

/-- The fused feature words: fields that the spec leaves to the device (R371, R372). -/
opaque Config.fusedStepping : Nat
opaque Config.fusedRomId : W64

/-- The microword of the control store ROM at a micro-address (R198); its contents are the device's. -/
opaque Config.romMicroword : Nat → BitVec 168

/-- Which of the header bits [59:40] of a BIG object holds its sign: the spec calls the limbs a magnitude and names no place
for the sign (R50, R51). -/
opaque Config.bigSignBit : Nat

/-- A committed progress register of a numeric routine where the catalogue does not fix its value (R188): by routine,
segments committed and register. -/
opaque Config.routineProgress : Nat → Nat → Nat → W64

/-- SHA-512 of the firmware-signing public key, fused at manufacture (R373). -/
opaque Config.rootHash : List (BitVec 8)

/-- What a firmware slot holds, from the flash bytes of the slot: its public key, its signed bytes, their signature and its
SVN. The spec names the parts and not where they lie (R375). -/
opaque Config.fwKey : Tab Nat → List (BitVec 8)
opaque Config.fwSigned : Tab Nat → List (BitVec 8)
opaque Config.fwSig : Tab Nat → List (BitVec 8)
opaque Config.fwSvn : Tab Nat → Nat

/-- Scacor's key for capsules (R202, R203). -/
opaque Config.capsuleKey : List (BitVec 8)

/-- AES-256-GCM over bytes: whether a tag verifies, and byte i of the plaintext, from the key, the initial value, the additional
authenticated data, the ciphertext and the tag (R202). -/
opaque Config.gcmOpens : List (BitVec 8) → List (BitVec 8) → List (BitVec 8) → List (BitVec 8) → List (BitVec 8) → Bool
opaque Config.gcmPlainByte : List (BitVec 8) → List (BitVec 8) → List (BitVec 8) → List (BitVec 8) → Nat → BitVec 8

/-- The check bits of a word in on-chip memory, and check symbol i of a Reed-Solomon code of n check symbols over data symbols: the
spec gives the codes' sizes and strengths and not their generators (R39 to R41). -/
opaque Config.secDed : BitVec 72 → BitVec 8
opaque Config.rsCheck : Nat → List (BitVec 8) → Nat → BitVec 8

/-- The 256-bit keys that the Sealing unit draws from its random-number source, by draw (R385). -/
opaque Config.randomKey : Nat → BitVec 256

/-- The two algorithms that R386 names for a sealed line: byte i of AES-256-XTS under the data and the tweak key, with a tweak, and the 32 most
significant bits of AES-256-CMAC under the MAC key. -/
opaque Config.xtsByte : BitVec 256 → BitVec 256 → Nat → List (BitVec 8) → Nat → BitVec 8
opaque Config.cmac32 : BitVec 256 → List (BitVec 8) → BitVec 32

/-- The public key that the identity certificate in flash holds, where the certificate passes its check under ROOT_HASH
(R470, R485). -/
opaque Config.certKey : Tab Nat → Option (List (BitVec 8))

/-- The device's fixed pipelines in a measured round trip, in ns (R313, R320). -/
opaque Config.linkPipeline : Nat

/-- The doubleword numbers of the Power Management control, of the MSI-X message control, of the SR-IOV control and of the Device
Serial Number in a function's configuration space, which the device lays out as the PCI Express specification lets it (R470). -/
opaque Config.pmcsrReg : Nat
opaque Config.msixCtlReg : Nat
opaque Config.sriovCtlReg : Nat
opaque Config.serialReg : Nat

/-- What a configuration register whose contents the manual does not state reads as, by function, register and stored value. -/
opaque Config.cfgRead : Nat → Nat → W64 → W64

/-- SHA-512 as 64 bytes. -/
def sha512 (bs : List (BitVec 8)) : List (BitVec 8) := (List.range 64).map (Config.sha512Byte bs)

/-- The low 64 bits of a SHA-512 digest: its last 8 bytes, first byte most significant (R44). -/
def sha512Low (bs : List (BitVec 8)) : W64 := BitVec.ofNat 64 (natOfBytesBE ((sha512 bs).drop 56))

/-- The PRIV field of a frame that cannot be read, by the stack pointer that names it: the spec gives none (R277, R279). -/
opaque Config.eretPriv : W64 → Bool

/-- The DRAM stack that holds a local line: the spec lays no line on a stack (R20, R34). -/
opaque Config.lineStack : Nat → Nat

/-- The set of a directory slice that a line's entry takes; the spec gives the slice's size and ways and not its index (R216). -/
opaque Config.dirSet : Nat → Nat

/-- The micro-address of the i-th ROM microword that a routine's segment runs, at a draw; the ROM's contents are the device's (R198). -/
opaque Config.romPath : Nat → Nat → Nat

/-- The number of the queue, on a device, of the binding over which a partition's mark requests reach that device's Collector: formed by
the control path, which gives no number to it in the spec (R179, R308). -/
opaque Config.markBinding : Nat → Nat → Nat

end Sys2Proof
end

