-- ==== Sys2Proof/Machine/State.lean ====
section
/-!
DEFINITION. The state of the device as plain data, every register, buffer, queue and mode that the spec names,
the queue of waiting commands, the reasons a step can stop, and the state after reset.
-/

namespace Sys2Proof.Machine
open Sys2Proof

/-! ## A context (R56, R76, R85 to R107, R140, R197, R264, R288) -/

/-- The flags of a unit-state bank (R76). -/
structure Flags where
  z : Bool := false
  n : Bool := false
  c : Bool := false
  v : Bool := false
  t : Bool := false
deriving DecidableEq, Repr

/-- One flag, each a delivery destination of its own (R87). -/
inductive FlagId where
  | z | n | c | v | t
deriving DecidableEq, Repr

/-- What a fault sets (R270, R277, R278): the cause, the address, FINFO [31:0], EXT, HIGH and DEFERRED;
and the sealed partition that the access reached into, which is recorded (R394). -/
structure FaultRec where
  cause : Nat
  faddr : W64
  info : W64 := 0
  ext : Nat := 0
  high : Nat := 0
  deferred : Bool := false
  sealed : Option Nat := none
deriving DecidableEq, Repr

/-- A general register: a word, PENDING for the operation with the given number, or PENDING with the failed mark of the
operation with that number, and whether a read of it has faulted yet (R56, R95, R193). -/
inductive GReg where
  | word (w : Word)
  | pending (op : Nat)
  | failed (f : FaultRec) (op : Nat := 0) (told : Bool := false)
deriving DecidableEq, Repr

/-- A delivery destination (R87): a result port or stack latch, a flag or a general register. -/
inductive Dest where
  | port (a : Nat)
  | flag (f : FlagId)
  | greg (r : Nat)
deriving DecidableEq, Repr

/-- What a delivery brings: a word, a flag, or whatever the variable-latency operation has by then (R91). -/
inductive DVal where
  | word (w : Word)
  | flag (b : Bool)
  | op (id : Nat)
  | failed (f : FaultRec) (op : Nat := 0) (told : Bool := false)
deriving DecidableEq, Repr

/-- A delivery in flight: the unit, the packet that triggered it and the packet at which it is visible (R85). -/
structure Delivery where
  unit : Nat
  trig : Nat
  vis : Nat
  dest : Dest
  val : DVal
deriving DecidableEq, Repr

/-- A unit-state bank (R98): latches and result ports by long address, flags, packets committed, deliveries in
flight in trigger order, and the packet of each unit's last trigger. -/
structure Bank where
  latch : Tab Word := []
  flags : Flags := {}
  count : Nat := 0
  inflight : List Delivery := []
  lastTrig : Tab Nat := []
deriving DecidableEq, Repr

/-- The states of a context (R265). -/
inductive RunState where
  | notStarted | runnable | haltedFault | resetting
deriving DecidableEq, Repr

/-- The repeat state (R103, R274): none, armed with a count, or active with iterations still to issue, counting the
one at the program counter; `stop` records an `RPT.stop` of the current iteration. -/
inductive Repeat where
  | none
  | armed (count : Nat)
  | active (left : Nat)
deriving DecidableEq, Repr

/-- A control transfer in flight (R89): its target and the packets left; 0 while held until a repeat ends. -/
structure Xfer where
  target : Nat
  dist : Nat
deriving DecidableEq, Repr

/-- The kinds of access that a translation is checked for (R245, R255 ACCESS). -/
inductive Access where
  | fetch | load | store | cas | auWrite | dsPush | dsPop | rsPush | rsRead | table | card | resume | inval | iinval
deriving DecidableEq, Repr

/-- A variable-latency operation (R90). -/
inductive OpKind where
  | load (pa va : Nat) (stream weak : Bool)
  | uncachedLoad (pa va : Nat) (weak : Bool)
  | deviceLoad (pa va : Nat)
  | remoteLoad (pa va : Nat) (weak : Bool)
  | cas (pa va mtype : Nat) (cmp new : Word) (card : Option (Nat × Nat))
  | resolve (pa va : Nat) (w : Word) (weak : Bool)
  | evacuate (va : Nat)
  | routine
  | recv (qid : Nat) (wait : Bool)
  | derefFar (pa va : Nat) (w : Word)
  | prefetch (pa va : Nat) (beyond : Bool) (walkLeft : Nat)
deriving DecidableEq, Repr

/-- How a variable-latency operation ended: words for its destinations, or a fault (R95). -/
inductive OpResult where
  | words (ws : List Word)
  | fault (f : FaultRec)
deriving DecidableEq, Repr

/-- The miss slot's operation (R90): a number that links it to its PENDING registers, its destinations, the address
of the triggering packet, the privilege, and its result once it has one. -/
structure MissOp where
  id : Nat
  kind : OpKind
  dsts : List Nat
  pc : Nat := 0
  priv : Bool := false
  seq : Nat := 0
  result : Option OpResult := none
deriving DecidableEq, Repr

/-- The rows of R246: which memory types an access can be made to. -/
inductive TypeRow where
  | fetch | any | carCdr | casFix | cached
deriving DecidableEq, Repr

/-- One access that is translated: its address, kind, privilege and memory-type row (R245, R246, R251). -/
structure WalkReq where
  va : Nat
  acc : Access
  priv : Bool
  row : TypeRow
deriving DecidableEq, Repr

/-- A translation (R249): partition, ASID, page group, frame and attributes. -/
structure TlbEnt where
  part : Nat
  asid : Nat
  vpn : Nat
  ppn : Nat
  contig : Nat
  r : Bool
  w : Bool
  x : Bool
  u : Bool
  d : Bool
  typ : Nat
  gen : Nat
  rstack : Bool
deriving DecidableEq, Repr

/-- A walk result (R251): the translation or the fault of a walked page. -/
structure WalkRes where
  req : WalkReq
  res : TlbEnt ⊕ FaultRec
deriving DecidableEq, Repr

/-- Why a context is parked (R92, R116, R233, R260, R412); a parked context is ready once its condition has cleared. -/
inductive Park where
  | pending (regs : List Nat)
  | slot
  | tlb (walks : List WalkReq)
  | line (pa va : Nat)
  | storeQueue
  | message (regs : List Nat)
  | inval
  | rangeQueue
  | reissue
  | ctxReg (ctx reg : Nat)
  | epoch (line : Nat)
deriving DecidableEq, Repr

/-- A hold after commit (R116, R171, R491). -/
inductive Hold where
  | none
  | fence (kind : Nat)
  | tlbsync (ids : List Nat)
  | udrain
deriving DecidableEq, Repr

/-- A fetched packet with the word met, or the fetch fault held with it (R69, R256). -/
structure Fetched where
  pc : Nat
  word : Word ⊕ FaultRec
deriving DecidableEq, Repr

/-- The routine request record that `RQCTL`, `RQA` to `RQC` and `RQP0` to `RQP3` show (R197), what links it to its
destinations, and the nursery range that it has reserved and not yet written (R185). -/
structure RqRec where
  state : Nat := 0
  routine : Nat := 0
  dst : Nat := 0
  two : Bool := false
  priv : Bool := false
  segs : Nat := 0
  a : Word := Word.zero
  b : Word := Word.zero
  c : Word := Word.zero
  prog : List Word := []
  op : Nat := 0
  pc : Nat := 0
  gaop : Nat := 15
  restarts : Nat := 0
  range : Option (Nat × Nat) := none
deriving DecidableEq, Repr

/-- The context-scope registers of the `SY` window (R109, R140, R150, R159, R237, R264, R288, R308, R461). -/
structure CtxRegs where
  dchk : Bool := false
  aemu0 : Word := Word.zero
  aemu1 : Word := Word.zero
  aemuV : Bool := false
  aemuOps : List Word := []
  cause : W64 := 0
  faddr : W64 := 0
  finfo : W64 := 0
  ie : Bool := false
  ipend : Nat := 0
  ien : Nat := 0
  sdsbase : W64 := 0
  srsbase : W64 := 0
  xsel : Nat := 0
  xgidx : Nat := 0
  cmdst : Bool := false
  gfail : Bool := false
  nurptr : Nat := 0
  nurlim : Nat := 0
  goodc : Nat := 3
  goodcDue : Option Nat := none
  asid : Nat := 0
  root : Nat := 0
  rgbase : W64 := 0
  rglen : W64 := 0
  rgcq : W64 := 0
  qsel : Nat := 0
deriving DecidableEq, Repr

/-- A hardware context. `fetched` is the packet at the program counter and `ahead` the one fetched ahead of it (R69, R256); `walkRead`
is the leaf table word that the walk in flight has read and `walkFrom` the entry that it walks afresh (R251, R252); `held` is the hold
of a handshake (R171); `walking` tells that the core's walker has begun the walk that the context awaits (R251); `aemuLevel` counts the
entries made above the handler that set `AEMUCTL`.V (R140); `rqEnd` is the result of a routine whose last segment has committed and whose
stores are not yet visible, and `rqFail` the fault of one of them (R184, R192); `derefs` holds the answers of the
dereferences whose target another device holds (R148, R333). -/
structure Ctx where
  run : RunState := .notStarted
  priv : Bool := true
  pc : Nat := 0
  g : Tab GReg := []
  u : Bank := {}
  s : Bank := {}
  rpt : Repeat := .none
  xfers : List Xfer := []
  slot : Option MissOp := none
  park : Option Park := none
  hold : Hold := .none
  lastIssue : Option Nat := none
  fetched : Option Fetched := none
  ahead : Option Fetched := none
  walks : List WalkRes := []
  walkRead : Option (Nat × Word) := none
  walkFrom : Option Nat := none
  held : Bool := false
  derefs : List (Word × OpResult) := []
  regs : CtxRegs := {}
  em : Tab Word := []
  emv : Bool := false
  rq : RqRec := {}
  rqSuspended : Bool := false
  rqSeq : Nat := 0
  rqVis : Nat := 0
  rqEnd : Option (List Word) := none
  rqFail : Option FaultRec := none
  fenceSeq : Nat := 0
  invOut : List Nat := []
  recvEntry : Bool := false
  withdrawn : Option MissOp := none
  rqWant : Bool := false
  aemuPc : Option (Nat × Bool) := none
  aemuLevel : Option Nat := none
  walking : Bool := false
  recvWant : Bool := false
  dbgHalt : Bool := false
  dbgStep : Bool := false
  storeFaults : List FaultRec := []
  nurseryFault : Option FaultRec := none
  timer : Option Nat := none
  timerCmp : Nat := 0
  born : Nat := 0
deriving DecidableEq, Repr

/-! ## Cores and clusters (R22, R83, R116, R206 to R237, R249) -/

/-- An entry of a core's store queue, in commit order (R211): who stored, where, the memory type, the word, whether
an overwritten pointer is logged, and the card word and generation of its card OR; `alloc` marks a word of a new object, which is on its
way into the L1D and takes none of the sixteen entries (R145). -/
structure StoreEnt where
  ctx : Nat
  va : Nat
  pa : Nat
  typ : Nat
  word : Word
  log : Bool := false
  card : Option (Nat × Nat) := none
  seq : Nat := 0
  alloc : Bool := false
deriving DecidableEq, Repr

/-- A sub-block of an L1D sector (R207): valid, dirty and its eight words. -/
structure L1Sub where
  v : Bool := false
  d : Bool := false
  data : List Word := []
deriving DecidableEq, Repr

/-- A sector slot of an L1D (R207): physical sector number, age and sub-blocks. -/
structure L1Slot where
  tag : Nat := 0
  age : Nat := 0
  subs : Tab L1Sub := []
deriving DecidableEq, Repr

/-- An L1I line (R206). -/
structure L1ILine where
  v : Bool := false
  tag : Nat := 0
  data : List Word := []
deriving DecidableEq, Repr

/-- Why a core waits for a fill (R209 to R213). -/
inductive FillWhy where
  | demand | stream | store | nsp | fetch
deriving DecidableEq, Repr

/-- A fill that a core waits for (R210, R211): the line, why, for which context, whether it holds a shared entry of the
miss-tracking table, and whether the cluster's L2 had to ask the home for the line (R209). -/
structure FillReq where
  line : Nat
  va : Nat
  why : FillWhy
  ctx : Nat
  shared : Bool := false
  missed : Bool := false
deriving DecidableEq, Repr

/-- An entry of an L1D eviction buffer (R219); `written` once the L2 has it. -/
structure EvictEnt where
  line : Nat
  data : List Word
  written : Bool := false
deriving DecidableEq, Repr

/-- A core. A logged word stands in the log buffer with the context that stored over it (R168, R239). -/
structure Core where
  ptr : Nat := 0
  step : Nat := 0
  sq : List StoreEnt := []
  l1d : Tab L1Slot := []
  l1i : Tab L1ILine := []
  evict : List EvictEnt := []
  fills : List FillReq := []
  logbuf : Tab (List (Nat × Word)) := []
  lost : List Nat := []
  pfdrop : Nat := 0
  wayDisD : Nat := 0
  wayDisI : Nat := 0
  walkCnt : Nat := 0
  casFail : Nat := 0
  tlb : Tab TlbEnt := []
  lfsr : Nat := 1
deriving DecidableEq, Repr

/-- The L2 states (R215). -/
inductive L2St where
  | i | s | e | m
deriving DecidableEq, Repr

/-- A sub-block of an L2 sector (R207): state, words, presence of L1Ds and the W bit. -/
structure L2Sub where
  st : L2St := .i
  data : List Word := []
  pres : List Nat := []
  w : Bool := false
deriving DecidableEq, Repr

/-- A sector slot of an L2; `held` is a HELD slot of a locked way (R229). -/
structure L2Slot where
  tag : Option Nat := none
  age : Nat := 0
  held : Bool := false
  subs : Tab L2Sub := []
deriving DecidableEq, Repr

/-- An entry of an L2 writeback buffer (R220). -/
structure WbEnt where
  line : Nat
  data : List Word
  sent : Bool := false
  answered : Bool := false
deriving DecidableEq, Repr

/-- A directory entry of a home slice (R216). -/
inductive DirEnt where
  | shared (clusters : List Nat)
  | owned (cluster : Nat)
deriving DecidableEq, Repr

/-- A range operation in a cluster's queue (R233) and how far it has come. -/
structure RangeOp where
  ctx : Nat
  part : Nat
  asid : Nat
  root : Nat
  op : Nat
  cookie : Nat
  base : Nat
  len : Nat
  done : Nat := 0
  qid : Nat
  seq : Nat := 0
  lockFull : Bool := false
deriving DecidableEq, Repr

/-- A completion that the range engine holds (R234). -/
structure RangeDone where
  part : Nat
  qid : Nat
  words : List Word
deriving DecidableEq, Repr

/-- A Collector's request of COL_SCAN or COL_COPY (R164, R172, R188): the partition, the object's pointer and the first word of it
as it was read, the words to scan or copy, the copy's address and generation, the words done, the ASID and TBASE through which a barrier's
copy is translated (R507), and the errors of engines so far with the last one's number (R205). -/
structure CollJob where
  part : Nat
  copy : Bool
  ptr : Word
  first : Word
  src : Nat
  dst : Nat := 0
  gen : Nat := 0
  count : Nat
  done : Nat := 0
  xlate : Option (Nat × Nat) := none
  errs : Nat := 0
  lastEn : Nat := 0
deriving DecidableEq, Repr

/-- A routine request in a cluster's queue (R181, R182): a context's, or a Collector's, and when it joined the queue. -/
structure RoutineReq where
  ctx : Nat
  coll : Option CollJob := none
  stamp : Nat := 0
deriving DecidableEq, Repr

/-- What an entry of an engine's segment store buffer does at the commit (R163, R185, R199): a store, the heal of a slot from a word, a card
OR, or a message to the weak queue. -/
inductive SegKind where
  | store
  | heal (old : Word)
  | cardOr
  | send
deriving DecidableEq, Repr

/-- An entry of an engine's segment store buffer (R185): its addresses and word, whether the target device applies the barriers
(R333), its card, whether it logs the word that it overwrites, and what it does; and the context and partition whose request made it. -/
structure SegStore where
  ctx : Nat
  part : Nat
  va : Nat
  pa : Nat
  word : Word
  bar : Bool := false
  card : Option (Nat × Nat) := none
  log : Bool := true
  kind : SegKind := .store
deriving DecidableEq, Repr

/-- What a microword's memory port leaves for the commit (R185, R199): a store with its store barriers or without, a card OR, or a queue
message. -/
inductive MicroEff where
  | store (va : Nat) (w : Word) (bar : Bool)
  | cardOr (va : Nat) (w : Word)
  | send (w : Word)
deriving DecidableEq, Repr

/-- The sequencer while it runs patch words (R198 to R200): the micro-address, the microstack, the counter, the flags, the tag test,
the memory port's result, the line buffers, and what the segment has stored so far. -/
structure MicroState where
  addr : Nat
  stack : List Nat := []
  counter : Nat := 0
  z : Bool := false
  n : Bool := false
  c : Bool := false
  test : Bool := false
  failed : Bool := false
  mdata : Word := Word.zero
  line : List Word := []
  lbuf : Tab (List Word) := []
  stores : List MicroEff := []
deriving DecidableEq, Repr

/-- A Routine Engine (R182, R198 to R205): the context served, its TLB and retirement;
the Collector's job it serves; the partition that it served last, the segments committed in a row, the words that it has from other
devices; the heals that its segment holds until the commit and the committed stores that wait for an access (R183, R185); the sequencer in
patch RAM; and the working registers and the sequencer as they stood at the last commit, from which a segment runs again. -/
structure Engine where
  serving : Option Nat := none
  tlb : Tab TlbEnt := []
  lfsr : Nat := 1
  e : Tab Word := []
  retired : Bool := false
  lastPart : Option Nat := none
  run : Nat := 0
  remBuf : Tab Word := []
  job : Option CollJob := none
  heals : List (Nat × Word × Word) := []
  stores : List SegStore := []
  micro : Option MicroState := none
  e0 : Tab Word := []
  micro0 : Option MicroState := none
deriving DecidableEq, Repr

/-- Power states of a cluster as `CLSTATE` reports them (R453). -/
inductive ClState where
  | active | retain | draining | off
deriving DecidableEq, Repr

/-- A cluster. -/
structure Cluster where
  l2 : Tab L2Slot := []
  wb : List WbEnt := []
  missShared : Nat := 0
  nsp : Bool := true
  lockMask : Nat := 0
  spWays : Nat := 0
  disWays : Nat := 0
  penWays : Nat := 0
  cfgErr : Bool := false
  conflict : Bool := false
  ldisc : Nat := 0
  rangeQ : List RangeOp := []
  rangeHeld : List RangeDone := []
  rangeWon : Bool := false
  rangeTlb : Tab TlbEnt := []
  rangeLfsr : Nat := 1
  engines : Tab Engine := []
  reqQ : List RoutineReq := []
  power : ClState := .active
  idle : Bool := false
  throttle : Nat := 8
  toSpace : Tab Nat := []
  lost : List Nat := []
deriving DecidableEq, Repr

/-! ## Partitions (R43, R61, R157, R177, R197, R288) -/

/-- Work of a partition's Collector pass (R170 to R175): objects to scan, the positions of the root, card and overflow
scans, the flush of MARK_END, the evacuation cursor, the cycle and phase that each peer device has ended and that this one has told
(R179), of a handshake the contexts still to hold and the words that other devices have resolved (R171, R333), whether the weak
queue has refused a box (R172), and the regions that were ALLOC at MARK_END (R153). -/
structure CollWork where
  markQ : List Word := []
  rootIx : Nat := 0
  rootsDone : Bool := true
  card : Nat := 0
  cardsDone : Bool := true
  ovfRead : Nat := 0
  flushed : Bool := false
  held : Bool := false
  region : Nat := 0
  unit : Nat := 0
  poison : Bool := false
  peers : Tab Nat := []
  told : Nat := 0
  started : Bool := false
  shake : List Nat := []
  answers : Tab Word := []
  weakFull : Bool := false
  allocs : List Nat := []
deriving DecidableEq, Repr

/-- A partition on the device. Its Tag Descriptor Table lists the entries that the image configured (R61). -/
structure Partition where
  defined : Bool := false
  tdt : Tab W64 := []
  evec : W64 := 0
  gtbase : W64 := 0
  gtcnt : W64 := 0
  heapbase : W64 := 0
  heaplim : W64 := 0
  rtbase : W64 := 0
  cardbase : W64 := 0
  mbmbase : W64 := 0
  roottab : W64 := 0
  satbq : W64 := 0
  satbovf : W64 := 0
  weakq : W64 := 0
  tospq : W64 := 0
  ovfPos : Nat := 0
  weakclr : Bool := false
  marking : Bool := false
  flushing : Bool := false
  bgoodc : Nat := 3
  cycle : Nat := 0
  status : Nat := 0
  genmask : Nat := 0
  abort : Bool := false
  phase : Nat := 0
  promote : Bool := false
  coll : CollWork := {}
  rimode : W64 := 1
  sealed : Bool := false
  pdbell : W64 := 0
  pdbq : W64 := 0
  mqbounce : W64 := 0
  mqlost : W64 := 0
  tbaseDef : W64 := 0
  dchkDef : Bool := false
  grants : List (Nat × Nat) := []
  devacc : Bool := false
  mirrored : Bool := false
  reformed : Bool := false
  quiesced : Bool := false
  mrun : List (BitVec 8) := []
  slwinb : Nat := 0
  slwinl : Nat := 0
  slbuf : Nat := 0
  slLast : Nat := 0
  winFill : Option (Nat × Nat × Nat × Nat) := none
  winBase : Nat := 0
  slCmd : Option (Nat × Nat × List (BitVec 8)) := none
  tmctx : Nat := 0
  tmLast : Nat := 0
deriving DecidableEq, Repr

/-- An access performed at a home slice (R217): who waits for it, the word address and what is done. -/
inductive UncWho where
  | ctxOp (ctx op : Nat)
  | ctxStore (ctx seq : Nat)
  | engine (cluster engine : Nat)
  | collSlot (part : Nat) (phys : Bool) (slot : Nat) (w : Word)
  | collReg (part pa : Nat)
  | collWord (part slot : Nat)
  | heal (cluster : Nat) (engine : Option Nat)
  | none
deriving DecidableEq, Repr

inductive UncKind where
  | read
  | write (w : Word)
  | cas (cmp new : Word)
deriving DecidableEq, Repr

/-- What a store does beside its write (R165 to R168): the core, context and partition that log the word it overwrites, and its
card. -/
structure StoreMark where
  core : Nat
  ctx : Nat
  part : Nat
  log : Bool
  card : Option (Nat × Nat)
deriving DecidableEq, Repr

/-- An access that waits at its home (R217): whose it is, where, what it does there, and what a store does beside. -/
structure UncReq where
  who : UncWho
  pa : Nat
  kind : UncKind
  mark : Option StoreMark := none
deriving DecidableEq, Repr

/-- A broadcast invalidation (R257 to R260): its issuer, kind, ASID and address, and the units that have still to
remove entries and those that have still to acknowledge. -/
structure Inval where
  id : Nat
  ctx : Nat
  part : Nat
  kind : Nat
  asid : Nat
  va : Nat
  seq : Nat := 0
  toRemove : List TransUnit
  toAck : List TransUnit
  marks : List (TransUnit × Nat × Nat) := []
deriving DecidableEq, Repr

/-! ## Queues and messages (R289 to R311) -/

/-- What a message is, which fixes its SRCKIND and what its sender does on a refusal (R291, R297, R308). -/
inductive MsgKind where
  | ctx
  | host
  | satb (core : Nat) (ctxs : List Nat)
  | weak
  | markReq
  | rangeDone (cluster : Nat)
  | doorbell
  | drain (seq : Nat)
  | bounce
  | peer
deriving DecidableEq, Repr

/-- A message: its unit, what it is, the sending partition and context, the destination, its class and words; for
Sunlit its flow and deadline (R294, R339). -/
structure Msg where
  src : MsgFrom
  kind : MsgKind
  part : Nat
  ctx : Nat := 0
  srcDev : Nat := 0
  qid : Nat
  sun : Bool := false
  words : List Word
  flow : Nat := 0
  deadline : Nat := 0
deriving DecidableEq, Repr

/-- An outbox entry (R294): the message, the store number that its release waits for (R295), and whether it has
departed. -/
structure OutEnt where
  msg : Msg
  seq : Nat := 0
  sent : Bool := false
deriving DecidableEq, Repr

/-- A waiting receive (R300): the context, its operation and its first destination register. -/
structure Waiter where
  ctx : Nat
  op : Nat
deriving DecidableEq, Repr

/-- A queue's descriptor and pointers (R292, R311), and for each slot the words that the engine wrote there (R290) and the partition
whose message it holds (R304). -/
structure Queue where
  owned : Bool := false
  owner : Nat := 0
  slot16 : Bool := false
  log2 : Nat := 4
  base : Nat := 0
  bind : Nat := 0
  wake : Bool := false
  dbit : Nat := 0
  wmen : Bool := false
  vector : Nat := 0
  ctx : Nat := 0
  send : Nat := 0
  hiwm : Nat := 0
  lowm : Nat := 0
  head : Nat := 0
  tail : Nat := 0
  sunres : Nat := 0
  refused : Bool := false
  high : Bool := false
  enabled : Bool := false
  waiters : List Waiter := []
  wrote : Tab (List Word) := []
  froms : Tab Nat := []
deriving DecidableEq, Repr

/-- A Sunlit flow that a cluster sends on (R304, R334): rate in Gbit/s, burst, largest length, credits left and the
allowance. -/
structure Flow where
  part : Nat := 0
  cluster : Nat := 0
  qid : Nat := 0
  rate : Nat := 0
  burst : Nat := 0
  maxLen : Nat := 0
  credits : Nat := 0
  tokens : Nat := 0
  tokenTime : Nat := 0
  admitted : Bool := false
  late : Bool := false
deriving DecidableEq, Repr

/-- A Sunlit flow of another device that this device's control path admitted to a local queue (R335, R336): its device,
source cluster, FLOWIX, partition, queue, rate, burst and flits of a message. -/
structure InFlow where
  dev : Nat
  cluster : Nat
  ix : Nat
  part : Nat
  queue : Nat
  rate : Nat
  burst : Nat
  flits : Nat
deriving DecidableEq, Repr

/-- A request to another device that has no response yet (R327 to R331): its tag, operation, context, what waits for it,
the addresses, the memory word or words sent, the port, the time of issue, and the routine request whose store it is (R192). -/
structure RemReq where
  rtag : Nat
  op : Nat
  part : Nat
  ctx : Nat
  who : UncWho
  va : Nat
  pa : Nat
  colour : Nat := 0
  words : List Word := []
  port : Nat := 0
  time : Nat := 0
  req : Nat := 0
deriving DecidableEq, Repr

/-! ## Broif (R312 to R347) -/

/-- A withdrawal of a route (kind 0), flow (1) or binding (2) that waits for its acknowledgement (R25): the partition, the other device,
the index and the token of its control message; `sent` is false while the source's own Sunlit messages are still on their way. -/
structure Withdrawal where
  kind : Nat
  part : Nat
  dev : Nat
  ix : Nat
  token : Nat
  sent : Bool := true
deriving DecidableEq, Repr

/-- A flit (R314): type, virtual channel, destination and originating device, partition, items, sequence number and body. -/
structure Flit where
  typ : Nat
  vc : Nat := 0
  dst : Nat := 0
  src : Nat := 0
  part : Nat := 0
  count : Nat := 1
  seq : Nat := 0
  words : List Word := []
deriving DecidableEq, Repr

/-- An item of the Reflection stream (R408): its descriptor and the words that follow. -/
structure RefItem where
  desc : W64
  words : List Word := []
deriving DecidableEq, Repr

/-- A port (R312 to R347): `BPSTAT` and `BPVIOL`, the training attempt, the sequenced link with its replay buffer, the
flits that wait, the credits of each virtual channel and what was last on the wire; the type and the items still to come of a flit being
received (R315), the newest replayed flits that hold no credit since the training (R316), how far the TRAIN exchange has come (R320), the
flits that leave before the training that a failure starts, the lane that the port last attributed a failure to (R325), and the device with
which the peer synchronises, with its VIA (R321); for a Reflection port the rest of the item being sent, the items not yet acknowledged
with the stream position at which each ends, and the words sent (R408). -/
structure Link where
  st : Nat := 0
  reason : Nat := 0
  peerDev : Nat := 0
  peerPort : Nat := 0
  flight : Bool := false
  retrains : Nat := 0
  active : Nat := 0
  retired : Nat := 0
  viol : W64 := 0
  step : Nat := 0
  stepTime : Nat := 0
  attempts : List Nat := []
  trainEcho : Nat := 0
  trainHeard : Nat := 0
  peerPart : Nat := 0
  offered : Bool := false
  echoSent : Bool := false
  echoHeard : Bool := false
  doneSent : Bool := false
  trained : Bool := false
  parting : List Flit := []
  faultLane : Option Nat := none
  txSeq : Nat := 0
  replay : List Flit := []
  resend : List Flit := []
  rxSeq : Nat := 0
  discarding : Bool := false
  openItems : Nat × Nat := (0, 0)
  uncredited : Nat := 0
  replaySeq : Nat := 0
  replayCount : Nat := 0
  ackTime : Nat := 0
  waiting : List Flit := []
  credits : Tab Nat := []
  sinceCtrl : Nat := 16
  wire : Option Flit := none
  rxSince : Nat := 0
  freed : Tab Nat := []
  lastLane : Nat := 0
  violTimes : List Nat := []
  reflRest : List Word := []
  reflSent : List (RefItem × Nat) := []
  reflOut : Nat := 0
  peerLock : Bool := false
  peerSync : Option (Nat × Bool) := none
deriving DecidableEq, Repr

/-- The synchronisation of the timebase (R343, R344): `TBSTAT`, consecutive good exchanges, the time of the last one,
the outstanding request's t1, whether the timebase has been set, the slew still to make, and the lowest-numbered device known to be present
(16 while none is). -/
structure TimeSync where
  src : Nat := 0
  via : Bool := false
  master : Bool := false
  lock : Bool := false
  good : Nat := 0
  last : Nat := 0
  t1 : Option Nat := none
  isSet : Bool := false
  slew : Int := 0
  slewNs : Nat := 0
  root : Nat := 16
deriving DecidableEq, Repr

/-! ## The configuration image (R348 to R372) -/

/-- A FLOW record (R358) with its partition. -/
structure FlowRec where
  part : Nat
  rate : Nat
  maxLen : Nat
  burst : Nat
  srccl : Nat
  dst : Nat
deriving DecidableEq, Repr

/-- A QUEUE record (R356). -/
structure QueueRec where
  num : Nat
  en : Bool
  qring : W64
  qbind : W64
  qsend : W64
  qwm : W64
deriving DecidableEq, Repr

/-- A PARTITION section with its TDT and QUEUE sections (R352 to R356), and the bytes that M_PART measures (R383). -/
structure ImgPart where
  num : Nat
  dchk : Bool := false
  rimode : Bool := false
  devacc : Bool := false
  sealed : Bool := false
  evec : W64 := 0
  gt : W64 := 0
  tbase : W64 := 0
  bootctx : Nat := 0
  mqbounce : Nat := 0
  pdbq : Nat := 0
  ctxs : List W64 := []
  grants : List (Nat × Nat × Nat) := []
  tdt : Tab W64 := []
  queues : List QueueRec := []
  bytes : List (BitVec 8) := []
deriving DecidableEq, Repr

/-- A RATELIM record (R361). -/
structure RateRec where
  burst : Nat
  rate : Nat
  mask : Nat
  code : Nat
deriving DecidableEq, Repr

/-- A REFLECT section (R359). -/
structure ReflectRec where
  portmask : Nat
  twin : Nat
  primary : Bool
  mirrored : Nat
deriving DecidableEq, Repr

/-- The configuration image in force and its lock (R348 to R372). -/
structure Image where
  inForce : Bool := false
  lock : Bool := false
  id : W64 := 0
  svn : Nat := 0
  partMask : Nat := 0
  portmask : Nat := 0
  lrmask : Nat := 0
  anyslot : Bool := false
  slot : Nat := 0
  agen : Bool := false
  agq : Nat := 0
  mesh : Nat := 0
  parts : List ImgPart := []
  cache : Tab W64 := []
  routes : List (Nat × Nat × Nat) := []
  flows : List FlowRec := []
  reflect : Option ReflectRec := none
  cloff : Nat := 0
  sealoff : Bool := false
  pcieoff : Bool := false
  portoff : Nat := 0
  vmax : Nat := 950
  vmin : Nat := 600
  rates : List RateRec := []
  thresh : Tab (Nat × Nat) := []
  digest : List (BitVec 8) := []
  owner : List (BitVec 8) := []
deriving DecidableEq, Repr

/-! ## Boot, fuses and sealing (R373 to R398) -/

/-- An owner slot (R373, R380). -/
structure OwnerSlot where
  hash : List (BitVec 8)
  revoked : Bool := false
deriving DecidableEq, Repr

/-- A fuse change that takes effect at the next cold or warm reset (R380, R381). -/
inductive FuseBlow where
  | owner (slot : Nat) (hash : List (BitVec 8))
  | revoke (slot : Nat)
  | fwSvn (n : Nat)
  | capSvn (n : Nat)
  | imgSvn (slot n : Nat)
deriving DecidableEq, Repr

/-- The keys of a sealed partition (R385): XTS data, XTS tweak and MAC. -/
structure SealKeys where
  data : BitVec 256
  tweak : BitVec 256
  mac : BitVec 256
deriving DecidableEq, Repr

/-- Memory that a sealed partition left in sealed form under keys that a reset has discarded: its grants, its window, and the lines accessed
since (R385, R386). -/
structure StaleSeal where
  keys : SealKeys
  grants : List (Nat × Nat)
  window : Nat × Nat
  done : List Nat := []
deriving DecidableEq, Repr

/-- The fuses (R373), the boot stage (R374), the measurements, the key store and the sealed map (R375 to R393). -/
structure Trust where
  stage : Nat := 0
  owners : Tab OwnerSlot := []
  fwSvnMin : Nat := 0
  capSvnMin : Nat := 0
  imgSvnMin : Tab Nat := []
  debugDisable : Bool := false
  fuseBad : Bool := false
  blows : List FuseBlow := []
  mFw : List (BitVec 8) := []
  fwSvn : Nat := 0
  mCaps : List (BitVec 8) := []
  capsules : List (Nat × Nat) := []
  idKey : Bool := false
  rngOk : Bool := true
  keyDraw : Nat := 0
  keys : Tab SealKeys := []
  stale : List StaleSeal := []
  sealedMap : List (Nat × Nat) := []
  sealedOvf : Bool := false
  dbgLevel : Nat := 0
  vaonNew : Bool := true
  warm : Bool := false
  writeback : Bool := false
  bootBad : Bool := false
  active : Nat := 0
  patch : Tab (BitVec 168) := []
  matchRegs : Tab Nat := []
deriving DecidableEq, Repr

/-! ## Afterglow, lifetime and calendar (R421 to R448, R506) -/

/-- An aggregation entry (R433). -/
structure AggEnt where
  code : Nat
  subj : W64
  open' : Nat
  count : Nat
  first : W64
  last : W64
  lastT : Nat
deriving DecidableEq, Repr

/-- A code's suppression count (R432) and when its SUPP record is due. -/
structure Supp where
  due : Nat
  sev : Nat
  subj : W64
  count : Nat
  firstT : Nat
  lastT : Nat
deriving DecidableEq, Repr

/-- A tracked resource of the Penumbra table (R439). -/
structure PenEnt where
  cls : Nat
  subj : W64
  count : Nat
  start : Nat
deriving DecidableEq, Repr

/-- A code's token bucket (R431): the tokens in thousandths of a millionth, and when they were counted. -/
structure Bucket where
  level : Nat
  time : Nat
deriving DecidableEq, Repr

/-- The Afterglow recorder. -/
structure Afterglow where
  ring : Tab Word := []
  ringBad : List Nat := []
  nextSeq : Nat := 0
  mode : Nat := 0
  ringFail : Bool := false
  alertFb : Bool := false
  alertSev : Bool := false
  alertRing : Bool := false
  fb : Tab Word := []
  fbCount : Nat := 0
  drainSeq : Nat := 0
  refused : Nat := 0
  drainSent : Bool := false
  drainRetry : Option Nat := none
  drainLost : Nat := 0
  repLost : Nat := 0
  lostNow : Nat := 0
  aggFull : Nat := 0
  penEvict : Nat := 0
  agg : Tab AggEnt := []
  supps : Tab Supp := []
  buckets : Tab Bucket := []
  pen : Tab PenEnt := []
deriving DecidableEq, Repr

/-- A history entry of the lifetime block (R444). -/
structure HistEnt where
  typ : Nat
  svn : Nat
  id : W64
  cal : Nat
deriving DecidableEq, Repr

/-- The lifetime block (R443, R444). -/
structure Lifetime where
  generation : Nat := 0
  powerOnS : Nat := 0
  coldBoots : Nat := 0
  warmBoots : Nat := 0
  thermExc : Nat := 0
  thermTrips : Nat := 0
  thermS : Nat := 0
  vtInt : Tab Nat := []
  vtAcc : Tab Nat := []
  rowsSpared : Tab Nat := []
  lanes : Tab Nat := []
  l2Ways : Tab Nat := []
  coreWays : Tab Nat := []
  engines : Nat := 0
  pendRows : List Nat := []
  histCount : Nat := 0
  hist : Tab HistEnt := []
  valid : Bool := false
  saveDue : Bool := false
  busy : Bool := false
  lastWrite : Nat := 0
  failTime : Option Nat := none
  subNs : Nat := 0
deriving DecidableEq, Repr

/-- The calendar (R446) and `CALALM` (R467). -/
structure Calendar where
  sec : Nat := 0
  sub : Nat := 0
  trim : W64 := 0
  valid : Bool := false
  vbakLoss : Bool := false
  oscFail : Bool := false
  phase : Nat := 0
  trimAcc : Int := 0
  almSec : Nat := 0
  almEn : Bool := false
  almFired : Bool := false
  almDue : Option Nat := none
deriving DecidableEq, Repr

/-! ## Power (R30 to R32, R449 to R467, R496 to R501) -/

/-- The power controller, the thermal limits, the watchdog, the rails and the reset pins. -/
structure Power where
  plimit : Nat := 760
  retdly : Nat := 100
  srdly : Nat := 50
  tj : Nat := 0
  vcore : Nat := 0
  watts : Nat := 0
  trip : Bool := false
  nosun : Bool := false
  hot : Bool := false
  throttle : Bool := false
  vrqAlert : Bool := false
  regulator : Bool := true
  clLast : Nat := 0
  hotSince : Option Nat := none
  hotPeak : Nat := 0
  hotCounted : Bool := false
  coolSince : Option Nat := none
  wdPeriod : Nat := 0
  wdExpired : Bool := false
  wdAction : Bool := false
  wdEn : Bool := false
  wdStart : Option Nat := none
  refLost : Bool := false
  refAlert : Bool := false
  railsLow : List Nat := []
  heldReset : Bool := false
  stacksAsleep : List Nat := []
  diesOff : List Nat := []
  portsOff : List Nat := []
  pcieOff : Bool := false
  sealOff : Bool := false
  domLast : Nat := 0
  idleSince : Tab Nat := []
  vaon : Bool := true
deriving DecidableEq, Repr

/-! ## Host, SMBus, flash and debug (R468 to R492) -/

/-- A completion that a function returned, or a command's answer (R471): function, status 0 OK, 1 UR, 2 CRS, whether a
word is POISON, and the bytes or words. -/
structure Cpl where
  fn : Nat
  status : Nat
  ep : Bool := false
  data : List (BitVec 8) := []
deriving DecidableEq, Repr

/-- A mailbox command that runs (R478, R479): its code and argument, its buffer's address and bytes, and what they answer. -/
structure HostCmd where
  cmd : Nat
  arg : Nat
  addr : Nat
  bytes : List (BitVec 8)
  last : Nat := 0
  detail : Nat := 0
deriving DecidableEq, Repr

/-- The host interface. `reform` is the accepted image of the re-forming that runs, `reformQ` the re-formings that wait for it and
`heldStart` the STARTs, by issuer and context, that it holds (R369, R370). -/
structure HostIf where
  hmbuf : W64 := 0
  last : Nat := 0
  detail : Nat := 0
  takeover : Bool := false
  alarm : Bool := false
  busy : Option HostCmd := none
  sendWords : Tab Word := []
  sendStat : Tab Nat := []
  isolated : List Nat := []
  refusals : Tab (List Nat) := []
  mse : List Nat := []
  d3 : List Nat := []
  cfg : Tab W64 := []
  msixTable : Tab Word := []
  msixPend : List (Nat × Nat) := []
  msixOn : List Nat := []
  msixHold : List Nat := []
  linkUp : Bool := false
  linkRate : Nat := 0
  linkWidth : Nat := 0
  cpls : List Cpl := []
  heldReset : List Nat := []
  heldStart : List (Nat × Nat) := []
  reform : Option Image := none
  reformQ : List HostCmd := []
deriving DecidableEq, Repr

/-- A flash operation that waits or runs (R486). -/
inductive FlashOp where
  | write (off : Nat) (bytes : List (BitVec 8))
  | erase (off : Nat)
deriving DecidableEq, Repr

/-- The SPI flash (R485): an unlisted byte is erased, 0xFF; and the operations queued for it. -/
structure Flash where
  bytes : Tab Nat := []
  ops : List (FlashOp × Nat) := []
deriving DecidableEq, Repr

/-- The SMBus target (R481, R482). -/
structure Smbus where
  addr : Nat := 0
  last : Nat := 0
  flash : Nat := 0
  out : List (BitVec 8) := []
deriving DecidableEq, Repr

/-- A die's trace buffer (R204, R492). -/
structure TraceBuf where
  mode : Nat := 0
  pos : Nat := 0
  ents : Tab Word := []
  extra : List Nat := []
  dropped : Nat := 0
deriving DecidableEq, Repr

/-- The debug chain (R487 to R492). -/
structure Debug where
  nonce : List (BitVec 8) := []
  draws : Nat := 0
  refusals : Nat := 0
  op : Nat := 0
  status : Nat := 0
  ctx : Nat := 0
  addr : Nat := 0
  data : Word := Word.zero
  extest : Bool := false
  trace : Tab TraceBuf := []
deriving DecidableEq, Repr

/-! ## Reflection (R399 to R420) -/

/-- An output of a mirrored partition that is held (R413). -/
inductive HeldOut where
  | msg (m : Msg)
  | msix (fn v : Nat)
  | cpl (c : Cpl)
deriving DecidableEq, Repr

/-- The Reflection logic. -/
structure Reflect where
  state : Nat := 0
  role : Bool := false
  twin : Nat := 0
  refuse : Nat := 0
  hbIn : Nat := 0
  relinq : Bool := false
  lastEdgeIn : Option Nat := none
  pinIn : Bool := false
  pinOut : Bool := false
  lastEdgeOut : Nat := 0
  committed : Nat := 0
  current : Nat := 0
  epochStart : Nat := 0
  ending : Bool := false
  acked : Bool := true
  openLines : List Nat := []
  shipLines : List Nat := []
  cap : Nat := 0
  heldOuts : List (Nat × HeldOut) := []
  outItems : List RefItem := []
  half : List RefItem := []
  applying : List RefItem := []
  snaps : List RefItem := []
  settle : Option Nat := none
  lastHb : Option Nat := none
  lastHbOut : Nat := 0
  releaseTime : Option Nat := none
  copyEpoch : Option Nat := none
  running : Bool := false
  taking : Bool := false
  authed : Bool := false
  gcmCount : Nat := 0
  gcmSince : Nat := 0
  gcmKey : Nat := 0
  gcmIn : Nat := 0
  gcmBuf : List RefItem := []
  copy : List (Nat × Nat) := []
  throttled : Option Nat := none
  timeOff : Int := 0
  t1 : Option Nat := none
deriving DecidableEq, Repr

/-- The device; `boardSlot` is the level of the BOARD_SLOT straps, which RESET_N and a warm reset sample into `dev` (R495);
`relays` are the two-hop routes that go through this device (R326). -/
structure State where
  part : Part := .ah9512
  dev : Nat := 0
  boardSlot : Nat := 0
  time : Nat := 0
  freeIx : Nat := 0
  nextOp : Nat := 0
  mem : List (Nat × Word) := []
  ctxs : Tab Ctx := []
  cores : Tab Core := []
  clusters : Tab Cluster := []
  dir : Tab DirEnt := []
  parts : Tab Partition := []
  owner : Tab Nat := []
  unc : List UncReq := []
  invals : List Inval := []
  nextInval : Nat := 0
  nextSeq : Nat := 0
  queues : Tab Queue := []
  flows : Tab Flow := []
  inFlows : List InFlow := []
  msgs : List Msg := []
  routes : List (Nat × Nat × Nat) := []
  remotes : List RemReq := []
  msix : List (Nat × Nat) := []
  outbox : List OutEnt := []
  reports : List Report := []
  img : Image := {}
  ports : Tab Link := []
  tsync : TimeSync := {}
  forwards : List (Nat × Nat × Nat) := []
  relays : List (Nat × Nat × Nat) := []
  withdrawn : List Withdrawal := []
  withdrawing : List Withdrawal := []
  unbound : List (Nat × Nat) := []
  trust : Trust := {}
  glow : Afterglow := {}
  life : Lifetime := {}
  cal : Calendar := {}
  power : Power := {}
  hostIf : HostIf := {}
  flash : Flash := {}
  staging : Tab Word := []
  smb : Smbus := {}
  dbg : Debug := {}
  refl : Reflect := {}
  pending : List Instr := []
deriving DecidableEq, Repr

/-! ## Why a step can stop -/

/-- Faults of the block: none. Every event of this hardware that goes wrong is an effect on the state: an exception entry
of a context, an error record, a refused command, so no command ends a run. -/
inductive Fault where
deriving DecidableEq, Repr

/-- Refusals. -/
inductive Refusal where
  /-- A command that has no meaning yet; safe, since nothing can then be proved of a next state. Raised by `exec`. -/
  | notModelled (mnemonic : String)
deriving DecidableEq, Repr

/-! ## Reset -/

/-- The device right after cold reset (R449, R463): an AH-9512 in board slot 0 with no image in force. -/
def State.reset : State := {}

end Sys2Proof.Machine
end

