-- ==== Sys2Proof/Machine/Ops.lean ====
section
/-!
DEFINITION. The named operations over the sparse tables, memory, contexts, cores, clusters and partitions, the fault
records, the seal of a frame, and the address map of R34.
-/

namespace Sys2Proof.Machine
open Sys2Proof

/-! ## Sparse tables and memory -/

/-- The entry of a key, or the default. -/
def tget {α : Type} (d : α) : Tab α → Nat → α
  | [], _ => d
  | (k, v) :: t, n => if n = k then v else tget d t n

/-- Whether a key is listed. -/
def thas {α : Type} (t : Tab α) (n : Nat) : Bool := t.any fun e => e.1 == n

/-- A key set to a value, in key order. -/
def tput {α : Type} : Tab α → Nat → α → Tab α
  | [], n, v => [(n, v)]
  | (k, w) :: t, n, v =>
    if n = k then (n, v) :: t else if n < k then (n, v) :: (k, w) :: t else (k, w) :: tput t n v

/-- Every entry of a key removed. -/
def tdel {α : Type} (t : Tab α) (n : Nat) : Tab α := t.filter fun e => e.1 != n

/-- A word of local memory: an unlisted word reads FIX 0 (R225, R464). -/
def memGet (m : List (Nat × Word)) (a : Nat) : Word := tget Word.zero m a

/-- A word written to local memory; FIX 0 is never listed. -/
def memPut (m : List (Nat × Word)) (a : Nat) (w : Word) : List (Nat × Word) :=
  if w = Word.zero then tdel m a else tput m a w

/-- The canonical form of memory: addresses strictly rising, no entry FIX 0. -/
def Memory.wf (m : List (Nat × Word)) : Bool :=
  decide (m.Pairwise fun a b => a.1 < b.1) && m.all fun e => decide (e.2 ≠ Word.zero)

/-- A word of the state's memory read or written; a write marks its line in OPEN (R407). -/
def readWord (s : State) (a : Nat) : Word := memGet s.mem a

/-- Whether a write to a line sets its bit in OPEN (R407): a line of a mirrored grant, on a Primary whose pair has formed. -/
def marksOpen (s : State) (line : Nat) : Bool :=
  s.refl.running && !s.refl.role && decide (2 ≤ s.refl.state) && decide (s.refl.state ≤ 4) && !s.refl.openLines.contains line &&
    s.parts.any fun e => e.2.mirrored && e.2.grants.any fun g => decide (g.1 ≤ line * 8 + 7) && decide (line * 8 < g.1 + g.2)

def writeWord (s : State) (a : Nat) (w : Word) : State :=
  let s1 := { s with mem := memPut s.mem a w }
  if marksOpen s (a / 8) then { s1 with refl := { s1.refl with openLines := s1.refl.openLines ++ [a / 8] } } else s1

/-- Consecutive words written from address a. -/
def writeWords (s : State) (a : Nat) : List Word → State
  | [] => s
  | w :: ws => writeWords (writeWord s a w) (a + 1) ws

/-- The eight words of a line read from memory. -/
def memLine (s : State) (line : Nat) : List Word := (List.range 8).map fun i => readWord s (line * 8 + i)

/-! ## Records of the state -/

def getCtx (s : State) (c : Nat) : Ctx := tget {} s.ctxs c
def setCtx (s : State) (c : Nat) (x : Ctx) : State := { s with ctxs := tput s.ctxs c x }
def modCtx (s : State) (c : Nat) (f : Ctx → Ctx) : State := setCtx s c (f (getCtx s c))

def getCore (s : State) (k : Nat) : Core := tget {} s.cores k
def setCore (s : State) (k : Nat) (x : Core) : State := { s with cores := tput s.cores k x }
def modCore (s : State) (k : Nat) (f : Core → Core) : State := setCore s k (f (getCore s k))

def getCluster (s : State) (k : Nat) : Cluster := tget {} s.clusters k
def setCluster (s : State) (k : Nat) (x : Cluster) : State := { s with clusters := tput s.clusters k x }
def modCluster (s : State) (k : Nat) (f : Cluster → Cluster) : State := setCluster s k (f (getCluster s k))

/-- A Routine Engine of a cluster. -/
def engineOf (s : State) (cl i : Nat) : Engine := tget {} (getCluster s cl).engines i
def modEngine (s : State) (cl i : Nat) (f : Engine → Engine) : State :=
  modCluster s cl fun k => { k with engines := tput k.engines i (f (tget {} k.engines i)) }

def getPart (s : State) (p : Nat) : Partition := tget {} s.parts p
def setPart (s : State) (p : Nat) (x : Partition) : State := { s with parts := tput s.parts p x }
def modPart (s : State) (p : Nat) (f : Partition → Partition) : State := setPart s p (f (getPart s p))

/-- The core and the cluster of a context, and the cluster of a core (R136). -/
def coreOf (c : Nat) : Nat := c / 32
def clusterOf (c : Nat) : Nat := c / 512
def clusterOfCore (k : Nat) : Nat := k / 16

/-- The partition of a context; a context that no partition owns counts as partition 0 of 32 unowned ones. -/
def partOf (s : State) (c : Nat) : Nat := tget 0 s.owner c
def owned (s : State) (c : Nat) : Bool := thas s.owner c
def ctxPart (s : State) (c : Nat) : Partition := getPart s (partOf s c)

/-- The contexts of a partition on the device. -/
def ctxsOf (s : State) (p : Nat) : List Nat := (s.owner.filter fun e => e.2 == p).map Prod.fst

/-- The unit-state bank in use (R98). -/
def curBank (x : Ctx) : Bank := if x.priv then x.s else x.u
def setCurBank (x : Ctx) (b : Bank) : Ctx := if x.priv then { x with s := b } else { x with u := b }
def modCurBank (x : Ctx) (f : Bank → Bank) : Ctx := setCurBank x (f (curBank x))

/-- A latch or result port as a bank holds it; FIX 0 after context reset (R80). -/
def latchOf (b : Bank) (a : Nat) : Word := tget Word.zero b.latch a
def setLatch (b : Bank) (a : Nat) (w : Word) : Bank := { b with latch := tput b.latch a w }

/-- A general register; FIX 0 after context reset (R266). -/
def gOf (x : Ctx) (r : Nat) : GReg := tget (.word Word.zero) x.g r
def setG (x : Ctx) (r : Nat) (v : GReg) : Ctx := { x with g := tput x.g r v }

/-- Whether a register holds PENDING without a failed mark (R46 check 1, R56): an operation's, or a word with that tag that a load has
brought from memory. -/
def gPending (x : Ctx) (r : Nat) : Bool :=
  match gOf x r with | .pending _ => true | .word w => w.tag == tagPENDING | .failed .. => false

/-- A fresh number for a variable-latency operation. -/
def freshOp (s : State) : Nat × State := (s.nextOp, { s with nextOp := s.nextOp + 1 })

/-- A free bit, each draw at a counter of its own. -/
def drawBool (s : State) : Bool × State := (Config.freeBool s.freeIx, { s with freeIx := s.freeIx + 1 })
def drawNat (s : State) : Nat × State := (Config.freeNat s.freeIx, { s with freeIx := s.freeIx + 1 })

/-- A word of which nothing is known. -/
def drawWord (s : State) : Word × State :=
  (⟨BitVec.ofNat 8 (Config.freeNat s.freeIx), Config.freeW64 s.freeIx⟩, { s with freeIx := s.freeIx + 1 })

/-- A report takes one of the recorder's 1,024 places, or is dropped and counted (R428). -/
def enterReport (s : State) (r : Report) : State :=
  if s.reports.length < 1024 then { s with reports := s.reports ++ [r] }
  else { s with glow := { s.glow with repLost := min 0xFFFF (s.glow.repLost + 1), lostNow := s.glow.lostNow + 1 } }

/-- A unit's report sent to the recorder over the control network (R428). -/
def report (s : State) (code : Nat) (subj : Subject) (pay : List W64 := []) (wit : Option Subject := none) : State :=
  enterReport s { code, subj, pay, wit, time := s.time }

/-! ## Epochs of a mirrored partition (R405 to R407) -/

/-- Lanes that carry traffic. -/
def laneCount (mask : Nat) : Nat := ((List.range 4).filter fun i => mask / 2 ^ i % 2 == 1).length

/-- CAP (R405): half the Twin's journal, and what the UP Reflection ports ship in 2 ms. -/
def reflCap (s : State) : Nat :=
  let ship (e : Nat × Link) : Nat := if e.2.st ≠ 5 then 0 else if laneCount e.2.active ≤ 3 then 878250 else 1171000
  min s.refl.cap (s.ports.foldl (fun n e => n + ship e) 0)

/-- Whether a partition's engines pause for the end of an epoch (R406). -/
def reflPauses (s : State) (p : Nat) : Bool := s.refl.ending && (getPart s p).mirrored

/-- Whether a write to a line waits until the line has been shipped (R407). -/
def shipWaits (s : State) (line : Nat) : Bool := s.refl.shipLines.contains line

/-! ## Flits on their way out of a port (R314 to R322) -/

def getPort (s : State) (p : Nat) : Link := tget {} s.ports p
def setPort (s : State) (p : Nat) (x : Link) : State := { s with ports := tput s.ports p x }
def modPort (s : State) (p : Nat) (f : Link → Link) : State := setPort s p (f (getPort s p))

/-- A flit handed to a port's link layer (R315). -/
def sendFlit (s : State) (port : Nat) (f : Flit) : State := modPort s port fun p => { p with waiting := p.waiting ++ [f] }

/-- The port that joins this device to another (R35). -/
def directPort (_ : State) (dev : Nat) : Nat := dev

/-- The port by which control traffic reaches a device: the direct one, or, while its link is down, the lowest-numbered
mesh port that is UP, whose device relays (R27). -/
def ctrlPort (s : State) (dev : Nat) : Nat :=
  if (getPort s (directPort s dev)).st = 2 then directPort s dev
  else ((s.ports.find? fun e => e.2.st == 2).map Prod.fst).getD (directPort s dev)

/-- The header of a control message (R322). -/
def ctrlHeader (s : State) (op target part args token : Nat) : Word :=
  ⟨tagRAW, field op 56 ||| field s.dev 52 ||| field target 48 ||| field part 43 ||| field args 40 ||| field token 32⟩

/-- A control message sent to a device on VC 0 (R27, R322). -/
def sendCtrl (s : State) (target op part : Nat) (args : List Word) (token : Nat := 0) : State :=
  sendFlit s (ctrlPort s target)
    { typ := 3, vc := 0, dst := target, src := s.dev, part, count := args.length + 1
      words := ctrlHeader s op target part args.length token :: args }

/-- Whether a partition's outputs are held for an epoch on this device (R413, R416). -/
def outputsHeld (s : State) (p : Nat) : Bool :=
  (s.refl.state == 3 || s.refl.state == 4) && !s.refl.role && (getPart s p).mirrored

/-- Whether a mirrored partition owns a queue, so that a message to it is no output (R413). -/
def queueMirrored (s : State) (qid : Nat) : Bool :=
  let q := tget ({} : Queue) s.queues (qid % 65536)
  qid / 65536 == s.dev && (getPart s q.owner).mirrored && q.owned

/-- A message that stays within the mirrored partitions. -/
def staysMirrored (s : State) (m : Msg) : Bool := queueMirrored s m.qid

/-- Whether a send of a partition to a queue finds the hold buffer full (R413). -/
def holdFull (s : State) (p qid : Nat) : Bool :=
  outputsHeld s p && !queueMirrored s qid && decide (16384 ≤ s.refl.heldOuts.length)

/-- An output held, stamped with the epoch (R413); what finds the 16,384 places taken waits behind them. -/
def holdOut (s : State) (o : HeldOut) : State :=
  { s with refl := { s.refl with heldOuts := s.refl.heldOuts ++ [(s.refl.current, o)] } }

/-- A message of a hardware engine on its way to its queue's home (R308); one that leaves the mirrored partitions is held. -/
def sendHw (s : State) (kind : MsgKind) (part qid : Nat) (words : List Word) : State :=
  let m : Msg := { src := .base, kind, part, srcDev := s.dev, qid, words }
  if outputsHeld s part && !staysMirrored s m && qid / 65536 == s.dev then holdOut s (.msg m)
  else if qid / 65536 = s.dev then { s with msgs := s.msgs ++ [m] } else { s with outbox := s.outbox ++ [{ msg := m }] }

/-- A doorbell bit rung (R307): set, and on its change from 0 to 1 the message FIX b to the queue of `PDBQ`. -/
def ringDoorbell (s : State) (p b : Nat) : State :=
  let q := getPart s p
  if bit q.pdbell b then s
  else
    let s1 := setPart s p { q with pdbell := q.pdbell ||| flagBit true b }
    sendHw s1 .doorbell p (s.dev * 65536 + bits q.pdbq 15 0) [Word.fixN b]

/-- A store appended to a core's store queue, numbered in commit order (R144). -/
def pushStore (s : State) (core : Nat) (e : StoreEnt) : State :=
  let s1 := { s with nextSeq := s.nextSeq + 1 }
  modCore s1 core fun k => { k with sq := k.sq ++ [{ e with seq := s.nextSeq }] }

/-- Whether every store that a context committed before number n is visible or acknowledged (R147, R295). -/
def storesDone (s : State) (c n : Nat) : Bool :=
  let inSq := (getCore s (coreOf c)).sq.any fun e => e.ctx == c && decide (e.seq < n)
  let inUnc := s.unc.any fun r => match r.who with | .ctxStore c' q => c' == c && decide (q < n) | _ => false
  let inRem := s.remotes.any fun r => match r.who with | .ctxStore c' q => c' == c && decide (q < n) | _ => false
  let inCas := match (getCtx s c).slot with | some { kind := .cas .., seq, .. } => decide (seq < n) | _ => false
  !inSq && !inUnc && !inRem && !inCas

/-- A routine request put at the tail of a cluster's queue, after every one that waits (R182). -/
def queueRoutine (s : State) (cl : Nat) (q : RoutineReq) : State :=
  modCluster { s with nextOp := s.nextOp + 1 } cl fun k => { k with reqQ := k.reqQ ++ [{ q with stamp := s.nextOp }] }

/-! ## The shared entries of the miss-tracking table (R22) -/

/-- The cluster whose shared entry a request holds: a store's, an engine's or a heal's; a context's load or compare-and-swap holds the entry
that its context has of its own. -/
def UncWho.shares : UncWho → Option Nat
  | .ctxStore c _ => some (clusterOf c)
  | .engine cl _ => some cl
  | .heal cl _ => some cl
  | _ => Option.none

/-- The cluster whose shared entry a request to another device holds: a Collector's is its serving cluster's, which its tag names (R327). -/
def RemReq.shares (r : RemReq) : Option Nat :=
  match r.who with
  | .collSlot .. | .collReg .. | .collWord .. => some (r.rtag / 2048)
  | w => w.shares

/-- The shared entries of a cluster in use: fills and prefetches that left the L2, writebacks on their way, and uncached and remote
accesses. -/
def sharedUse (s : State) (cl : Nat) : Nat :=
  let k := getCluster s cl
  k.missShared + (k.wb.filter fun e => !e.answered).length +
    (s.unc.filter fun r => r.who.shares == some cl).length + (s.remotes.filter fun r => r.shares == some cl).length

/-- Whether a shared entry is free; a requester that finds none waits. -/
def sharedFree (s : State) (cl : Nat) : Bool := decide (sharedUse s cl < 1024)

/-! ## Causes (R278) and FINFO layouts (R139, R255, R277) -/

def cSTART : Nat := 0x01
def cINTERRUPT : Nat := 0x02
def cGATE_CALL : Nat := 0x03
def cFETCH_TAG : Nat := 0x10
def cILLEGAL_PACKET : Nat := 0x11
def cILLEGAL_MOVE : Nat := 0x12
def cDOUBLE_TRIGGER : Nat := 0x13
def cILLEGAL_REPEAT : Nat := 0x14
def cDISTANCE : Nat := 0x15
def cRESERVED_PORT : Nat := 0x16
def cPRIVILEGED : Nat := 0x17
def cABSENT_UNIT : Nat := 0x18
def cBAD_CR : Nat := 0x19
def cPOISON_USE : Nat := 0x20
def cTAG_PROTECT : Nat := 0x21
def cBAD_TAG : Nat := 0x22
def cUNBOUND_USE : Nat := 0x23
def cBAD_IMMEDIATE : Nat := 0x24
def cOPERAND_TAG : Nat := 0x25
def cOPERAND_RANGE : Nat := 0x26
def cARITH_TYPE : Nat := 0x27
def cARITH_RANGE : Nat := 0x28
def cDIV_ZERO : Nat := 0x29
def cBAD_POINTER : Nat := 0x30
def cBAD_HEADER : Nat := 0x31
def cBOUNDS : Nat := 0x32
def cNURSERY_FULL : Nat := 0x33
def cSTALE_POINTER : Nat := 0x34
def cBARRIER_SOFT : Nat := 0x35
def cATOMIC_TYPE : Nat := 0x36
def cBAD_ADDRESS : Nat := 0x40
def cSTACK_LIMIT : Nat := 0x41
def cBAD_RETURN : Nat := 0x42
def cBAD_DISPATCH : Nat := 0x43
def cRSTACK_WRITE : Nat := 0x44
def cGATE_ARG : Nat := 0x45
def cBAD_GATE : Nat := 0x46
def cERET_MISMATCH : Nat := 0x47
def cERET_CORRUPT : Nat := 0x48
def cNOT_MAPPED : Nat := 0x50
def cWALK_TAG : Nat := 0x51
def cWALK_BUS : Nat := 0x52
def cWALK_DEVICE : Nat := 0x53
def cBAD_PTE : Nat := 0x54
def cPERMISSION : Nat := 0x55
def cMEM_TYPE : Nat := 0x56
def cBAD_PHYSICAL : Nat := 0x57
def cNO_PATH : Nat := 0x60

/-- The Port layout of FINFO [31:0] (R139). -/
def portInfo (gaop operand slot dir port : Nat) : W64 :=
  field gaop 24 ||| field operand 20 ||| field slot 18 ||| field dir 16 ||| field port 0

/-- The Transl layout of FINFO [31:0] (R255). -/
def translInfo (level access reason tag : Nat) : W64 :=
  field level 26 ||| field access 20 ||| field reason 16 ||| field tag 8

/-- FINFO as an entry writes it (R277): DEFERRED, the privilege, REPEAT, EXT, HIGH and the low half. -/
def finfoOf (f : FaultRec) (priv rep : Bool) : W64 :=
  flagBit f.deferred 63 ||| flagBit priv 62 ||| flagBit rep 61 ||| field (min f.ext 15) 44 |||
    field (f.high % 4096) 32 ||| (f.info &&& 0xFFFFFFFF)

/-- A POISON_USE fault: FINFO carries the POISON payload's low 44 bits (R58, R277). -/
def poisonFault (faddr : W64) (w : Word) : FaultRec :=
  { cause := cPOISON_USE, faddr, info := w.pay &&& 0xFFFFFFFF, high := bits w.pay 43 32 }

/-- A POISON word with its origin (R58). -/
def poisonWord (source pa : Nat) : Word := ⟨tagPOISON, field source 40 ||| field (pa % 2 ^ 40) 0⟩

/-! ## The local address map (R34) -/

/-- What a local word address names. -/
inductive LocalKind where
  | dram
  | scratch (cluster offset : Nat)
  | device
  | absent
deriving DecidableEq, Repr

/-- The kind of a local address (R34, R227). A scratchpad offset exists below SPWAYS × 0x1_0000, but not in a retired
way. -/
def localKind (s : State) (a : Nat) : LocalKind :=
  if a < s.part.dramTop then .dram
  else if 0x800000000 ≤ a ∧ a < 0x800800000 then
    let c := (a - 0x800000000) / 0x40000
    let o := (a - 0x800000000) % 0x40000
    let k := getCluster s c
    if c < s.part.clusters ∧ o < k.spWays * 0x10000 ∧ (k.disWays / 2 ^ (15 - o / 0x10000)) % 2 = 0
    then .scratch c o else .absent
  else if 0xC00000000 ≤ a ∧ a < 0xC01000000 then .device
  else .absent

/-- Whether a partition's device page reaches a word of device control space (R347, R397, R448, R467, R474): the port, Reflection and
Afterglow registers, its own Sealing and timer blocks, and the windows of the recorder. -/
def dcsForPart (p a : Nat) : Bool :=
  let within (lo hi : Nat) : Bool := decide (0xC00000000 + lo ≤ a) && decide (a ≤ 0xC00000000 + hi)
  within 0x20000 0x20100 || within 0x20200 0x20202 || within (0x30000 + 16 * p) (0x3000F + 16 * p) || within 0x40000 0x4FFFF ||
    within (0x60000 + 16 * p) (0x6000F + 16 * p) || within 0x100000 0x17FFFF || within 0x180000 0x1807FF ||
    within 0x182000 0x182FFF || within 0x183000 0x183202

/-- A local address as a partition finds it (R353): what no grant covers, and device control space without DEVACC, is
absent. -/
def physFor (s : State) (p a : Nat) : LocalKind :=
  let q := getPart s p
  match localKind s a with
  | .dram => if q.grants.any fun g => decide (g.1 ≤ a) && decide (a < g.1 + g.2) then .dram else .absent
  | .scratch c o => if q.grants.any fun g => decide (g.1 ≤ a) && decide (a < g.1 + g.2) then .scratch c o else .absent
  | .device => if q.devacc && dcsForPart p a then .device else .absent
  | .absent => .absent

/-- The sealed partition, another than p, whose memory holds a local address (R353, R394). -/
def sealedOwner (s : State) (p a : Nat) : Option Nat :=
  (s.parts.find? fun e => e.1 != p && e.2.sealed && e.2.grants.any fun g => decide (g.1 ≤ a) && decide (a < g.1 + g.2)).map Prod.fst

/-- A refusal to reach a sealed partition, by the agent's row of R394 and with its witness (R433). -/
def sealedRefused (s : State) (p agent : Nat) (wit : Subject) : State :=
  report s 0xA001 (.partition p) [BitVec.ofNat 64 agent] (some wit)

/-- A context's access that reached into another partition's sealed memory or registers, recorded (R394). -/
def tellSealed (s : State) (c : Nat) (f : FaultRec) : State :=
  match f.sealed with
  | some p => sealedRefused s p 2 (.context c)
  | none => s

/-- The port of a partition's set-up route to a device (R24, R37). -/
def routePort (s : State) (p dev : Nat) : Option Nat :=
  (s.routes.find? fun r => r.1 == p && r.2.1 == dev).map fun r => r.2.2

/-- The port for a partition's remote accesses: a mirrored partition's routes carry its messages only (R403). -/
def dataPort (s : State) (p dev : Nat) : Option Nat := if (getPart s p).mirrored then none else routePort s p dev

/-- The home cluster of a local DRAM line (R23). -/
def homeOf (s : State) (line : Nat) : Nat := (line * 8 / 16) % s.part.clusters

/-! ## The seal of a frame (R275) -/

/-- One byte folded into the CRC-16 with polynomial 0x1021. -/
def crc16Byte (crc : Nat) (b : BitVec 8) : Nat :=
  (List.range 8).foldl
    (fun c _ => if c ≥ 0x8000 then Nat.xor (c * 2 % 0x10000) 0x1021 else c * 2 % 0x10000)
    (Nat.xor crc (b.toNat * 256))

/-- CRC-16 with initial value 0xFFFF, no reflection and no final XOR. -/
def crc16 (bs : List (BitVec 8)) : Nat := bs.foldl crc16Byte 0xFFFF

/-- A word as nine bytes, the tag first (R275, R426). -/
def wordBytes (w : Word) : List (BitVec 8) := w.tag :: bytesBE w.pay

/-- The ten words with SEAL taken as zero, then the address of word 0 as six bytes. -/
def sealOf (ws : List Word) (base : Nat) : Nat :=
  let ws' := ws.take 9 ++ (ws.drop 9).map fun w => { w with pay := setBits w.pay 63 48 0 }
  crc16 (ws'.flatMap wordBytes ++ natBytesBE 6 base)

end Sys2Proof.Machine
end

