-- ==== Sys2Proof/Machine/Operands.lean ====
section
/-!
DEFINITION. The Tag Descriptor Table (R61 to R65), canonical immediates (R48), pointers and headers (R50, R51), the
operand checks of R46 and the creation checks of R53 and R54.
-/

namespace Sys2Proof.Machine
open Sys2Proof

/-! ## TDT entries -/

/-- The classes (R62). -/
def clsUNASSIGNED : Nat := 0
def clsIMMEDIATE : Nat := 1
def clsPOINTER : Nat := 2
def clsHEADER : Nat := 3
def clsSYSTEM : Nat := 4

/-- The fields of a TDT entry (R61). -/
def tdtClass (e : W64) : Nat := bits e 2 0
def tdtUcreate (e : W64) : Bool := bit e 3
def tdtScan (e : W64) : Nat := bits e 6 4
def tdtEqual (e : W64) : Nat := bits e 9 8
def tdtBarrier (e : W64) : Nat := bits e 11 10
def tdtSizeSrc (e : W64) : Nat := bits e 14 12
def tdtArith (e : W64) : Nat := bits e 18 16
def tdtInitTag (e : W64) : Tag := BitVec.ofNat 8 (bits e 31 24)
def tdtHdrTag (e : W64) : Tag := BitVec.ofNat 8 (bits e 39 32)
def tdtFixedSize (e : W64) : Nat := bits e 63 48

/-- An entry from its fields (R61). -/
def mkTdt (cls : Nat) (ucreate : Bool) (scan equal barrier sizeSrc arith hdrTag initTag fixedSize : Nat) : W64 :=
  field cls 0 ||| flagBit ucreate 3 ||| field scan 4 ||| field equal 8 ||| field barrier 10 ||| field sizeSrc 12 |||
    field arith 16 ||| field initTag 24 ||| field hdrTag 32 ||| field fixedSize 48

/-- The fixed entries (R65, with the tables of R50 and R51). -/
def fixedTdt (t : Nat) : W64 :=
  match t with
  | 0x00 => mkTdt 1 true 0 0 0 0 1 0 0 0
  | 0x01 => mkTdt 1 true 0 0 0 0 2 0 0 0
  | 0x02 => mkTdt 1 true 0 0 0 0 0 0 0 0
  | 0x03 => mkTdt 1 true 0 1 0 0 0 0 0 0
  | 0x04 => mkTdt 1 true 0 0 0 0 0 0 0 0
  | 0x05 => mkTdt 1 true 0 0 0 0 0 0 0 0
  | 0x06 => mkTdt 1 true 0 0 0 0 0 0 0 0
  | 0x40 => mkTdt 2 false 1 2 1 1 0 0 0x03 2
  | 0x41 => mkTdt 2 false 0 2 1 2 0 0x80 0 0
  | 0x42 => mkTdt 2 false 0 2 1 2 0 0x81 0 0
  | 0x43 => mkTdt 2 false 0 2 1 2 0 0x82 0 0
  | 0x44 => mkTdt 2 false 0 2 1 2 3 0x83 0 0
  | 0x45 => mkTdt 2 false 0 2 1 2 4 0x84 0 0
  | 0x46 => mkTdt 2 false 0 2 1 2 0 0x85 0 0
  | 0x47 => mkTdt 2 false 0 2 2 2 0 0x86 0 0
  | 0x80 => mkTdt 3 false 1 0 0 3 0 0 0x05 0
  | 0x81 => mkTdt 3 false 1 0 0 3 0 0 0x03 0
  | 0x82 => mkTdt 3 false 0 0 0 4 0 0 0x06 0
  | 0x83 => mkTdt 3 false 0 0 0 3 0 0 0x06 0
  | 0x84 => mkTdt 3 false 1 0 0 1 0 0 0x00 2
  | 0x85 => mkTdt 3 false 1 0 0 3 0 0 0x03 0
  | 0x86 => mkTdt 3 false 3 0 0 3 0 0 0x03 0
  | 0x87 => mkTdt 3 false 0 0 0 3 0 0 0x06 0
  | _ => if 0xC0 ≤ t then mkTdt 4 false 0 0 0 0 0 0 0 0 else 0

/-- Whether the image may write an entry of a tag: the configurable ranges, and UCREATE of the fixed pointers and
headers (R42, R65). -/
def tdtConfigurable (t : Nat) : Bool :=
  (0x20 ≤ t && t < 0x40) || (0x50 ≤ t && t < 0x80) || (0x90 ≤ t && t < 0xC0)

/-- The entry of a tag in a partition's TDT (R43, R61, R65). -/
def tdtOf (p : Partition) (t : Tag) : W64 := tget (fixedTdt t.toNat) p.tdt t.toNat

def classOf (p : Partition) (w : Word) : Nat := tdtClass (tdtOf p w.tag)
def isPointer (p : Partition) (w : Word) : Bool := classOf p w == clsPOINTER

/-- A pointer that the barriers act on: BARRIER STRONG or WEAK (R66). -/
def barrierOf (p : Partition) (w : Word) : Nat := if isPointer p w then tdtBarrier (tdtOf p w.tag) else 0

/-! ## Payloads -/

/-- Canonical payloads of the fixed immediates (R48). -/
def canonical (w : Word) : Bool :=
  if w.tag = tagCHR then decide (w.pay.toNat ≤ 0x10FFFF) && !(decide (0xD800 ≤ w.pay.toNat) && decide (w.pay.toNat ≤ 0xDFFF))
  else if w.tag = tagNIL then w.pay == 0
  else if w.tag = tagLOG then decide (w.pay.toNat ≤ 1)
  else true

/-- The fields of a pointer payload (R50). -/
def ptrAddr (w : Word) : Nat := bits w.pay 47 0
def ptrGen (w : Word) : Nat := bits w.pay 63 62
def ptrColour (w : Word) : Nat := bits w.pay 61 60
def ptrReserved (w : Word) : Nat := bits w.pay 55 48
def ptrWithColour (w : Word) (c : Nat) : Word := { w with pay := setBits (setBits w.pay 61 60 c) 55 48 0 }
def ptrRetarget (w : Word) (addr gen : Nat) : Word := { w with pay := setBits (setBits (setBits w.pay 47 0 addr) 63 62 gen) 55 48 0 }

/-- The fields of a header payload (R51). -/
def hdrLength (w : Word) : Nat := bits w.pay 31 0
def hdrAux (w : Word) : Nat := bits w.pay 55 40
def hdrReserved (w : Word) : Nat := bits w.pay 39 32
def hdrMark (w : Word) : Nat := bits w.pay 63 62

/-- The body length that a header entry's SIZE_SRC derives (R51, R62). -/
def bodyLength (entry : W64) (len : Nat) : Nat :=
  match tdtSizeSrc entry with
  | 1 => tdtFixedSize entry
  | 3 => len
  | 4 => (len + 7) / 8
  | _ => 0

/-- Check 7 of R46: a reserved field that is not zero, or a misaligned headerless pointer. -/
def badPointer (p : Partition) (w : Word) : Bool :=
  let e := tdtOf p w.tag
  isPointer p w &&
    (ptrReserved w != 0 || (tdtSizeSrc e == 1 && decide (tdtFixedSize e ≠ 0) && ptrAddr w % tdtFixedSize e != 0))

/-! ## Operand checks (R46) and creation checks (R49, R53, R54) -/

/-- How a destination takes its operand (R111): carrying, interpreting, or interpreting an address (check 7). -/
inductive OperandKind where
  | carry
  | interp
  | deref
deriving DecidableEq, Repr

/-- Checks 2, 4, 5, 6 and 7 of R46 on a word, in order; the first that applies gives the cause. Checks 1 and 3 are
made where the register is read and where a store is triggered. -/
def operandFault (p : Partition) (k : OperandKind) (w : Word) : Option Nat :=
  if w.tag = tagPOISON then some cPOISON_USE
  else match k with
    | .carry => none
    | _ =>
      let c := classOf p w
      if c = clsUNASSIGNED ∨ c = clsSYSTEM then some cBAD_TAG
      else if w.tag = tagUNBOUND then some cUNBOUND_USE
      else if !canonical w then some cBAD_IMMEDIATE
      else if k = .deref ∧ badPointer p w then some cBAD_POINTER
      else none

/-- Whether a system tag is a named one that S may create (R54). -/
def systemNamed (t : Tag) : Bool :=
  t == tagCODE || t == tagFORWARD || t == tagFRAME || t == tagRETADDR || t == tagPTE || t == tagPTD || t == tagGATE

/-- The creation checks of R53, R54 and R49 for a tag given to a payload by `TG.set` or an immediate source. -/
def creationFault (p : Partition) (priv : Bool) (w : Word) : Option Nat :=
  let e := tdtOf p w.tag
  if w.tag.toNat ≥ 0xC0 then
    if systemNamed w.tag then (if priv then none else some cTAG_PROTECT) else some cBAD_TAG
  else if tdtClass e = clsUNASSIGNED then some cBAD_TAG
  else if !tdtUcreate e && !priv then some cTAG_PROTECT
  else if !canonical w then some cBAD_IMMEDIATE
  else none

/-- A word that U may not store, push or send (R55). -/
def tagProtected (priv : Bool) (w : Word) : Bool := !priv && decide (0xC0 ≤ w.tag.toNat)

/-- Identity under the EQUAL rule of R62. -/
def equalRule (p : Partition) (a b : Word) : Bool :=
  a.tag == b.tag &&
    match tdtEqual (tdtOf p a.tag) with
    | 0 => a.pay == b.pay
    | 1 => true
    | 2 => ptrAddr a == ptrAddr b
    | _ => a.pay == b.pay

/-- A FIX address in [0, 2^48) (R127, R238). -/
def isVaddr (v : W64) : Bool := decide (v.toNat < 2 ^ 48)

/-- A word that another device has resolved (R162, R333): its answer's address, generation and colour with the tag and the USER bits of the
word that was asked about, which are carried unchanged, and [55:48] zero (R50); or NIL. -/
def ptrAnswered (w h : Word) : Word :=
  if h.tag = tagNIL then Word.nil else ⟨w.tag, setBits (setBits h.pay 59 56 (bits w.pay 59 56)) 55 48 0⟩

/-- An answer as its access takes it: the NIL of the weak rule concerns a weak access alone (R162). -/
def farWord (goodc : Nat) (weak : Bool) (w h : Word) : Word := if h.tag = tagNIL ∧ weak = false then ptrWithColour w goodc else h

end Sys2Proof.Machine
end

