-- ==== Sys2Proof/Machine/Cache.lean ====
section
/-!
DEFINITION. The caches as data: lookup, replacement (R208, R209), the coherent view of a line, and the directory's
transitions (R215 to R221).
-/

namespace Sys2Proof.Machine
open Sys2Proof

/-! ## Lookup -/

/-- The sector and the sub-block of a line. -/
def sectorOf (line : Nat) : Nat := line / 4
def subOf (line : Nat) : Nat := line % 4

/-- The L1D slots that may hold a line: 8 ways of set [9:5] (R206). -/
def l1Keys (line : Nat) : List Nat := (List.range 8).map fun w => (sectorOf line % 32) * 8 + w

/-- The L2 slots that may hold a line: 16 ways of set [15:5] (R206). -/
def l2Keys (line : Nat) : List Nat := (List.range 16).map fun w => (sectorOf line % 2048) * 16 + w

/-- A slot in which every V is 0 is empty (R207). -/
def L1Slot.empty (x : L1Slot) : Bool := x.subs.all fun e => !e.2.v
def L2Slot.empty (x : L2Slot) : Bool := !x.held && x.subs.all fun e => e.2.st == .i

/-- The L1D slot whose tag holds a line's sector. -/
def l1Slot? (k : Core) (line : Nat) : Option Nat :=
  (l1Keys line).find? fun i => let x := tget {} k.l1d i; !x.empty && x.tag == sectorOf line

/-- The valid sub-block that an L1D holds of a line. -/
def l1Sub? (k : Core) (line : Nat) : Option L1Sub :=
  match l1Slot? k line with
  | some i => let b := tget {} (tget ({} : L1Slot) k.l1d i).subs (subOf line); if b.v then some b else none
  | none => none

/-- A hit: the sub-block is valid in L1D, or stands in the eviction buffer, which serves it (R219). -/
def l1Has (k : Core) (line : Nat) : Bool := (l1Sub? k line).isSome || k.evict.any fun e => e.line == line

/-- The L2 slot whose tag holds a line's sector; a HELD slot keeps its tag when its sub-blocks are invalid (R229). -/
def l2Slot? (k : Cluster) (line : Nat) : Option Nat :=
  (l2Keys line).find? fun i => let x := tget {} k.l2 i; !x.empty && x.tag == some (sectorOf line)

/-- The L2's sub-block of a line. -/
def l2Sub (k : Cluster) (line : Nat) : L2Sub :=
  match l2Slot? k line with
  | some i => tget {} (tget ({} : L2Slot) k.l2 i).subs (subOf line)
  | none => {}

def setL1Sub (k : Core) (i line : Nat) (b : L1Sub) : Core :=
  let x := tget ({} : L1Slot) k.l1d i
  { k with l1d := tput k.l1d i { x with subs := tput x.subs (subOf line) b } }

def setL2Sub (k : Cluster) (i line : Nat) (b : L2Sub) : Cluster :=
  let x := tget ({} : L2Slot) k.l2 i
  { k with l2 := tput k.l2 i { x with subs := tput x.subs (subOf line) b } }

/-- The L2's sub-block of a line changed, where the L2 holds its sector. -/
def modL2Sub (k : Cluster) (line : Nat) (f : L2Sub → L2Sub) : Cluster :=
  match l2Slot? k line with
  | some i => setL2Sub k i line (f (l2Sub k line))
  | none => k

/-- A word of a line's data. -/
def wordOf (data : List Word) (pa : Nat) : Word := (data[pa % 8]?).getD Word.zero

def setWordOf (data : List Word) (pa : Nat) (w : Word) : List Word := data.set (pa % 8) w

/-! ## The coherent view -/

/-- The cores of a cluster. -/
def coresOf (c : Nat) : List Nat := (List.range 16).map (c * 16 + ·)

/-- The dirty copy of a line in an L1D or its eviction buffer, if any (R215). -/
def dirtyL1 (s : State) (line : Nat) : Option (List Word) :=
  s.cores.findSome? fun e =>
    match l1Sub? e.2 line with
    | some b => if b.d then some b.data else none
    | none => (e.2.evict.find? fun v => v.line == line && !v.written).map EvictEnt.data

/-- The modified copy of a line in an L2 or a writeback buffer, if any. -/
def dirtyL2 (s : State) (line : Nat) : Option (List Word) :=
  s.clusters.findSome? fun e =>
    let b := l2Sub e.2 line
    if b.st == .m then some b.data else (e.2.wb.find? fun v => v.line == line && !v.answered).map WbEnt.data

/-- Whether the only copy of a line was lost with a tag: the L2 then gives POISON of source 2, the home of source 1
(R223). -/
def lostSource (s : State) (line : Nat) : Option Nat :=
  if s.cores.any fun e => e.2.lost.contains line then some 2
  else if s.clusters.any fun e => e.2.lost.contains line then some 1 else none

/-- The copy of a line that its owner holds in E (R216): memory's words, but for what an error in the L2 has made POISON (R222). -/
def ownedL2 (s : State) (line : Nat) : Option (List Word) :=
  s.clusters.findSome? fun e => let b := l2Sub e.2 line; if b.st == .e then some b.data else none

/-- The eight POISON words of a lost line, each with its own address (R58, R223). -/
def poisonLine (s : State) (source line : Nat) : List Word :=
  (List.range 8).map fun i => poisonWord source (s.dev * 2 ^ 36 + line * 8 + i)

/-- The eight words of a line in the single order of stores (R144): the dirty copy, wherever it stands, else memory; a
line lost with its tag is POISON (R223), and an owner supplies its clean copy (R216). -/
def currentLine (s : State) (line : Nat) : List Word :=
  match lostSource s line with
  | some src => poisonLine s src line
  | none => (dirtyL1 s line).getD ((dirtyL2 s line).getD ((ownedL2 s line).getD (memLine s line)))

/-- The word at a local address as every context would next read it. -/
def cohRead (s : State) (pa : Nat) : Word := wordOf (currentLine s (pa / 8)) pa

/-- Whether some copy of the line differs from memory. -/
def lineDirty (s : State) (line : Nat) : Bool :=
  (lostSource s line).isSome || (dirtyL1 s line).isSome || (dirtyL2 s line).isSome

/-! ## Removing and cleaning copies -/

/-- Every L1D copy and eviction entry of a line removed from a core. -/
def dropL1 (k : Core) (line : Nat) : Core :=
  let k1 := match l1Slot? k line with | some i => setL1Sub k i line {} | none => k
  { k1 with evict := k1.evict.filter (fun e => e.line != line), lost := k1.lost.filter (· != line) }

/-- Every copy of a line removed from a cluster's L2 and writeback buffer; a HELD slot stays HELD (R229). -/
def dropL2 (k : Cluster) (line : Nat) : Cluster :=
  let k1 := modL2Sub k line fun _ => {}
  { k1 with wb := k1.wb.filter (fun e => e.line != line), lost := k1.lost.filter (· != line) }

/-- Every copy of a line in the device removed, its data discarded (range INVALIDATE, R230). -/
def discardLine (s : State) (line : Nat) : State :=
  { s with cores := s.cores.map (fun e => (e.1, dropL1 e.2 line))
           clusters := s.clusters.map (fun e => (e.1, dropL2 e.2 line))
           dir := tdel s.dir line }

/-- The line's current words written to memory and kept clean: L1D copies clean, L2 copies S (R216, R230 CLEAN). -/
def cleanLine (s : State) (line : Nat) : State :=
  if !lineDirty s line then s
  else
    let data := currentLine s line
    let s1 := writeWords s (line * 8) data
    let clean1 (k : Core) : Core :=
      match l1Slot? k line with
      | some i =>
        let b := tget ({} : L1Sub) (tget ({} : L1Slot) k.l1d i).subs (subOf line)
        if b.v then setL1Sub k i line { b with d := false, data := data } else k
      | none => k
    let holders := s.clusters.filter fun e => (l2Sub e.2 line).st != .i
    { s1 with
      cores := s1.cores.map fun e =>
        let k := clean1 e.2
        (e.1, { k with evict := k.evict.filter (fun v => v.line != line), lost := k.lost.filter (· != line) })
      clusters := s1.clusters.map fun e =>
        let k := modL2Sub e.2 line fun b => if b.st == .i then b else { b with st := .s, data := data, w := false }
        (e.1, { k with wb := k.wb.filter (fun v => v.line != line), lost := k.lost.filter (· != line) })
      dir := if holders.isEmpty then tdel s1.dir line else tput s1.dir line (.shared (holders.map Prod.fst)) }

/-- The line written to memory and every copy removed (R216, uncached write; R230 CLEAN_INVALIDATE). -/
def flushLine (s : State) (line : Nat) : State := discardLine (cleanLine s line) line

/-- Whether a line lies in the old or the new window of a sealed partition while it is filled: it then holds FIX 0 or POISON, whatever the
partition stores (R391). -/
def windowFills (s : State) (line : Nat) : Bool :=
  s.parts.any fun e => match e.2.winFill with
    | some (b0, n0, b1, n1) =>
      (decide (b0 ≤ line * 8) && decide (line * 8 < b0 + n0)) || (decide (b1 ≤ line * 8) && decide (line * 8 < b1 + n1))
    | none => false

/-- A word written at its home, coherently with every copy (R217). A POISON line is rewritten word by word (R57). -/
def homeWrite (s : State) (pa : Nat) (w : Word) : State :=
  if windowFills s (pa / 8) then flushLine s (pa / 8) else writeWord (flushLine s (pa / 8)) pa w

/-- The clusters that a directory entry lists (R216). -/
def DirEnt.holders : Option DirEnt → List Nat
  | none => []
  | some (.shared cs) => cs
  | some (.owned c) => [c]

/-- The directory entry of a line. -/
def dirOf (s : State) (line : Nat) : Option DirEnt := (s.dir.find? fun e => e.1 == line).map Prod.snd

def setDir (s : State) (line : Nat) (cs : List Nat) : State :=
  { s with dir := if cs.isEmpty then tdel s.dir line else tput s.dir line (.shared cs) }

def setOwner (s : State) (line c : Nat) : State := { s with dir := tput s.dir line (.owned c) }

/-- The owner's copy downgraded to S and memory written (R216). -/
def downgradeLine (s : State) (line : Nat) : State :=
  let s1 := cleanLine s line
  let down (k : Cluster) : Cluster :=
    modL2Sub k line fun b => if b.st == .i then b else { b with st := .s, w := false }
  { s1 with clusters := s1.clusters.map fun e => (e.1, down e.2) }

/-- What an uncached read does to the copies of a line (R216): an owner, clean or not, downgrades to S and memory is written. -/
def uncachedReads (s : State) (line : Nat) : State :=
  match dirOf s line with
  | some (.owned c) =>
    let s1 := downgradeLine s line
    setDir s1 line (if (l2Sub (getCluster s1 c) line).st == .i then [] else [c])
  | _ => cleanLine s line

/-- A word read at its home (R216, R217). -/
def homeRead (s : State) (pa : Nat) : Word × State :=
  let s1 := uncachedReads s (pa / 8)
  (readWord s1 pa, s1)

/-- A compare-and-swap at the home over all 72 bits: the old word and the state (R216, R251). Whether it succeeds or not, every copy goes
and modified data is merged. -/
def homeCas (s : State) (pa : Nat) (cmp new : Word) : Word × State :=
  let old := cohRead s pa
  if old = cmp then (old, homeWrite s pa new) else (old, flushLine s (pa / 8))

/-! ## Replacement (R208, R209) -/

/-- The lowest-numbered candidate of age 3, ages rising by 1 at most three times. -/
def victimAge (age : Nat → Nat) (cands : List Nat) : Nat → Option (Nat × Nat)
  | 0 => (cands.find? fun i => decide (3 ≤ age i)).map fun i => (i, 0)
  | n + 1 =>
    match cands.find? fun i => decide (3 ≤ age i) with
    | some i => some (i, 0)
    | none => (victimAge (fun i => age i + 1) cands n).map fun r => (r.1, r.2 + 1)

/-- The candidate L1D slots of a line: ways not retired. -/
def l1Cands (k : Core) (line : Nat) : List Nat :=
  (l1Keys line).filter fun i => (k.wayDisD / 2 ^ (i % 8)) % 2 = 0

/-- A cluster's L2 way is a scratchpad way (R226). -/
def isSpWay (k : Cluster) (w : Nat) : Bool := decide (16 - k.spWays ≤ w)

/-- A cluster's L2 way is locked (R226). -/
def isLockedWay (k : Cluster) (w : Nat) : Bool := decide (8 ≤ w) && !isSpWay k w && (k.lockMask / 2 ^ (w - 8)) % 2 == 1

def isDisWay (k : Cluster) (w : Nat) : Bool := (k.disWays / 2 ^ w) % 2 == 1

/-- The candidate L2 slots of a line: ways neither retired, scratchpad nor locked. -/
def l2Cands (k : Cluster) (line : Nat) : List Nat :=
  (l2Keys line).filter fun i => !isSpWay k (i % 16) && !isLockedWay k (i % 16) && !isDisWay k (i % 16)

/-- The dirty sub-blocks of an L1D slot as eviction-buffer entries. -/
def evictionsOf (x : L1Slot) : List EvictEnt :=
  (x.subs.filter fun e => e.2.v && e.2.d).map fun e => { line := x.tag * 4 + e.1, data := e.2.data }

/-- The clean valid lines of an L1D slot: their presence leaves the L2. -/
def cleanLinesOf (x : L1Slot) : List Nat := (x.subs.filter fun e => e.2.v && !e.2.d).map fun e => x.tag * 4 + e.1

/-- A core's presence removed from the L2's sub-block of a line. -/
def dropPresence (k : Cluster) (core line : Nat) : Cluster :=
  modL2Sub k line fun b =>
    let p := b.pres.filter (· != core)
    { b with pres := p, w := b.w && !p.isEmpty }

/-- A line of local DRAM, the only kind that has directory entries (R228). -/
def dramLine (s : State) (line : Nat) : Bool := localKind s (line * 8) == .dram

/-- Whether a cluster keeps 8 usable L2 ways that are neither locked nor scratchpad. -/
def enoughWays (k : Cluster) : Bool :=
  decide (8 ≤ ((List.range 16).filter fun w => !isSpWay k w && !isLockedWay k w && !isDisWay k w).length)

/-- Whether a line's stack is out of self-refresh; an access waits until its stack has woken (R32, R457). -/
def stackOn (s : State) (line : Nat) : Bool :=
  s.power.stacksAsleep.isEmpty || !dramLine s line || !s.power.stacksAsleep.contains (Config.lineStack line % s.part.stacks)

/-- Whether a line's home slice and stack are on; the first request to it while its cluster is off wakes the cluster (R32, R456). -/
def homeOn (s : State) (line : Nat) : Bool := (getCluster s (homeOf s line)).power != .off && stackOn s line

/-- The configured ways of a cluster whose L2 holds nothing given back while too few ordinary ways are left (R442): a locked way, else the
lowest scratchpad way. -/
def fitWays (k : Cluster) : Nat → Cluster
  | 0 => k
  | n + 1 =>
    if enoughWays k then k
    else match (List.range 16).find? fun w => isLockedWay k w && !isDisWay k w with
      | some w => fitWays { k with lockMask := Nat.land k.lockMask (255 - 2 ^ (w - 8)) } n
      | none =>
        match (List.range 16).find? fun w => isSpWay k w && !isDisWay k w with
        | some w => fitWays { k with spWays := 15 - w } n
        | none => k

/-- `L2CFG` of a cluster from its CACHE record, beside the ways that are retired (R224, R225, R355). -/
def l2cfgFrom (s : State) (c : Nat) (k : Cluster) : Cluster :=
  let v := tget 0x80000 s.img.cache c
  fitWays { k with nsp := bit v 19, lockMask := bits v 15 8, spWays := bits v 2 0 } 16

/-- A die's uncore on, with anything of the die that wakes (R32, R457). -/
def wakeDie (s : State) (d : Nat) : State :=
  if s.power.diesOff.contains d then { s with power := { s.power with diesOff := s.power.diesOff.filter (· != d) } } else s

/-- An OFF cluster returns to ACTIVE: `L2CFG` applied again from the image in force (R456); the patch RAM is the one patch set
of all engines. -/
def clusterBack (s : State) (cl : Nat) : State :=
  if (getCluster s cl).power = .off ∧ s.power.trip = false ∧ s.power.heldReset = false then
    wakeDie (modCluster s cl fun k => { l2cfgFrom s cl k with power := .active }) (cl / 8)
  else s

/-- A stack out of self-refresh (R457). -/
def stackBack (s : State) (st : Nat) : State :=
  wakeDie { s with power := { s.power with stacksAsleep := s.power.stacksAsleep.filter (· != st) } } (st / 2)

/-- A request to a line wakes the cluster that homes it and its stack (R32, R456). -/
def wakeLine (s : State) (line : Nat) : State :=
  let s1 := if (getCluster s (homeOf s line)).power = .off then clusterBack s (homeOf s line) else s
  if stackOn s1 line then s1 else stackBack s1 (Config.lineStack line % s.part.stacks)

/-- The oldest dirty victim of an eviction buffer written to the L2; entries that reached it before leave the buffer (R219). -/
def writeEvict (s : State) (core : Nat) : State :=
  let c := clusterOfCore core
  let k := getCore s core
  match k.evict.find? fun e => !e.written with
  | none => setCore s core { k with evict := [] }
  | some v =>
    let mark (e : EvictEnt) : EvictEnt := if e.line = v.line then { e with written := true } else e
    let s1 := setCore s core { k with evict := (k.evict.filter fun e => !e.written).map mark }
    if dramLine s v.line then
      modCluster s1 c fun x =>
        dropPresence (modL2Sub x v.line fun b => { b with st := .m, data := v.data, w := false }) core v.line
    else writeWords s1 (v.line * 8) v.data

/-- An eviction buffer brought down to its four entries, the oldest victims reaching the L2 first (R219). -/
def trimEvict (core : Nat) : Nat → State → State
  | 0, s => s
  | n + 1, s => if (getCore s core).evict.length ≤ 4 then s else trimEvict core n (writeEvict s core)

/-- A sub-block installed in a core's L1D (R208 to R210): in place where the sector is present, else over a victim whose
dirty sub-blocks go to the eviction buffer. `stream` gives a newly allocated sector age 3. -/
def installL1 (s : State) (core line : Nat) (data : List Word) (dirty stream : Bool) : State :=
  let k := getCore s core
  let c := clusterOfCore core
  let b : L1Sub := { v := true, d := dirty, data }
  match l1Slot? k line with
  | some i => setCore s core (setL1Sub k i line b)
  | none =>
    let age (i : Nat) : Nat := let x := tget ({} : L1Slot) k.l1d i; if x.empty then 3 else x.age
    match victimAge age (l1Cands k line) 3 with
    | none => s
    | some (i, rise) =>
      let old := tget ({} : L1Slot) k.l1d i
      let l1d := (l1Cands k line).foldl (fun t j =>
        let x := tget ({} : L1Slot) t j
        if x.empty || rise == 0 then t else tput t j { x with age := min 3 (x.age + rise) }) k.l1d
      let fresh : L1Slot := { tag := sectorOf line, age := if stream then 3 else 0, subs := [(subOf line, b)] }
      let evs := if old.empty then [] else evictionsOf old
      let s1 := setCore s core { k with l1d := tput l1d i fresh, evict := k.evict ++ evs }
      let gone := if old.empty then [] else cleanLinesOf old
      trimEvict core 9 (modCluster s1 c fun cl => gone.foldl (fun a l => dropPresence a core l) cl)

/-- The age of a line's L1D sector set to 0 by a hit (R209). -/
def touchL1 (s : State) (core line : Nat) : State :=
  let k := getCore s core
  match l1Slot? k line with
  | some i => setCore s core { k with l1d := tput k.l1d i { tget ({} : L1Slot) k.l1d i with age := 0 } }
  | none => s

/-- A sub-block that stands in the eviction buffer reinstalled with age 0, dirty unless the L2 has it; the L2's presence vector
names the core again (R207, R219). -/
def reinstallEvicted (s : State) (core line : Nat) : State :=
  let k := getCore s core
  match k.evict.find? fun e => e.line == line with
  | none => s
  | some e =>
    let s1 := setCore s core { k with evict := k.evict.filter fun v => v.line != line }
    let s2 := touchL1 (installL1 s1 core line e.data (!e.written) false) core line
    modCluster s2 (clusterOfCore core) fun k => modL2Sub k line fun b =>
      { b with pres := if b.pres.contains core then b.pres else b.pres ++ [core] }

/-- The data of a hit: the L1D sub-block or the eviction buffer's (R219). -/
def l1Data (k : Core) (line : Nat) : List Word :=
  match l1Sub? k line with
  | some b => b.data
  | none => ((k.evict.find? fun e => e.line == line).map EvictEnt.data).getD []

/-- An access that meets its sub-block in the eviction buffer has it reinstalled (R219); it is no hit that changes an age (R209). -/
def serveEvicted (s : State) (core line : Nat) : State :=
  if (l1Sub? (getCore s core) line).isSome = true then s else reinstallEvicted s core line

/-- A hit's effects on the cache: age 0, or reinstallation from the eviction buffer. -/
def hitL1 (s : State) (core line : Nat) : State :=
  if (l1Sub? (getCore s core) line).isSome = true then touchL1 s core line else reinstallEvicted s core line

/-- Dirty L1D data of a cluster merged into its L2 sub-block and its L1D copies invalidated (R215); a core whose tag was lost answers
LOST, and the L2 writes POISON (R223). -/
def backInvalidate (s : State) (c line : Nat) : State :=
  let lost := (coresOf c).any fun k => (getCore s k).lost.contains line
  let data := if lost then some (poisonLine s 2 line) else (coresOf c).findSome? fun k =>
    match l1Sub? (getCore s k) line with
    | some b => if b.d then some b.data else none
    | none => ((getCore s k).evict.find? fun v => v.line == line && !v.written).map EvictEnt.data
  let cores' := s.cores.map fun e => if clusterOfCore e.1 = c then (e.1, dropL1 e.2 line) else e
  let s1 := { s with cores := cores' }
  modCluster s1 c fun k => modL2Sub k line fun b =>
    match data with
    | some d => { b with st := .m, data := d, pres := [], w := false }
    | none => { b with pres := [], w := false }

/-- A victim L2 slot emptied: L1D copies go first, modified sub-blocks enter the writeback buffer, clean ones leave with
a notice to the home (R215, R216, R220). -/
def evictL2 (s : State) (c i : Nat) : State :=
  let x := tget ({} : L2Slot) (getCluster s c).l2 i
  match x.tag with
  | none => s
  | some t =>
    (List.range 4).foldl (fun s j =>
      let line := t * 4 + j
      let s1 := backInvalidate s c line
      let b := l2Sub (getCluster s1 c) line
      modCluster s1 c fun k =>
        let k1 := if b.st == .m then { k with wb := k.wb ++ [{ line, data := b.data }] } else k
        setL2Sub k1 i line {}) s

/-- A sub-block installed in a cluster's L2 in a given state (R208, R209, R229): in place where the sector is present,
else in a HELD slot's place or over a victim. -/
def installL2 (s : State) (c line : Nat) (data : List Word) (st : L2St) (stream : Bool) : State :=
  let k := getCluster s c
  match l2Slot? k line with
  | some i => setCluster s c (setL2Sub k i line { l2Sub k line with st := st, data := data })
  | none =>
    let age (i : Nat) : Nat := let x := tget ({} : L2Slot) k.l2 i; if x.empty then 3 else x.age
    match victimAge age (l2Cands k line) 3 with
    | none => s
    | some (i, rise) =>
      let s1 := modCluster s c fun k => { k with l2 := (l2Cands k line).foldl (fun t j =>
        let x := tget ({} : L2Slot) t j
        if x.empty || rise == 0 then t else tput t j { x with age := min 3 (x.age + rise) }) k.l2 }
      let s2 := if (tget ({} : L2Slot) k.l2 i).empty then s1 else evictL2 s1 c i
      let fresh : L2Slot :=
        { tag := some (sectorOf line), age := if stream then 3 else 0
          subs := [(subOf line, { st := st, data := data })] }
      modCluster s2 c fun k => { k with l2 := tput k.l2 i fresh }

/-- The age of a line's L2 sector set to 0 by an L1D miss that hits it (R209). -/
def touchL2 (s : State) (c line : Nat) : State :=
  let k := getCluster s c
  match l2Slot? k line with
  | some i => setCluster s c { k with l2 := tput k.l2 i { tget ({} : L2Slot) k.l2 i with age := 0 } }
  | none => s

/-! ## Writing (R211) -/

/-- Whether a core may write a line (R211): its L1D holds the only copy of a line that its cluster holds in E or M; a
scratchpad line has no L2 state. -/
def mayWrite (s : State) (core line : Nat) : Bool :=
  let b := l2Sub (getCluster s (clusterOfCore core)) line
  let alone := (coresOf (clusterOfCore core)).all fun k => k == core || !(l1Has (getCore s k) line)
  l1Has (getCore s core) line && alone && (!dramLine s line || ((b.st == .e || b.st == .m) && b.w))

/-- A word written in a line that a core holds exclusively: in its L1D, or at the home. -/
def writeHeld (s : State) (core a : Nat) (w : Word) : State :=
  let line := a / 8
  if windowFills s line then s
  else if mayWrite s core line then
    let s1 := hitL1 s core line
    let k := getCore s1 core
    match l1Slot? k line, l1Sub? k line with
    | some i, some b => setCore s1 core (setL1Sub k i line { b with d := true, data := setWordOf b.data a w })
    | _, _ => homeWrite s a w
  else homeWrite s a w

end Sys2Proof.Machine
end

