-- ==== Sys2Proof/Machine/Queues.lean ====
section
/-!
DEFINITION. The queue engine (R289 to R311): rings, bindings, arrival, bounce notices, receives, watermarks and the
queue commands.
-/

namespace Sys2Proof.Machine
open Sys2Proof

def getQ (s : State) (q : Nat) : Queue := tget {} s.queues q
def setQ (s : State) (q : Nat) (x : Queue) : State := { s with queues := tput s.queues q x }
def modQ (s : State) (q : Nat) (f : Queue → Queue) : State := setQ s q (f (getQ s q))

/-- The home cluster of a queue (R289). -/
def queueHome (s : State) (q : Nat) : Nat := q % s.part.clusters

/-- Capacity, occupancy and slot size (R291, R292). -/
def Queue.cap (q : Queue) : Nat := 2 ^ q.log2
def Queue.occ (q : Queue) : Nat := (q.tail + 2 ^ 32 - q.head) % 2 ^ 32
def Queue.slotWords (q : Queue) : Nat := if q.slot16 then 16 else 8
def Queue.maxN (q : Queue) : Nat := if q.slot16 then 8 else 7
def Queue.slotAt (q : Queue) (k : Nat) : Nat := (q.base + k % q.cap * q.slotWords) % 2 ^ 36

/-- Room for a Shade message (R292). -/
def Queue.shadeRoom (q : Queue) : Bool := decide (q.occ < q.cap - q.sunres)

/-- SRCKIND of a message (R291). -/
def MsgKind.src : MsgKind → Nat
  | .ctx => 0
  | .host => 1
  | _ => 2

/-- The header that the engine writes (R291). -/
def msgHeader (m : Msg) (tail : Nat) : Word :=
  Word.fix (field (tail % 65536) 32 ||| field m.srcDev 28 ||| field (if m.kind = .ctx then m.ctx else 0) 14 |||
    field m.kind.src 12 ||| flagBit m.sun 8 ||| field m.words.length 0)

/-- The doorbell bit of a watermark signal (R303). -/
def ringQueue (s : State) (q : Nat) : State :=
  let x := getQ s q
  ringDoorbell s x.owner x.dbit

/-- An entry of a function's MSI-X table: the address, and the data with the vector control above it. An entry is masked until the
host unmasks it, as the PCI Express specification has it. -/
def msixAddr (s : State) (fn v : Nat) : W64 := (tget Word.zero s.hostIf.msixTable ((fn * 64 + v) * 2)).pay
def msixCtl (s : State) (fn v : Nat) : W64 := (tget (Word.fix 0x100000000) s.hostIf.msixTable ((fn * 64 + v) * 2 + 1)).pay

/-- Whether a vector is held back as pending: MSI-X off, the function or the vector masked, or the function in D3hot. -/
def msixMasked (s : State) (fn v : Nat) : Bool :=
  !s.hostIf.msixOn.contains fn || s.hostIf.msixHold.contains fn || s.hostIf.d3.contains fn || bit (msixCtl s fn v) 32

/-- An MSI-X vector of a function signalled (R477): its pending bit, or a message written to the host. -/
def signalMsix (s : State) (fn v : Nat) : State :=
  if msixMasked s fn v then
    if s.hostIf.msixPend.contains (fn, v) then s
    else { s with hostIf := { s.hostIf with msixPend := s.hostIf.msixPend ++ [(fn, v)] } }
  else { s with msix := s.msix ++ [(fn, v)] }

/-- The vector of a HOST-bound queue (R293, R477): past the table it signals nothing and is recorded; a mirrored partition's is
held (R413). -/
def queueVector (s : State) (q : Nat) : State :=
  let x := getQ s q
  let fn := x.owner + 1
  if 64 ≤ x.vector then
    let (kind, s1) := drawWord s
    let (off, s2) := drawWord s1
    report s2 0x8001 .none [BitVec.ofNat 64 fn, kind.pay, off.pay]
  else if outputsHeld s x.owner then holdOut s (.msix fn x.vector)
  else signalMsix s fn x.vector

/-- Watermark after an enqueue (R303): each one that raises the occupancy to HIWM signals. -/
def markHigh (s : State) (q : Nat) : State :=
  let x := getQ s q
  if x.wmen && x.occ == x.hiwm then
    let s1 := ringQueue (setQ s q { x with high := true }) q
    if x.bind = 3 then queueVector s1 q else s1
  else s

/-- Watermark after a dequeue or a FLUSH (R303). -/
def markLow (s : State) (q : Nat) : State :=
  let x := getQ s q
  if x.wmen && x.high && decide (x.occ ≤ x.lowm) then
    let s1 := ringQueue (setQ s q { x with high := false }) q
    if x.bind = 3 then queueVector s1 q else s1
  else s

/-- Whether a word of a ring exists: an access elsewhere reaches no memory (R34). -/
def ringThere (s : State) (x : Queue) (a : Nat) : Bool :=
  match physFor s x.owner a with
  | .dram => true
  | .scratch _ _ => true
  | _ => false

/-- A word of a ring written at its home. -/
def ringPut (s : State) (x : Queue) (a : Nat) (w : Word) : State := if ringThere s x a then homeWrite s a w else s

/-- A message written into the ring: words 1 to N, then the header, then TAIL (R296). -/
def ringWrite (s : State) (q : Nat) (m : Msg) : State :=
  let x := getQ s q
  let a := x.slotAt x.tail
  let s1 := ((List.range m.words.length).zip m.words).foldl (fun s e => ringPut s x ((a + 1 + e.1) % 2 ^ 36) e.2) s
  let s2 := ringPut s1 x (a % 2 ^ 36) (msgHeader m x.tail)
  markHigh (modQ s2 q fun x => { x with
    tail := (x.tail + 1) % 2 ^ 32, wrote := tput x.wrote a (msgHeader m x.tail :: m.words), froms := tput x.froms a m.part }) q

/-- Whether an access of a queue's ring finds a shared miss-tracking entry of its home cluster (R22, R289). -/
def ringFree (s : State) (q : Nat) : Bool := sharedFree s (queueHome s q)

/-- A Sunlit credit returned to its flow and to the queue's SUNRES bookkeeping (R304): the slot is free again. -/
def returnCredit (s : State) (flow : Nat) : State :=
  let f : Flow := tget {} s.flows flow
  { s with flows := tput s.flows flow { f with credits := min f.burst (f.credits + 1) } }

/-- The acknowledgement word of a message (R318). -/
def ackWord (qid cluster flowix outcome count : Nat) (base sun : Bool) : Word :=
  ⟨tagRAW, field qid 44 ||| field (if base then 0 else cluster) 39 ||| flagBit base 38 ||| field flowix 31 |||
    flagBit sun 30 ||| field outcome 26 ||| field (count - 1) 22⟩

/-- A MSG_ACK flit sent to a message's device, for Sunlit over its direct link (R318, R336). -/
def sendAck (s : State) (part dev : Nat) (sun : Bool) (w : Word) : State :=
  match if sun then none else routePort s part dev with
  | some port => sendFlit s port { typ := 11, vc := if sun then 1 else 4, dst := dev, src := s.dev, part, words := [w] }
  | none => sendFlit s (directPort s dev) { typ := 11, vc := if sun then 1 else 4, dst := dev, src := s.dev, part, words := [w] }

/-- Whether a flow's slot is one that a partition's message took; a ring that the model did not see written names no partition. -/
def slotOf (x : Queue) (a part : Nat) : Bool := match x.froms.find? fun e => e.1 == a with | some e => e.2 == part | none => true

/-- The slot of a Sunlit message is free again (R304): its credit returns to the flow of its partition, over the route when the sender is
another device. -/
def returnSlot (s : State) (q a : Nat) : State :=
  let x := getQ s q
  let h := (((x.wrote.find? fun e => e.1 == a).map Prod.snd).bind List.head?).getD (cohRead s a)
  if !bit h.pay 8 then s
  else
    let cl := clusterOf (bits h.pay 27 14)
    let dev := bits h.pay 31 28
    let qid := s.dev * 65536 + q
    if dev = s.dev then
      match s.flows.find? fun e => e.2.qid == qid && e.2.cluster == cl && slotOf x a e.2.part with
      | some e => returnCredit s e.1
      | none => s
    else
      match s.inFlows.find? fun f => f.dev == dev && f.cluster == cl && f.queue == q && slotOf x a f.part with
      | some f => sendAck s f.part dev true (ackWord qid cl f.ix 8 1 false true)
      | none => s

/-- A word that hardware has healed in a slot of a ring is what the engine holds of it from then on: only software's writes leave what a
receive delivers open (R290). -/
def ringHealed (s : State) (pa : Nat) (old new : Word) : State :=
  let slot (e : Nat × List Word) : Nat × List Word :=
    match e.2[(pa + 2 ^ 36 - e.1) % 2 ^ 36]? with
    | some w => if w = old then (e.1, e.2.set ((pa + 2 ^ 36 - e.1) % 2 ^ 36) new) else e
    | none => e
  if s.queues.all fun q => q.2.wrote.isEmpty then s
  else { s with queues := s.queues.map fun q => (q.1, { q.2 with wrote := q.2.wrote.map slot }) }

/-- Word i of the slot at the head as a receive reads it: where software has overwritten it, the engine's word or software's, and which
one is free (R290). A word lost with its line is POISON. DESIGN CHOICE (log entry 49): a word of a slot that names no memory (R34) reads as a free word. -/
def ringWord (s : State) (q i : Nat) : Word :=
  let x := getQ s q
  let a := x.slotAt x.head
  let w := cohRead s ((a + i) % 2 ^ 36)
  if !ringThere s x ((a + i) % 2 ^ 36) then ⟨tagRAW, Config.freeW64 (s.freeIx + i)⟩
  else match (((x.wrote.find? fun e => e.1 == a).map Prod.snd).bind fun ws => ws[i]?) with
  | some e => if e = w ∨ w.tag = tagPOISON ∨ Config.freeBool (s.freeIx + i) = true then w else e
  | none => w

/-- The length and words of the message at the head, as the receive reads them (R290, R291). -/
def ringHead (s : State) (q : Nat) : List Word :=
  let n0 := bits (ringWord s q 0).pay 3 0
  let n := if n0 = 0 then 1 else min n0 (getQ s q).maxN
  (List.range n).map fun i => ringWord s q (1 + i)

/-- The number of a queue of this device by its global id; the ring of another device's queue is not here, and stands empty. -/
def queueHere (s : State) (qid : Nat) : Nat := if qid / 65536 = s.dev then qid % 65536 else 65536

/-- The messages that a queue holds for a hardware engine that receives from it (R308): none while the queue is not enabled or bound to
nobody, which answers no receive (R293). -/
def hwOcc (s : State) (qid : Nat) : Nat :=
  let x := getQ s (queueHere s qid)
  if x.enabled && x.bind != 0 then x.occ else 0

/-- The message at the head of the queue from which a hardware engine receives, once its ring finds a shared miss-tracking entry (R289). -/
def hwHead (s : State) (qid : Nat) : Option (Nat × List Word) :=
  let q := queueHere s qid
  if hwOcc s qid = 0 || !ringFree s q then none else some (q, ringHead s q)

/-- HEAD advanced past the message at the head, its Sunlit credit returned (R304); a later read draws afresh. -/
def dequeue (s : State) (q : Nat) : State :=
  let x := getQ s q
  let s1 := modQ { s with freeIx := s.freeIx + 16 } q fun x => { x with head := (x.head + 1) % 2 ^ 32 }
  markLow (returnSlot s1 q (x.slotAt x.head)) q

/-! ## Completing a receive -/

/-- The answer of a receive as the registers take it (R133, R299). A message writes nine registers. -/
def recvWords (ws : List Word) : List Word :=
  (Word.fixN ws.length :: ws) ++ List.replicate (8 - ws.length) Word.nil

/-- The result of an operation recorded for its arrival (R91). -/
def setResult (s : State) (c op : Nat) (r : OpResult) : State :=
  modCtx s c fun x =>
    match x.slot with
    | some m => if m.id = op then { x with slot := some { m with result := some r } } else x
    | none => x

/-- A waiting receive completed with −1 (R302). -/
def waiterDisabled (s : State) (w : Waiter) : State :=
  setResult s w.ctx w.op (.words (Word.fix (fixPay' (-1)) :: List.replicate 8 Word.nil))
where
  fixPay' (n : Int) : W64 := BitVec.ofInt 64 n

/-- Whether a context still waits with an operation: a context reset may have removed it (R302). -/
def stillWaits (s : State) (w : Waiter) : Bool :=
  match (getCtx s w.ctx).slot with
  | some m => m.id == w.op && m.result.isNone
  | none => false

/-- A loss counted in `MQLOST`, rung and recorded with its queue (R297, R302). -/
def countLost (s : State) (p rule qid : Nat) : State :=
  let s1 := modPart s p fun q => { q with mqlost := if q.mqlost = 0xFFFFFFFF then q.mqlost else q.mqlost + 1 }
  report (ringDoorbell s1 p 50) 0x6003 (.partition p) [BitVec.ofNat 64 rule] (some (.queue qid))

/-- The oldest waiting receive takes the message at the head (R300). -/
def assignWaiter (s : State) (q : Nat) : State :=
  let x := getQ s q
  match x.waiters with
  | [] => s
  | w :: ws =>
    if x.occ = 0 then s
    else
      let words := ringHead s q
      let s1 := dequeue (setQ s q { x with waiters := ws }) q
      setResult s1 w.ctx w.op (.words (recvWords words))

/-- What an arrival sets in motion under the queue's binding (R293, R300). -/
def arrivalEffect (s : State) (q : Nat) : State :=
  let x := getQ s q
  if !x.waiters.isEmpty then assignWaiter s q
  else match x.bind with
    | 1 => if x.wake then
        modCtx s x.ctx fun c => { c with regs := { c.regs with ipend := Nat.lor c.regs.ipend 2 } } else s
    | 2 => ringQueue s q
    | 3 => queueVector s q
    | _ => s

/-! ## Judging an arrival (R296) -/

/-- Bounce and acknowledgement statuses (R297). -/
def stFULL : Nat := 1
def stNOT_BOUND : Nat := 2
def stNOT_PERMITTED : Nat := 3
def stTOO_LONG : Nat := 4
def stLINK_DOWN : Nat := 5
def stNO_PATH : Nat := 6

/-- The status of a message at its home on this device; none when it is written (R296). -/
def judge (s : State) (m : Msg) : Option Nat :=
  let x := getQ s (m.qid % 65536)
  if m.sun = false ∧ m.srcDev ≠ s.dev ∧ (routePort s m.part m.srcDev).isNone then some stNO_PATH
  else if !x.enabled ∨ x.bind = 0 then some stNOT_BOUND
  else if m.kind = .bounce then (if x.shadeRoom then none else some stFULL)
  else if (x.send / 2 ^ m.part) % 2 = 0 then some stNOT_PERMITTED
  else if m.sun then none
  else if x.maxN < m.words.length then some stTOO_LONG
  else if !x.shadeRoom then some stFULL
  else none

/-- A bounce notice as its queue's slots hold it when it arrives (R297): cut to fit, with TRUNC then set. -/
def fitNotice (x : Queue) (m : Msg) : Msg :=
  match m.kind, m.words with
  | .bounce, h :: ws =>
    if x.maxN < m.words.length then { m with words := { h with pay := h.pay ||| flagBit true 9 } :: ws.take (x.maxN - 1) } else m
  | _, _ => m

/-- A message written and its arrival's effect. -/
def acceptMsg (s : State) (m : Msg) : State :=
  let q := m.qid % 65536
  arrivalEffect (ringWrite s q (fitNotice (getQ s q) m)) q

/-- The bounce header (R297). -/
def bounceHeader (m : Msg) (status c : Nat) : Word :=
  Word.fix (field (if m.kind = .ctx then m.ctx else 0) 30 ||| field m.qid 10 ||| flagBit (decide (c < m.words.length)) 9 |||
    flagBit m.sun 8 ||| field m.words.length 4 ||| field status 0)

/-- A refused message of a context or the host on its way to `MQBOUNCE` of its partition (R297, R308). -/
def bounce (s : State) (m : Msg) (status : Nat) : State :=
  let q := bits (getPart s m.part).mqbounce 15 0
  let x := getQ s q
  let c := min m.words.length (if x.slot16 then 7 else 6)
  let notice : Msg := { src := .base, kind := .bounce, part := m.part, srcDev := s.dev, qid := s.dev * 65536 + q
                        words := bounceHeader m status c :: m.words.take c }
  { s with msgs := s.msgs ++ [notice] }

/-! ## Commands (R302, R311) -/

/-- Every waiter completed with −1. -/
def dropWaiters (s : State) (q : Nat) : State :=
  let x := getQ s q
  x.waiters.foldl waiterDisabled (setQ s q { x with waiters := [] })

/-- A waiter of a context removed from every queue (R301, R302). -/
def removeWaiter (s : State) (c : Nat) : State :=
  { s with queues := s.queues.map fun e => (e.1, { e.2 with waiters := e.2.waiters.filter fun w => w.ctx != c }) }

/-- FLUSH: HEAD := TAIL, the credits of the Sunlit messages removed returned, watermarks signalled (R303, R311). -/
def flushQ (s : State) (q : Nat) : State :=
  let x := getQ s q
  let s1 := ((List.range x.occ).map fun i => x.slotAt (x.head + i)).foldl (fun s a => returnSlot s q a) s
  markLow (modQ s1 q fun x => { x with head := x.tail }) q

/-- The conditions of ENABLE (R311): the ring lies where the owner's grants and R34 put local memory. -/
def enableOk (s : State) (q : Nat) : Bool :=
  let x := getQ s q
  x.bind != 0 && x.base / 2 ^ 36 == s.dev && ringThere s x (x.base % 2 ^ 36) && decide (x.sunres ≤ x.cap) &&
    (!x.wmen || decide (x.lowm < x.hiwm))

/-- `QCMD` (R311). -/
def qcmd (s : State) (q cmd : Nat) : State :=
  match cmd with
  | 1 => modQ s q fun x => if enableOk s q then { x with enabled := true, refused := false } else { x with refused := true }
  | 2 => dropWaiters (modQ s q fun x => { x with enabled := false, refused := false }) q
  | 3 => flushQ (modQ s q fun x => { x with refused := false }) q
  | _ => s

/-! ## Receives (R299) -/

/-- Whether the binding admits a context (R293). -/
def mayReceive (s : State) (q c : Nat) : Bool :=
  let x := getQ s q
  match x.bind with
  | 1 => x.ctx == c
  | 2 => owned s c && partOf s c == x.owner
  | _ => false

end Sys2Proof.Machine
end

