-- ==== Sys2Proof/Machine/Translate.lean ====
section
/-!
DEFINITION. Address translation: the walk (R240 to R244), permissions and memory types (R245, R246), the TLB and its
replacement (R249 to R252), and invalidation matching (R257).
-/

namespace Sys2Proof.Machine
open Sys2Proof

/-- The ACCESS code (R255). -/
def Access.code : Access → Nat
  | .fetch => 0 | .load => 1 | .store => 2 | .cas => 3 | .auWrite => 4 | .dsPush => 5 | .dsPop => 6 | .rsPush => 7
  | .rsRead => 8 | .table => 9 | .card => 10 | .resume => 0 | .inval => 2 | .iinval => 1

/-- The store rows of R245, which need D = 1 in the entry (R252). -/
def Access.isStore : Access → Bool
  | .store | .cas | .auWrite | .dsPush | .rsPush | .card => true
  | _ => false

/-- A translation fault record (R255). -/
def translFault (cause : Nat) (req : WalkReq) (level reason tag : Nat) : FaultRec :=
  { cause, faddr := BitVec.ofNat 64 req.va, info := translInfo level req.acc.code reason tag }

/-- R245: the first permission that the access lacks, as its reason. -/
def permReason (e : TlbEnt) (acc : Access) (priv : Bool) : Option Nat :=
  let user := !priv && !e.u
  match acc with
  | .resume => none
  | .iinval => if e.r || e.x then none else some 0
  | .fetch => if !e.x then some 2 else if e.u == priv then some 4 else none
  | .load | .dsPop | .table => if !e.r then some 0 else if user then some 3 else none
  | .store | .cas | .auWrite | .dsPush | .card | .inval => if !e.w then some 1 else if user then some 3 else none
  | .rsPush => if !e.w then some 1 else if !e.rstack then some 5 else if user then some 3 else none
  | .rsRead => if !e.r then some 0 else if !e.rstack then some 5 else if user then some 3 else none

/-- R246: the fault of an access that the memory type refuses. -/
def typeCause (row : TypeRow) (typ : Nat) : Option Nat :=
  match row with
  | .any => none
  | .carCdr => if typ = 2 then some cMEM_TYPE else none
  | .casFix => if typ = 2 then some cATOMIC_TYPE else none
  | .fetch | .cached => if typ = 0 ∨ typ = 4 then none else some cMEM_TYPE

/-- The checks of R245, R246 and R128 on a leaf, in order. -/
def leafFault (e : TlbEnt) (req : WalkReq) : Option FaultRec :=
  match permReason e req.acc req.priv with
  | some r => some (translFault cPERMISSION req 3 r 0)
  | none =>
    match typeCause req.row e.typ with
    | some c => some (translFault c req 3 6 0)
    | none =>
      if e.rstack ∧ (req.acc = .store ∨ req.acc = .cas ∨ req.acc = .auWrite ∨ req.acc = .dsPush)
      then some (translFault cRSTACK_WRITE req 3 15 0) else none

/-- The physical word address through an entry (R247): the group's frame with the page's own low bits. -/
def entPa (e : TlbEnt) (va : Nat) : Nat :=
  let n := e.contig
  (e.ppn / 2 ^ n * 2 ^ n + va / 1024 % 2 ^ n) * 1024 + va % 1024

/-- Whether an entry covers an address (R247, R249). -/
def entCovers (e : TlbEnt) (part asid va : Nat) : Bool :=
  e.part == part && e.asid == asid && e.vpn / 2 ^ e.contig == va / 1024 / 2 ^ e.contig

/-- The number of the entry that covers an address. -/
def tlbFind (t : Tab TlbEnt) (part asid va : Nat) : Option (Nat × TlbEnt) :=
  t.find? fun e => entCovers e.2 part asid va

/-! ## The walk -/

/-- R244: the fault of a table pointer, before the table word is read. -/
def tableFault (s : State) (part : Nat) (req : WalkReq) (level pa : Nat) : Option FaultRec :=
  if pa / 2 ^ 36 ≠ s.dev then some (translFault cWALK_DEVICE req level 15 0)
  else if localKind s (pa % 2 ^ 36) = .device then some (translFault cWALK_DEVICE req level 15 0)
  else match physFor s part (pa % 2 ^ 36) with
    | .dram | .scratch _ _ => none
    | _ => some (translFault cWALK_BUS req level 15 0xFF)

/-- R244: the fault of a table word, given the tag that its level requires. -/
def tableWordFault (req : WalkReq) (level : Nat) (want : Tag) (w : Word) : Option FaultRec :=
  if w.tag = tagPOISON then some (translFault cWALK_BUS req level 15 0xFF)
  else if w.tag ≠ want then some (translFault cWALK_TAG req level 15 w.tag.toNat)
  else if !bit w.pay 63 then some (translFault cNOT_MAPPED req level 15 0)
  else none

/-- The directory levels 0 to 2 (R240, R241): the address of the leaf table word, or a fault. -/
def walkDirs (s : State) (part : Nat) (req : WalkReq) : List Nat → Nat → FaultRec ⊕ Nat
  | [], table => .inr table
  | level :: rest, table =>
    match tableFault s part req level table with
    | some f => .inl f
    | none =>
      let w := cohRead s (table % 2 ^ 36)
      match tableWordFault req level tagPTD w with
      | some f => .inl f
      | none =>
        if bits w.pay 62 40 ≠ 0 then .inl (translFault cBAD_PTE req level 7 0)
        else walkDirs s part req rest (bits w.pay 39 10 * 1024 + bits (BitVec.ofNat 64 req.va) (39 - 10 * level) (30 - 10 * level))

/-- The entry that a PTE makes (R242, R247, R249). -/
def entOfPte (part asid va : Nat) (p : W64) : TlbEnt :=
  { part, asid, vpn := va / 1024, ppn := bits p 39 10, contig := bits p 56 54, r := bit p 62, w := bit p 61, x := bit p 60
    u := bit p 59, d := bit p 57, typ := bits p 53 51, gen := bits p 50 49, rstack := bit p 48 }

/-- R243: the checks of a valid leaf, in order. -/
def leafCheck (s : State) (part : Nat) (req : WalkReq) (p : W64) : Option FaultRec :=
  let e := entOfPte part 0 req.va p
  let dev := e.ppn / 2 ^ 26
  let loc := entPa e req.va % 2 ^ 36
  let kind := physFor s part loc
  let inDev := decide (0xC00000000 ≤ loc) && decide (loc < 0xC01000000)
  if bits p 47 40 ≠ 0 then some (translFault cBAD_PTE req 3 7 0)
  else if e.typ ≥ 5 then some (translFault cBAD_PTE req 3 8 0)
  else if e.w && !e.r then some (translFault cBAD_PTE req 3 9 0)
  else if (e.typ = 3) = (dev = s.dev) then some (translFault cBAD_PTE req 3 10 0)
  else if e.ppn % 2 ^ e.contig ≠ req.va / 1024 % 2 ^ e.contig then some (translFault cBAD_PTE req 3 11 0)
  else if e.typ = 4 ∧ (getPart s part).sealed = false then some (translFault cBAD_PTE req 3 12 0)
  else if (e.typ = 2 ∧ inDev = false) ∨ ((e.typ = 0 ∨ e.typ = 1 ∨ e.typ = 4) ∧ inDev = true)
    then some (translFault cBAD_PTE req 3 13 0)
  else if e.rstack ∧ e.typ ≠ 0 ∧ e.typ ≠ 4 then some (translFault cBAD_PTE req 3 14 0)
  else if e.typ ≠ 3 ∧ kind = .absent then some { translFault cBAD_PHYSICAL req 3 15 0 with sealed := sealedOwner s part loc }
  else none

/-- The leaf table word that a walk from a root reaches (R240 to R244): its address and the word, or the fault. -/
def walkLeaf (s : State) (part root : Nat) (req : WalkReq) : FaultRec ⊕ (Nat × Word) :=
  match walkDirs s part req [0, 1, 2] (root + bits (BitVec.ofNat 64 req.va) 47 40) with
  | .inl f => .inl f
  | .inr pa =>
    match tableFault s part req 3 pa with
    | some f => .inl f
    | none =>
      let w := cohRead s (pa % 2 ^ 36)
      match tableWordFault req 3 tagPTE w with
      | some f => .inl f
      | none => .inr (pa % 2 ^ 36, w)

/-- The PTE as a walk leaves it, with A set, and D too for a store (R251, R252); or the fault of a leaf that does not permit the
access, which sets no bit. -/
def markedPte (s : State) (part asid : Nat) (req : WalkReq) (w : Word) : FaultRec ⊕ Word :=
  match leafCheck s part req w.pay with
  | some f => .inl f
  | none =>
    match leafFault (entOfPte part asid req.va w.pay) req with
    | some f => .inl f
    | none => .inr { w with pay := w.pay ||| flagBit true 58 ||| flagBit req.acc.isStore 57 }

/-- A whole walk (R240 to R251) from a root: the entry that it installs, with A set, and D too for a store, in the PTE it walked by
compare-and-swap from the word it read; or the fault, which changes nothing. -/
def walkPage (s : State) (part asid root : Nat) (req : WalkReq) : State × (TlbEnt ⊕ FaultRec) :=
  match walkLeaf s part root req with
  | .inl f => (s, .inr f)
  | .inr (pa, w) =>
    match markedPte s part asid req w with
    | .inl f => (s, .inr f)
    | .inr w1 =>
      let s1 := if w1 = w then s else (homeCas s pa w w1).2
      (s1, .inl (entOfPte part asid req.va w1.pay))

/-! ## TLB replacement (R250) -/

/-- One step of the LFSR with polynomial x^16 + x^14 + x^13 + x^11 + 1. -/
def lfsrStep (l : Nat) : Nat :=
  let b (n : Nat) : Nat := l / 2 ^ n % 2
  l * 2 % 65536 + (b 15 + b 13 + b 12 + b 10) % 2

/-- An entry filled into a TLB of n entries (R250): over the entry that a D re-walk walks afresh, else the lowest invalid one, else
the entry that the LFSR names. -/
def tlbFill (n : Nat) (t : Tab TlbEnt) (lfsr : Nat) (again : Option Nat) (e : TlbEnt) : Tab TlbEnt × Nat :=
  match again with
  | some i => (tput t i e, lfsr)
  | none =>
    match (List.range n).find? fun i => !thas t i with
    | some i => (tput t i e, lfsr)
    | none => (tput t (lfsr % n) e, lfsrStep lfsr)

/-- The entries that refuse an access discarded (R252). -/
def tlbRefused (t : Tab TlbEnt) (part asid : Nat) (req : WalkReq) : Tab TlbEnt :=
  t.filter fun x => !(entCovers x.2 part asid req.va && (permReason x.2 req.acc req.priv).isSome)

/-- The entry with D = 0 that a store's walk walks afresh (R252). -/
def tlbDirty (t : Tab TlbEnt) (part asid : Nat) (req : WalkReq) : Option Nat :=
  match tlbFind t part asid req.va with
  | some (i, e) => if req.acc.isStore && !e.d && (permReason e req.acc req.priv).isNone then some i else none
  | none => none

/-! ## The TLBs of the units (R249, R254) -/

/-- A unit's TLB: its number of entries, the entries and the LFSR. -/
def unitTlb (s : State) : TransUnit → Nat × Tab TlbEnt × Nat
  | .core k => (64, (getCore s k).tlb, (getCore s k).lfsr)
  | .engine cl e => (32, (engineOf s cl e).tlb, (engineOf s cl e).lfsr)
  | .range cl => (16, (getCluster s cl).rangeTlb, (getCluster s cl).rangeLfsr)

def setUnitTlb (s : State) (u : TransUnit) (t : Tab TlbEnt) (l : Nat) : State :=
  match u with
  | .core k => modCore s k fun x => { x with tlb := t, lfsr := l }
  | .engine cl e => modEngine s cl e fun x => { x with tlb := t, lfsr := l }
  | .range cl => modCluster s cl fun x => { x with rangeTlb := t, rangeLfsr := l }

/-- A walk of a unit's walker (R251, R252, R254): refusing entries discarded, an entry installed; a core counts it in WALKS (R264). -/
def unitWalk (s : State) (u : TransUnit) (part asid root : Nat) (again : Option Nat) (req : WalkReq) : State × (TlbEnt ⊕ FaultRec) :=
  let (s1, res) := walkPage s part asid root req
  let s2 := match u with | .core k => modCore s1 k fun x => { x with walkCnt := (x.walkCnt + 1) % 2 ^ 32 } | _ => s1
  let (n, t, l) := unitTlb s2 u
  let t1 := tlbRefused t part asid req
  match res with
  | .inl e => let (t2, l2) := tlbFill n t1 l again e; (setUnitTlb s2 u t2 l2, res)
  | .inr _ => (setUnitTlb s2 u t1 l, res)

/-- A local address that has ceased to exist since its entry was made, or that no grant covers, faults BAD_PHYSICAL (R34, R224). -/
def entGone (s : State) (req : WalkReq) (e : TlbEnt) : Option FaultRec :=
  let pa := entPa e req.va
  if e.typ ≠ 3 ∧ physFor s e.part (pa % 2 ^ 36) = .absent then
    some { translFault cBAD_PHYSICAL req 3 15 0 with sealed := sealedOwner s e.part (pa % 2 ^ 36) }
  else none

/-- An access of an engine, or of a barrier, through its unit's TLB (R183, R231, R249 to R254, R263, R507). -/
def unitXlate (s : State) (u : TransUnit) (part asid root : Nat) (req : WalkReq) : State × (TlbEnt ⊕ FaultRec) :=
  let fin (s : State) (e : TlbEnt) : State × (TlbEnt ⊕ FaultRec) :=
    match entGone s req e with
    | some f => (s, .inr f)
    | none => (s, .inl e)
  let (_, t, _) := unitTlb s u
  let walk (again : Option Nat) : State × (TlbEnt ⊕ FaultRec) :=
    match unitWalk s u part asid root again req with
    | (s1, .inl e) => fin s1 e
    | r => r
  match tlbFind t part asid req.va with
  | none => walk none
  | some (i, e) =>
    if (permReason e req.acc req.priv).isSome then walk none
    else match leafFault e req with
      | some f => (s, .inr f)
      | none => if req.acc.isStore && !e.d then walk (some i) else fin s e

/-! ## Translating an access of a context -/

/-- The outcome of a translation: an address with its type and entry, a miss, or a fault. -/
inductive TrRes where
  | ok (pa typ : Nat) (e : TlbEnt)
  | miss
  | fault (f : FaultRec)
deriving DecidableEq, Repr

/-- The last check: a local address that no longer exists faults BAD_PHYSICAL (R34, R224). -/
def trFinish (s : State) (req : WalkReq) (e : TlbEnt) : TrRes :=
  match entGone s req e with
  | some f => .fault f
  | none => .ok (entPa e req.va) e.typ e

/-- The translation of an access of context c (R249 to R252): its walk results first, then the core's TLB. -/
def translate (s : State) (c : Nat) (req : WalkReq) : TrRes :=
  let x := getCtx s c
  match x.walks.find? fun r => r.req == req with
  | some { res := .inl e, .. } => trFinish s req e
  | some { res := .inr f, .. } => .fault f
  | none =>
    match tlbFind (getCore s (coreOf c)).tlb (partOf s c) x.regs.asid req.va with
    | none => .miss
    | some (_, e) =>
      match permReason e req.acc req.priv with
      | some _ => .miss
      | none =>
        match leafFault e req with
        | some f => .fault f
        | none => if req.acc.isStore && !e.d then .miss else trFinish s req e

/-- A translation without a walk result (prefetches and fetch ahead, R256). -/
def translateTlb (s : State) (c : Nat) (req : WalkReq) : Option (Nat × Nat) :=
  match translate s c req with
  | .ok pa typ _ => some (pa, typ)
  | _ => none

/-- A walk of a core's walker for a context (R251): an entry installed, WALKS counted. -/
def walkInstall (s : State) (c : Nat) (req : WalkReq) : State × (TlbEnt ⊕ FaultRec) :=
  let x := getCtx s c
  let again := tlbDirty (getCore s (coreOf c)).tlb (partOf s c) x.regs.asid req
  unitWalk s (.core (coreOf c)) (partOf s c) x.regs.asid x.regs.root again req

/-- The contexts of a core whose walks the walker makes now (R251). -/
def walksOn (s : State) (core : Nat) : Nat :=
  ((List.range 32).filter fun i =>
    let x := getCtx s (core * 32 + i)
    x.walking && (match x.park with | some (.tlb _) => true | _ => false)).length

/-- A walk of a context begun (R251, R252): the entry that refuses the access is discarded, the one with D = 0 that is walked afresh is
noted, and the leaf table word is read. -/
def walkNow (s : State) (c : Nat) (req : WalkReq) : State :=
  let x := getCtx s c
  let p := partOf s c
  let k := getCore s (coreOf c)
  let s1 := setCore s (coreOf c) { k with tlb := tlbRefused k.tlb p x.regs.asid req }
  setCtx s1 c { x with
    walking := true
    walkFrom := tlbDirty k.tlb p x.regs.asid req
    walkRead := match walkLeaf s p x.regs.root req with | .inr l => some l | .inl _ => none }

/-- A parked context's walk begun, or waiting: the core's walker runs at most 4 at once for different contexts (R251). -/
def walkBegin (s : State) (c : Nat) (req : WalkReq) : State :=
  let x := getCtx s c
  if x.walking || walksOn s (coreOf c) < 4 then walkNow s c req else s

/-- Whether the walk in flight finds, with its compare-and-swap on the leaf word it read, another word in its place (R251). -/
def walkOvertaken (s : State) (c : Nat) (req : WalkReq) : Bool :=
  let x := getCtx s c
  match x.walkRead with
  | none => false
  | some (pa, w) =>
    match markedPte s (partOf s c) x.regs.asid req w with
    | .inl _ => false
    | .inr w1 => w1 != w && cohRead s pa != w

/-- The next awaited walk of a parked context (R251): done, its result kept until the packet commits, faults or parks for another reason;
or, its compare-and-swap having failed, counted and begun again from the root. -/
def walkFor (s : State) (c : Nat) (req : WalkReq) : State × Bool :=
  if walkOvertaken s c req then
    let s1 := modCore s (coreOf c) fun k => { k with casFail := (k.casFail + 1) % 2 ^ 32 }
    (walkNow s1 c req, false)
  else
    let x := getCtx s c
    let dirty := tlbDirty (getCore s (coreOf c)).tlb (partOf s c) x.regs.asid req
    let again := if dirty = x.walkFrom then dirty else none
    let (s2, r) := unitWalk s (.core (coreOf c)) (partOf s c) x.regs.asid x.regs.root again req
    (modCtx s2 c fun x => { x with walks := x.walks ++ [{ req, res := r }], walkRead := none, walkFrom := none, walking := false }, true)

/-! ## Invalidation (R257) -/

/-- Whether an invalidation names an entry. -/
def invalMatches (v : Inval) (e : TlbEnt) : Bool :=
  e.part == v.part &&
    match v.kind with
    | 0 => e.asid == v.asid && e.vpn / 2 ^ e.contig == v.va / 1024 / 2 ^ e.contig
    | 1 => e.asid == v.asid
    | 2 => true
    | _ => e.vpn / 2 ^ e.contig == v.va / 1024 / 2 ^ e.contig

end Sys2Proof.Machine
end

