-- ==== Sys2Proof/Machine/Barrier.lean ====
section
/-!
DEFINITION. The heap as the barriers and the Collector act on it: regions, marks, cards, snapshot logging, resolution
and evacuation (R152 to R169, R180, R507).
-/

namespace Sys2Proof.Machine
open Sys2Proof

/-- Whoever a heap access is made for (R183, R254, R507): the unit through whose TLB it is translated, the partition, the
translation, the cluster and the good colour. -/
structure Agent where
  unit : TransUnit
  part : Nat
  asid : Nat
  root : Nat
  cluster : Nat
  goodc : Nat
deriving DecidableEq, Repr

/-- The agent of a context. -/
def agentOf (s : State) (c : Nat) : Agent :=
  let r := (getCtx s c).regs
  { unit := .core (coreOf c), part := partOf s c, asid := r.asid, root := r.root, cluster := clusterOf c, goodc := r.goodc }

/-- The Routine Engine through whose TLB a cluster's Collector engine translates (R254): one that serves a request of it, else the
first that is not retired. -/
def collEngine (s : State) (cluster : Nat) : Nat :=
  if (engineOf s cluster 0).job.isSome then 0
  else if (engineOf s cluster 1).job.isSome then 1
  else if (engineOf s cluster 0).retired then 1 else 0

/-- The Collector's agent on a cluster: the partition's default translation and good colour. -/
def collAgent (s : State) (p cluster : Nat) : Agent :=
  let q := getPart s p
  { unit := .engine cluster (collEngine s cluster), part := p, asid := bits q.tbaseDef 63 52, root := bits q.tbaseDef 39 0, cluster, goodc := q.bgoodc }

/-- An access of a barrier, checked as an access at S (R507). -/
def agReq (va : Nat) (acc : Access) : WalkReq := { va, acc, priv := true, row := .any }

/-- The translation of a barrier's or engine's access through its unit's TLB: the local address, whose home and stack it wakes (R32), or
the fault (R254, R507). -/
def agXlate (s : State) (g : Agent) (req : WalkReq) : State × ((Nat × TlbEnt) ⊕ FaultRec) :=
  match unitXlate s g.unit g.part g.asid g.root req with
  | (s1, .inl e) =>
    if e.typ = 2 ∨ e.typ = 3 then (s1, .inr (translFault cMEM_TYPE req 3 6 0))
    else (wakeLine s1 (entPa e req.va % 2 ^ 36 / 8), .inl (entPa e req.va % 2 ^ 36, e))
  | (s1, .inr f) => (s1, .inr f)

/-- A word read for an agent. -/
def agRead (s : State) (g : Agent) (va : Nat) : State × (Word ⊕ FaultRec) :=
  match agXlate s g (agReq va .load) with
  | (s1, .inl (pa, _)) => (s1, .inl (cohRead s1 pa))
  | (s1, .inr f) => (s1, .inr f)

/-- A word written for an agent; a fault leaves memory unchanged. -/
def agWrite (s : State) (g : Agent) (va : Nat) (w : Word) : State × Option FaultRec :=
  match agXlate s g (agReq va .store) with
  | (s1, .inl (pa, _)) => (homeWrite s1 pa w, none)
  | (s1, .inr f) => (s1, some f)

/-- A word as an agent would read it, with a default where the address cannot be read: what the Collector's bookkeeping looks at. -/
def agPeek (s : State) (g : Agent) (va : Nat) : Word :=
  match (agRead s g va).2 with
  | .inl w => w
  | .inr _ => Word.zero

/-- A read for an agent, with what its walk leaves (R254), that gives a default where the address cannot be read. -/
def agLook (s : State) (g : Agent) (va : Nat) : State × Word :=
  match agRead s g va with
  | (s1, .inl w) => (s1, w)
  | (s1, .inr _) => (s1, Word.zero)

def regionWords : Nat := 0x40000

def inHeap (p : Partition) (a : Nat) : Bool := decide (p.heapbase.toNat ≤ a) && decide (a < p.heaplim.toNat)

/-- The physical address of a pointer's target in the heap that lies on another device (R162, R333). -/
def farTarget (s : State) (g : Agent) (w : Word) : State × Option Nat :=
  if !inHeap (getPart s g.part) (ptrAddr w) then (s, none)
  else match unitXlate s g.unit g.part g.asid g.root (agReq (ptrAddr w) .load) with
    | (s1, .inl e) => (s1, if e.typ = 3 then some (entPa e (ptrAddr w)) else none)
    | (s1, .inr _) => (s1, none)

/-! ## Regions (R152, R153) -/

def regionOf (p : Partition) (a : Nat) : Nat := (a - p.heapbase.toNat) / regionWords

/-- The region states. -/
def rFREE : Nat := 0
def rALLOC : Nat := 1
def rOLD : Nat := 2
def rEVAC : Nat := 3
def rRELOCATED : Nat := 4
def rPINNED : Nat := 5

/-- What a region-table entry says (R507): a state and generation, no usable state with whatever stands in the GEN field, or a
fault. -/
inductive RegionRes where
  | state (st gen live : Nat)
  | none (gen : Nat)
  | fault (f : FaultRec)
deriving DecidableEq, Repr

/-- Entry r of the region table as a barrier reads it (R507). -/
def readRegion (s : State) (g : Agent) (r : Nat) : State × RegionRes :=
  let va := (getPart s g.part).rtbase.toNat + r
  match agRead s g va with
  | (s1, .inr f) => (s1, .fault f)
  | (s1, .inl w) =>
    if w.tag = tagPOISON then (s1, .fault (poisonFault (BitVec.ofNat 64 va) w))
    else if w.tag ≠ tagRAW ∨ bits w.pay 63 60 ≥ 6 then (s1, .none (bits w.pay 59 58))
    else (s1, .state (bits w.pay 63 60) (bits w.pay 59 58) (bits w.pay 18 0))

/-- The state, generation and LIVE of a region, where its entry gives them, with what the read leaves. -/
def regionEntry (s : State) (g : Agent) (r : Nat) : State × Option (Nat × Nat × Nat) :=
  match readRegion s g r with
  | (s1, .state st gen live) => (s1, some (st, gen, live))
  | (s1, _) => (s1, none)

/-- A region-table entry written by the Collector. -/
def writeRegion (s : State) (g : Agent) (r st gen live : Nat) : State :=
  (agWrite s g ((getPart s g.part).rtbase.toNat + r) ⟨tagRAW, field st 60 ||| field gen 58 ||| field live 0⟩).1

/-- A region's STATE and GEN written, with LIVE, which only MARK_END changes, as it stands (R153). -/
def setRegion (s : State) (g : Agent) (r st gen : Nat) : State :=
  match regionEntry s g r with
  | (s1, some (_, _, live)) => writeRegion s1 g r st gen live
  | (s1, none) => writeRegion s1 g r st gen 0

/-! ## Marks (R154) -/

/-- The bitmap word and shift of a heap address. -/
def markPlace (p : Partition) (a : Nat) : Nat × Nat :=
  let o := a - p.heapbase.toNat
  (p.mbmbase.toNat + o / 64, 2 * (o / 2 % 32))

def markCode (s : State) (g : Agent) (a : Nat) : State × Nat :=
  let m := markPlace (getPart s g.part) a
  let (s1, w) := agLook s g m.1
  (s1, bits w.pay (m.2 + 1) m.2)

def setMark (s : State) (g : Agent) (a code : Nat) : State :=
  let m := markPlace (getPart s g.part) a
  let (s1, w) := agLook s g m.1
  (agWrite s1 g m.1 ⟨tagRAW, setBits w.pay (m.2 + 1) m.2 code⟩).1

/-- The size in words of the object that a pointer names, from its header or its cell size. -/
def objectSize (p : Partition) (w first : Word) : Nat :=
  let e := tdtOf p w.tag
  if tdtSizeSrc e = 2 then 1 + bodyLength (tdtOf p first.tag) (hdrLength first) else tdtFixedSize e

/-- Whether a pointer's target is a headered object of MARK 3, which counts as marked and is never evacuated (R154). -/
def markThree (p : Partition) (w first : Word) : Bool :=
  tdtSizeSrc (tdtOf p w.tag) == 2 && classOf p first == clsHEADER && hdrMark first == 3

/-- Whether a pointer's target is marked (R154): its code is set, or its header's MARK is 3. -/
def isMarked (s : State) (g : Agent) (w : Word) : State × Bool :=
  let (s1, code) := markCode s g (ptrAddr w)
  let (s2, first) := agLook s1 g (ptrAddr w)
  (s2, code != 0 || markThree (getPart s2 g.part) w first)

/-- The target of a pointer marked under R154 and R162: nothing when its code is set; for a header whose MARK is 3, which counts as
marked, the code alone; otherwise the code, the header's MARK, and the object queued for scanning. -/
def markTarget (s0 : State) (g : Agent) (w : Word) : State :=
  let a := ptrAddr w
  let (s1, code) := markCode s0 g a
  let (s, first) := agLook s1 g a
  let p := getPart s g.part
  let e := tdtOf p w.tag
  if code ≠ 0 then s
  else if markThree p w first = true then setMark s g a 1
  else
    let s1 :=
      if tdtSizeSrc e = 2 then
        let s1 := setMark s g a 1
        if classOf p first = clsHEADER
        then (agWrite s1 g a { first with pay := setBits first.pay 63 62 p.bgoodc }).1 else s1
      else
        match tdtFixedSize e with
        | 2 => setMark s g a 2
        | 4 => setMark s g a 3
        | _ => setMark (setMark s g a 3) g (a + 2) 3
    modPart s1 g.part fun p => { p with coll := { p.coll with markQ := p.coll.markQ ++ [w] } }

/-! ## Cards and the snapshot log (R155, R165 to R168) -/

def cardAddr (p : Partition) (a : Nat) : Nat := p.cardbase.toNat + (a - p.heapbase.toNat) / 128

/-- The OR of a generation into the card word at a physical address. -/
def cardOr (s : State) (pa gen : Nat) : State :=
  let w := cohRead s pa
  homeWrite s pa ⟨tagRAW, w.pay ||| flagBit true gen⟩

/-- The contexts that a handshake holds released. -/
def releaseAll (s : State) (p : Nat) : State :=
  (ctxsOf s p).foldl (fun s c => modCtx s c fun x => { x with held := false }) s

/-- The Collector's requests of a partition taken off the Routine Engines and their queues. -/
def dropJobs (s : State) (p : Nat) : State :=
  let mine (j : CollJob) : Bool := j.part == p
  let free (e : Engine) : Engine := if e.job.any mine then { e with job := none, run := 0, micro := none, micro0 := none, heals := [] } else e
  { s with clusters := s.clusters.map fun k => (k.1, { k.2 with
      reqQ := k.2.reqQ.filter fun q => !q.coll.any mine
      engines := k.2.engines.map fun e => (e.1, free e.2) }) }

/-- What a Collector pass keeps when it ends: what the other devices have told of the cycle (R179), and its
ALLOC regions (R153). -/
def CollWork.fresh (k : CollWork) : CollWork := { peers := k.peers, told := k.told, allocs := k.allocs }

/-- The abort of a cycle (R168, R176, R177): marking stops, nothing is reclaimed, the doorbell rings. -/
def abortCycle (s : State) (p status : Nat) : State :=
  let s1 := modPart (releaseAll (dropJobs s p) p) p fun q =>
    { q with abort := true, status := status, marking := false, weakclr := false, phase := 0, coll := q.coll.fresh }
  ringDoorbell s1 p 48

/-- The context number that stands for a store that no context of this device made. -/
def noCtx : Nat := 2 ^ 14

/-- Whose translation the write of a logged word to the overflow area takes: the storing context's (R239, R507), or the Collector's where
no context of the partition stored. -/
def logAgent (s : State) (core part c : Nat) : Agent :=
  if owned s c && partOf s c == part then agentOf s c else collAgent s part (clusterOfCore core)

/-- Words written to the overflow area in order, each with its storing context's translation; a full area, or a translation fault, aborts
the cycle (R168, R239). -/
def overflowLog (s : State) (core part : Nat) : List (Nat × Word) → State
  | [] => s
  | (c, w) :: ws =>
    let q := getPart s part
    let full (s : State) : State :=
      let s1 := report s 0x6001 (.partition part) [BitVec.ofNat 64 q.cycle]
      if s.part.full then abortCycle s1 part 5
      else ringDoorbell (modPart s1 part fun q => { q with marking := false, flushing := false, abort := true }) part 48
    if bits q.satbovf 63 48 * 1024 ≤ q.ovfPos then full s
    else
      match agWrite s (logAgent s core part c) (bits q.satbovf 47 0 + q.ovfPos) w with
      | (s1, none) => overflowLog (modPart s1 part fun q => { q with ovfPos := q.ovfPos + 1 }) core part ws
      | (s1, some _) => full s1

/-- Logged words sent to the snapshot queue as one message (R168, R308). -/
def sendLog (s : State) (core part : Nat) (ws : List (Nat × Word)) : State :=
  if ws.isEmpty then s else sendHw s (.satb core (ws.map Prod.fst)) part (bits (getPart s part).satbq 19 0) (ws.map Prod.snd)

/-- The buffer of a partition's logged words in a core. -/
def logOf (k : Core) (part : Nat) : List (Nat × Word) := tget [] k.logbuf part

/-- Whether a message of a partition's snapshot log is on its way. -/
def logsOnWay (s : State) (part : Nat) : Bool :=
  let log (m : Msg) : Bool := m.part == part && (match m.kind with | .satb _ _ => true | _ => false)
  s.msgs.any log || s.outbox.any fun e => log e.msg

/-- Whether stores of a partition log the words that they overwrite (R167); not while software's clearing of MARKING is being flushed
(R180). -/
def logsStores (q : Partition) : Bool := q.marking && !q.flushing

/-- A word captured in a core's log buffer; eight buffered words leave as one message. -/
def logWord (s : State) (core part ctx : Nat) (w : Word) : State :=
  let k := getCore s core
  let b := logOf k part ++ [(ctx, w)]
  if b.length < 8 then setCore s core { k with logbuf := tput k.logbuf part b }
  else sendLog (setCore s core { k with logbuf := tput k.logbuf part (b.drop 8) }) core part (b.take 8)

/-- A core's log buffer flushed: every word it holds of a partition is sent (R168). -/
def flushLog (s : State) (core part : Nat) : State :=
  let k := getCore s core
  sendLog (setCore s core { k with logbuf := tdel k.logbuf part }) core part (logOf k part)

/-- Every core's log buffer of a partition flushed (R168, R180). -/
def flushLogs (s : State) (part : Nat) : State := (s.cores.map Prod.fst).foldl (fun s k => flushLog s k part) s

/-- MARKING reads 1 until the flush that software's write of 0 began has ended (R180). -/
def settleFlush (s : State) (part : Nat) : State :=
  if (getPart s part).flushing && !logsOnWay s part then modPart s part fun q => { q with marking := false, flushing := false } else s

/-- What a store does beside its write (R165 to R168): the overwritten word logged while marking, and its card marked. -/
def storeMarks (s : State) (m : StoreMark) (old : Word) : State :=
  let p := getPart s m.part
  let s1 := if m.log && logsStores p && barrierOf p old == 1 then logWord s m.core m.part m.ctx old else s
  match m.card with
  | some (pa, gen) => cardOr s1 pa gen
  | none => s1

/-! ## Resolution and evacuation (R148, R162, R164, R174, R180) -/

/-- How a resolution ends: a word, a fault, or a wait for a to-space region. -/
inductive ResOut where
  | word (w : Word)
  | fault (f : FaultRec)
  | wait
deriving DecidableEq, Repr

/-- The key of a cluster's current to-space region: the partition and the destination generation. -/
def tsKey (part gen : Nat) : Nat := part * 4 + gen

/-- The next region from the to-space queue (R174): a number that names no FREE region is discarded and recorded. -/
def takeRegion (s : State) (g : Agent) (gen : Nat) : Nat → State × Option Nat
  | 0 => (s, none)
  | n + 1 =>
    let p := getPart s g.part
    match hwHead s (bits p.tospq 19 0) with
    | none => (s, none)
    | some (q, ws) =>
      let w := (ws[0]?).getD Word.zero
      let s1 := dequeue s q
      let r := w.pay.toNat
      let ok := w.tag == tagFIX && decide (p.heapbase.toNat + (r + 1) * regionWords ≤ p.heaplim.toNat)
      let (s2, e) := if ok then regionEntry s1 g r else (s1, none)
      match e with
      | some (0, _, live) => (writeRegion s2 g r rALLOC gen live, some r)
      | _ => takeRegion (report s2 0x5008 (.partition g.part) [w.pay]) g gen n

/-- An address aligned for a headerless cell of size k. -/
def alignUp (a k : Nat) : Nat := if k = 0 then a else (a + k - 1) / k * k

/-- Space for an object in the cluster's current to-space region, a full region being set OLD (R174). A headerless cell of k words is
aligned as R50 asks, the gap becoming a FILLH as in a nursery (R150, R164). -/
def toSpace (s : State) (g : Agent) (gen size k : Nat) : State × Option Nat :=
  let p := getPart s g.part
  let key := tsKey g.part gen
  let cur := tget 0 (getCluster s g.cluster).toSpace key
  let use (s : State) (a : Nat) : State × Option Nat :=
    let st := alignUp a k
    let s1 := if st = a then s else (agWrite s g a ⟨tagFILLH, BitVec.ofNat 64 (st - a - 1)⟩).1
    (modCluster s1 g.cluster fun c => { c with toSpace := tput c.toSpace key (st + size) }, some st)
  let next (s : State) : State × Option Nat :=
    match takeRegion s g gen 64 with
    | (s1, some r) => use s1 (p.heapbase.toNat + r * regionWords)
    | (s1, none) => (s1, none)
  if cur = 0 then next s
  else
    let r := regionOf p (cur - 1)
    if alignUp cur k + size ≤ p.heapbase.toNat + (r + 1) * regionWords then use s cur
    else next (modCluster (setRegion s g r rOLD gen) g.cluster fun c => { c with toSpace := tdel c.toSpace key })

/-- An object copied word by word (R164). -/
def copyWords (s : State) (g : Agent) (src dst : Nat) : Nat → State
  | 0 => s
  | n + 1 =>
    let (s1, w) := agLook s g src
    copyWords (agWrite s1 g dst w).1 g (src + 1) (dst + 1) n

/-- The cards of a promoting copy marked for the pointers that are younger than its new generation (R174). -/
def promoteCards (s0 : State) (g : Agent) (dst size gen : Nat) : State :=
  let p := getPart s0 g.part
  (List.range size).foldl (fun s0 i =>
    let (s, v) := agLook s0 g (dst + i)
    if barrierOf p v != 0 && decide (ptrGen v < gen) then
      match agXlate s g (agReq (cardAddr p (dst + i)) .card) with
      | (s', .inl (pa, _)) => cardOr s' pa (ptrGen v)
      | (s', .inr _) => s'
    else s) s0

/-- FORWARD installed in the first word of the original by compare-and-swap from the word that was copied (R164): the evacuator that
loses overwrites its own copy with a FILLH header and uses the FORWARD it found. -/
def installForward (s : State) (g : Agent) (w first : Word) (dst size gen : Nat) : State × ResOut :=
  let p := getPart s g.part
  let s1 := if classOf p first = clsHEADER
    then (agWrite s g dst { first with pay := setBits first.pay 61 60 gen }).1 else s
  match agXlate s1 g (agReq (ptrAddr w) .store) with
  | (s2, .inr f) => (s2, .fault f)
  | (s2, .inl (pa, _)) =>
    let (old, s3) := homeCas s2 pa first ⟨tagFORWARD, (ptrRetarget w dst gen).pay⟩
    if old = first then
      (if p.promote then promoteCards s3 g dst size gen else s3, .word (ptrRetarget w dst gen))
    else
      let s4 := (agWrite s3 g dst ⟨tagFILLH, BitVec.ofNat 64 (size - 1)⟩).1
      if old.tag = tagFORWARD then (s4, .word (ptrRetarget w (ptrAddr old) (ptrGen old))) else (s4, .wait)

/-- Whether a cluster's Routine Engines have a copy of an object in hand. -/
def copyInHand (s : State) (cl part src : Nat) : Bool :=
  let here (j : CollJob) : Bool := j.copy && j.part == part && j.src == src
  let k := getCluster s cl
  (k.reqQ.any fun q => q.coll.any here) || k.engines.any fun e => e.2.job.any here

/-- A request of the Collector or of the read barrier to its cluster's Routine Engines (R181). -/
def askEngine (s : State) (cl : Nat) (j : CollJob) : State :=
  queueRoutine s cl { ctx := noCtx, coll := some j }

/-- A region of EVAC that holds an object whose first word is POISON is PINNED, and the pass goes on (R175). -/
def pinRegion (s : State) (g : Agent) (r gen : Nat) : State :=
  modPart (setRegion s g r rPINNED gen) g.part fun q => { q with coll := { q.coll with poison := true } }

/-- The object that a pointer names evacuated (R164, R174, R175): copied to to-space, a FORWARD of its new address and generation
installed in its first word, the pointer retargeted. A body of more than 256 words is copied by a Routine Engine of the cluster, through the evacuator's translation (R507). -/
def evacuate (s0 : State) (g : Agent) (w : Word) (srcGen : Nat) : State × ResOut :=
  let a := ptrAddr w
  let (s, first) := agLook s0 g a
  let p := getPart s g.part
  let size := objectSize p w first
  let gen := if p.promote then min 3 (srcGen + 1) else srcGen
  let k := if tdtSizeSrc (tdtOf p w.tag) = 2 then 1 else tdtFixedSize (tdtOf p w.tag)
  if first.tag = tagPOISON then (pinRegion s g (regionOf p a) srcGen, .word w)
  else if copyInHand s g.cluster g.part a then (s, .wait)
  else match toSpace s g gen size k with
    | (s1, none) =>
      if hwOcc s1 (bits p.tospq 19 0) ≠ 0 then (s1, .wait)
      else (ringDoorbell (modPart s1 g.part fun q => { q with status := 4 }) g.part 48, .wait)
    | (s1, some dst) =>
      if 257 < size then
        (askEngine s1 g.cluster
          { part := g.part, copy := true, ptr := w, first, src := a, dst, gen, count := size, xlate := some (g.asid, g.root) }, .wait)
      else installForward (copyWords s1 g a dst size) g w first dst size gen

/-- BARRIER_SOFT with the slot address (R180). -/
def softFault (slot : Nat) : FaultRec := { cause := cBARRIER_SOFT, faddr := BitVec.ofNat 64 slot }

/-- Whether the barrier leaves a resolution to software (R180): on a part without Collector engines, while MARKING is 1, or for the weak rule.
-/
def leftToSoftware (s : State) (p : Partition) (weak : Bool) : Bool := !s.part.full && (p.marking || (p.weakclr && weak))

/-- The end of a resolution: the mark while marking, the good colour, the weak rule (R162, R180). -/
def finishResolve (s : State) (g : Agent) (w : Word) (slot : Nat) (weak : Bool) : State × ResOut :=
  let p := getPart s g.part
  let a := ptrAddr w
  let good := ptrWithColour w g.goodc
  if !inHeap p a then (s, .word good)
  else if leftToSoftware s p weak then (s, .fault (softFault slot))
  else if p.marking then
    match readRegion s g (regionOf p a) with
    | (s1, .fault f) => (s1, .fault f)
    | (s1, .state _ gen _) => (if (p.genmask / 2 ^ gen) % 2 == 1 then markTarget s1 g w else s1, .word good)
    | (s1, .none gen) => (if (p.genmask / 2 ^ gen) % 2 == 1 then markTarget s1 g w else s1, .word good)
  else if p.weakclr && weak then
    match isMarked s g w with
    | (s1, true) => (s1, .word good)
    | (s1, false) => (s1, .word Word.nil)
  else (s, .word good)

/-- Resolution of a word read from a slot (R162, R180, R507); a FORWARD is followed once (R60). -/
def resolve (s : State) (g : Agent) (w : Word) (slot : Nat) (weak : Bool) : State × ResOut :=
  let p := getPart s g.part
  let a := ptrAddr w
  if !inHeap p a then (s, .word (ptrWithColour w g.goodc))
  else
    match readRegion s g (regionOf p a) with
    | (s1, .fault f) => (s1, .fault f)
    | (s1, rr) =>
      let st := match rr with | .state st _ _ => some st | _ => none
      if st = some rFREE then (s1, .fault { cause := cSTALE_POINTER, faddr := BitVec.ofNat 64 slot })
      else
        match agRead s1 g a with
        | (s2, .inr f) => (s2, .fault f)
        | (s2, .inl f) =>
          if f.tag = tagFORWARD then
            match agRead s2 g (ptrAddr f) with
            | (s3, .inr e) => (s3, .fault e)
            | (s3, .inl copy) =>
              if copy.tag = tagFORWARD then (s3, .fault { cause := cBAD_TAG, faddr := BitVec.ofNat 64 slot })
              else finishResolve s3 g (ptrRetarget w (ptrAddr f) (ptrGen f)) slot weak
          else if st = some rEVAC ∧ s2.part.full = false then (s2, .fault (softFault slot))
          else if st = some rEVAC ∧ (p.phase = 6 ∨ p.phase = 7) ∧ markThree p w f = false then
            let gen := match rr with | .state _ gn _ => gn | _ => 0
            match evacuate s2 g w gen with
            | (s3, .word w1) => finishResolve s3 g w1 slot weak
            | r => r
          else finishResolve s2 g w slot weak

/-- The entry through which a slot can be healed: one that the unit's TLB holds, with W = 1 and D = 1; a heal makes no walk and sets no
bit (R163, R253). -/
def healEntry (s : State) (g : Agent) (slot : Nat) : Option TlbEnt :=
  match tlbFind (unitTlb s g.unit).2.1 g.part g.asid slot with
  | some (_, e) => if e.w && e.d && (entGone s (agReq slot .store) e).isNone then some e else none
  | none => none

/-- The compare-and-swap of a heal at a physical address; a heal that comes too late is dropped and counted (R163). A second heal finds
the resolved word in place. -/
def healAt (s : State) (c slot pa : Nat) (old new : Word) : State :=
  let cur := cohRead s pa
  if cur = old then ringHealed (homeWrite s pa new) pa old new
  else if cur = new then s else report s 0x1003 (.context c) [BitVec.ofNat 64 slot]

/-- The heal of a slot of this device (R163). A resolved word equal to the word read needs none. -/
def heal (s : State) (g : Agent) (c slot : Nat) (old new : Word) : State :=
  if old = new then s
  else match healEntry s g slot with
    | some e => if e.typ = 2 ∨ e.typ = 3 then report s 0x1003 (.context c) [BitVec.ofNat 64 slot]
                else healAt s c slot (entPa e slot % 2 ^ 36) old new
    | none => report s 0x1003 (.context c) [BitVec.ofNat 64 slot]

/-- A word needs resolution: a pointer of BARRIER STRONG or WEAK of another colour (R161). -/
def colourMiss (p : Partition) (goodc : Nat) (w : Word) : Bool := barrierOf p w != 0 && ptrColour w != goodc

end Sys2Proof.Machine
end

