-- ==== Sys2Proof/Machine/Entry.lean ====
section
/-!
DEFINITION. Entering the supervisor (R270 to R276), shared by faults, interrupts and SYSCALL gates, and the return
from it (R279, R280); the suspension and reissue of a routine and of a wait at these points (R194, R195, R301).
-/

namespace Sys2Proof.Machine
open Sys2Proof

/-- Latches of the stacks (R114, R268). -/
def pDSsp : Nat := 0x120
def pDSlim : Nat := 0x121
def pRSsp : Nat := 0x122
def pRSlim : Nat := 0x123

/-- The flags as the frame and `UFLAGS` lay them out: T, V, C, N, Z from bit 4 down. -/
def flagsNat (f : Flags) : Nat := b2n f.t * 16 + b2n f.v * 8 + b2n f.c * 4 + b2n f.n * 2 + b2n f.z

def flagsOfNat (n : Nat) : Flags :=
  { z := n % 2 = 1, n := n / 2 % 2 = 1, c := n / 4 % 2 = 1, v := n / 8 % 2 = 1, t := n / 16 % 2 = 1 }

/-! ## The frame (R274) -/

/-- The kinds of entry that push a frame. -/
def kFAULT : Nat := 0
def kINTERRUPT : Nat := 1
def kGATE : Nat := 2

/-- Word 1 of a frame. -/
def frameRepeat : Repeat → W64
  | .none => 0
  | .armed n => flagBit true 17 ||| field n 0
  | .active n => flagBit true 18 ||| field n 0

/-- A transfer word of a frame. -/
def frameXfer (x : Xfer) : W64 := flagBit true 50 ||| field x.dist 48 ||| field x.target 0

/-- The ten words of a frame before sealing, tagged FRAME. -/
def frameBody (x : Ctx) (kind resume : Nat) : List Word :=
  let w0 := field (flagsNat (curBank x).flags) 52 ||| field kind 50 ||| flagBit x.regs.ie 49 ||| flagBit x.priv 48 |||
    field (resume % 2 ^ 48) 0
  let xw (i : Nat) : W64 := match x.xfers[i]? with | some t => frameXfer t | none => 0
  let sdsp := (latchOf x.s pDSsp).pay &&& 0xFFFFFFFFFFFF
  let srsp := (latchOf x.s pRSsp).pay &&& 0xFFFFFFFFFFFF
  [w0, frameRepeat x.rpt, xw 0, xw 1, xw 2, x.regs.cause, x.regs.faddr, x.regs.finfo, sdsp, srsp].map fun p => ⟨tagFRAME, p⟩

/-- The sealed frame at a base address (R275). -/
def frameOf (x : Ctx) (kind resume base : Nat) : List Word :=
  let ws := frameBody x kind resume
  ws.take 9 ++ (ws.drop 9).map fun w => { w with pay := w.pay ||| field (sealOf ws base) 48 }

/-! ## Deliveries made -/

/-- A register that receives what a variable-latency operation has by now (R91): its PENDING or its failed mark. -/
def landValue : DVal → GReg
  | .word w => .word w
  | .flag _ => .word Word.zero
  | .op id => .pending id
  | .failed f op told => .failed f op told

def setFlag (f : Flags) (k : FlagId) (b : Bool) : Flags :=
  match k with
  | .z => { f with z := b }
  | .n => { f with n := b }
  | .c => { f with c := b }
  | .v => { f with v := b }
  | .t => { f with t := b }

/-- One delivery made in a bank and the context's registers. -/
def landOne (x : Ctx) (b : Bank) (d : Delivery) : Ctx × Bank :=
  match d.dest, d.val with
  | .port a, .word w => (x, setLatch b a w)
  | .port _, _ => (x, b)
  | .flag k, .flag v => (x, { b with flags := setFlag b.flags k v })
  | .flag _, _ => (x, b)
  | .greg r, v => (setG x r (landValue v), b)

/-- Every delivery of the current bank whose visibility point is the next packet, made in trigger order (R80 step 1). -/
def deliverDue (x : Ctx) : Ctx :=
  let b := curBank x
  let due := b.inflight.filter fun d => decide (d.vis ≤ b.count + 1)
  let r := due.foldl (fun a d => landOne a.1 a.2 d) (x, { b with inflight := b.inflight.filter fun d => !decide (d.vis ≤ b.count + 1) })
  setCurBank r.1 r.2

/-- The deliveries of a bank in flight, in visibility order and, at one point, in trigger order. -/
def landOrder (b : Bank) : List Delivery :=
  (b.inflight.filter fun d => decide (d.vis ≤ b.count)) ++
    (List.range 16).flatMap fun i => b.inflight.filter fun d => d.vis == b.count + 1 + i

/-- `SY.udrain` (R102): the deliveries of the U bank in flight are all made, in visibility order, its count unchanged.
DESIGN CHOICE (log entry 49): the trigger that a packet within I must not follow (R88) is still the one made before the drain. -/
def drainU (x : Ctx) : Ctx :=
  let r := (landOrder x.u).foldl (fun a d => landOne a.1 a.2 d) (x, { x.u with inflight := [] })
  { r.1 with u := r.2 }

/-- What is in flight in a bank completes and lands with no packet issued (R276, R408). -/
def drainS (x : Ctx) : Ctx :=
  let r := (landOrder x.s).foldl (fun a d => landOne a.1 a.2 d) (x, { x.s with inflight := [] })
  { r.1 with s := r.2 }

/-- The failed words that deliveries overwrite before any read, recorded (R95): x is the context with the deliveries made. -/
def lostFails (s : State) (c : Nat) (x : Ctx) : State :=
  (getCtx s c).g.foldl (fun s e => match e.2 with
    | .failed f _ false => if gOf x e.1 = e.2 then s else report s 0x1001 (.context c) [BitVec.ofNat 64 f.cause]
    | _ => s) s

/-! ## Suspension (R194, R301) -/

/-- A routine in flight suspended at an entry, made or not (R194, R276): under RESTART the record becomes SUSPENDED and the slot
frees within 16 steps; under POLL the record shows YIELDING until the engine reaches its safe point. -/
def suspendRoutine (s : State) (c : Nat) : State :=
  let x := getCtx s c
  match x.slot with
  | some { kind := .routine, .. } =>
    if x.rq.state = 1 then
      let st := if bit (ctxPart s c).rimode 0 then 2 else 3
      setCtx s c { x with rq := { x.rq with state := st }, rqSuspended := true }
    else s
  | _ => s

/-- What an entry that is made suspends: a routine in flight (R194), and a wait outstanding, marked for withdrawal within 16 steps
(R301). -/
def suspendAtEntry (s : State) (c : Nat) : State :=
  let x := getCtx s c
  match x.slot with
  | some { kind := .recv .., .. } => setCtx s c { x with recvEntry := true }
  | _ => suspendRoutine s c

/-! ## Entry -/

/-- What an entry sets (R270). -/
structure EntryInfo where
  kind : Nat
  cause : Nat
  faddr : W64
  finfo : W64
  resume : Nat
  target : Nat
  fresh : Bool := false
deriving DecidableEq, Repr

/-- The base of an entry (R271 step 1). -/
def entryBase (x : Ctx) (e : EntryInfo) : Word :=
  if e.fresh && !x.priv then Word.fix x.regs.sdsbase else latchOf x.s pDSsp

/-- The translation of one frame word, as a store of the context at S. -/
def frameReq (va : Nat) : WalkReq := { va, acc := .store, priv := true, row := .cached }

/-- Why a base is not usable (R272, R276): the REASON, with the translation cause for REASON 4; or the pages that must be
walked first; or the physical addresses of the ten words. -/
inductive BaseRes where
  | bad (reason tcause : Nat)
  | walk (reqs : List WalkReq)
  | good (pas : List (Nat × Nat))
deriving DecidableEq, Repr

/-- The ten words translated in order. -/
def frameXlate (s : State) (c base : Nat) : List Nat → List (Nat × Nat) → List WalkReq → BaseRes
  | [], pas, ws => if ws.isEmpty then .good pas.reverse else .walk ws.reverse
  | i :: is, pas, ws =>
    let req := frameReq (base + i)
    match translate s c req with
    | .ok pa typ _ => frameXlate s c base is ((pa, typ) :: pas) ws
    | .miss => frameXlate s c base is pas (req :: ws)
    | .fault f =>
      if !ws.isEmpty then .walk ws.reverse
      else if f.cause = cPERMISSION ∨ f.cause = cMEM_TYPE ∨ f.cause = cRSTACK_WRITE then .bad 5 0 else .bad 4 f.cause

/-- The check of R272 on a base. -/
def checkBase (s : State) (c : Nat) (base lim : Word) : BaseRes :=
  if base.tag ≠ tagFIX then .bad 0 0
  else if base.pay.toNat > 2 ^ 48 - 10 then .bad 1 0
  else if lim.tag ≠ tagFIX then .bad 2 0
  else if lim.pay.toNat < base.pay.toNat then .bad 3 0
  else frameXlate s c base.pay.toNat (List.range 10) [] []

/-- R276: the entry is not made; the emergency slot takes the frame, the context halts, what it has in flight
lands, and Afterglow and the doorbell record it. -/
def haltEntry (s : State) (c : Nat) (e : EntryInfo) (reason tcause : Nat) : State :=
  let x := getCtx s c
  let base := entryBase x e
  let at' := if base.tag = tagFIX then base.pay.toNat else 0
  let ws := frameOf x e.kind e.resume at' ++
    [Word.fixN e.cause, Word.fix e.faddr, Word.fix e.finfo, base,
     Word.fix (field reason 0 ||| field (if reason = 4 then tcause else 0) 8), Word.fixN s.time]
  let x1 := drainS (drainU x)
  let s1 := setCtx (lostFails s c x1) c { x1 with
    run := .haltedFault, emv := true, em := (List.range 16).zip ws, park := none, walks := [] }
  let s2 := suspendRoutine s1 c
  let s3 := report s2 0x1002 (.context c) [BitVec.ofNat 64 reason, BitVec.ofNat 64 e.cause]
  ringDoorbell s3 (partOf s c) 63

/-- The ten frame words enter the store order as stores of the context (R271 step 3); no card, no log. -/
def pushFrame (s : State) (c base : Nat) (ws : List Word) (pas : List (Nat × Nat)) : State :=
  ((ws.zip pas).zip (List.range 10)).foldl (fun s e =>
    pushStore s (coreOf c) { ctx := c, va := base + e.2, pa := e.1.2.1, typ := e.1.2.2, word := e.1.1 }) s

/-- The registers, the privilege and the program counter of a made entry (R271 steps 4 to 6). -/
def enterRegs (x : Ctx) (e : EntryInfo) (base : Nat) : Ctx :=
  let s1 := setLatch x.s pDSsp (Word.fixN (base + 10))
  let s2 := if e.fresh && !x.priv then setLatch s1 pRSsp (Word.fix x.regs.srsbase) else s1
  { x with
    s := s2, priv := true, pc := e.target, rpt := .none, xfers := [], park := none, hold := .none
    walks := [], walking := false, fetched := none, ahead := none, aemuLevel := if x.regs.aemuV then x.aemuLevel.map (· + 1) else none
    regs := { x.regs with cause := BitVec.ofNat 64 e.cause, faddr := e.faddr, finfo := e.finfo, ie := false } }

/-- Every entry that pushes a frame (R271): parked for a walk of a frame page, not made (R276), or made whole. -/
def takeEntry (s : State) (c : Nat) (e : EntryInfo) : State :=
  let x := getCtx s c
  let base := entryBase x e
  match checkBase s c base (latchOf x.s pDSlim) with
  | .walk (req :: rest) => walkBegin (setCtx s c { x with park := some (.tlb (req :: rest)) }) c req
  | .walk [] => s
  | .bad reason tcause => haltEntry s c e reason tcause
  | .good pas =>
    let b := base.pay.toNat
    let s1 := pushFrame s c b (frameOf x e.kind e.resume b) pas
    let s2 := suspendAtEntry s1 c
    modCtx s2 c fun x => enterRegs x e b

/-- `EVEC` of the context's partition (R270, R288). -/
def evecOf (s : State) (c : Nat) : Nat := bits (ctxPart s c).evec 47 0

/-- Whether the packet at the program counter is a repeated one (R277 REPEAT). -/
def inRepeat (x : Ctx) : Bool := match x.rpt with | .active _ => true | .armed n => n != 0 | .none => false

/-- A 48-bit address register's value. -/
def addr48 (v : W64) : W64 := field (bits v 47 0) 0

/-- A fault entry (R99, R270): the frame's program counter is the faulting packet. -/
def faultEntry (s : State) (c : Nat) (f : FaultRec) : State :=
  let x := getCtx s c
  takeEntry s c
    { kind := kFAULT, cause := f.cause, faddr := addr48 f.faddr, finfo := finfoOf f x.priv (inRepeat x), resume := x.pc
      target := evecOf s c }

/-- An interrupt entry (R270, R286). -/
def interruptEntry (s : State) (c : Nat) : State :=
  let x := getCtx s c
  takeEntry s c
    { kind := kINTERRUPT, cause := cINTERRUPT, faddr := BitVec.ofNat 64 x.pc
      finfo := field (Nat.land x.regs.ipend x.regs.ien) 0, resume := x.pc, target := evecOf s c }

/-! ## Return (R279, R280) -/

/-- What a frame holds once its checks have passed. -/
structure FrameView where
  priv : Bool
  pc : Nat
  ie : Bool
  flags : Flags
  rpt : Repeat
  xfers : List Xfer
  cause : W64
  faddr : W64
  finfo : W64
  sdsp : Nat
  srsp : Nat
deriving DecidableEq, Repr

/-- Payload i of a frame. -/
def fpay (ws : List Word) (i : Nat) : W64 := ((ws[i]?).getD Word.zero).pay

/-- Check 4 of R279: the fields of R274. -/
def frameFieldsOk (ws : List Word) : Bool :=
  let w0 := fpay ws 0
  let w1 := fpay ws 1
  let xferOk (w : W64) : Bool := bits w 63 51 == 0 && (bit w 50 || bits w 49 0 == 0)
  bits w0 63 57 == 0 && bits w0 51 50 != 3 &&
  bits w1 63 19 == 0 && !bit w1 16 && !(bit w1 18 && bit w1 17) &&
  xferOk (fpay ws 2) && xferOk (fpay ws 3) && xferOk (fpay ws 4) && bits (fpay ws 8) 63 48 == 0

/-- The contents of a frame (R280). -/
def frameView (ws : List Word) : FrameView :=
  let w0 := fpay ws 0
  let w1 := fpay ws 1
  let n := bits w1 15 0
  let xf := [fpay ws 2, fpay ws 3, fpay ws 4].filterMap fun w =>
    if bit w 50 then some { target := bits w 47 0, dist := bits w 49 48 } else none
  { priv := bit w0 48, pc := bits w0 47 0, ie := bit w0 49, flags := flagsOfNat (bits w0 56 52)
    rpt := if bit w1 18 then .active n else if bit w1 17 then .armed n else .none
    xfers := xf, cause := fpay ws 5 &&& 0xFF, faddr := addr48 (fpay ws 6), finfo := fpay ws 7
    sdsp := bits (fpay ws 8) 47 0, srsp := bits (fpay ws 9) 47 0 }

/-- The effect of `SY.eret` at the next packet (R280). The packet at the program counter of the frame that the handler which set
`AEMUCTL`.V returns to is the one that V completes (R140): entries above that handler are counted until they return. -/
def eretRegs (x : Ctx) (v : FrameView) : Ctx :=
  let s1 := setLatch (setLatch x.s pDSsp (Word.fixN v.sdsp)) pRSsp (Word.fixN v.srsp)
  let mine := x.regs.aemuV && x.aemuLevel == some 0
  let x1 := { x with
    s := s1, priv := v.priv, pc := v.pc, rpt := v.rpt, xfers := v.xfers, fetched := none, ahead := none
    aemuPc := if mine then some (v.pc, v.priv) else x.aemuPc
    aemuLevel := if mine then none else x.aemuLevel.map (· - 1)
    regs := { x.regs with ie := v.ie, cause := v.cause, faddr := v.faddr, finfo := v.finfo } }
  modCurBank x1 fun b => { b with flags := v.flags }

end Sys2Proof.Machine
end

