-- ==== Sys2Proof/Machine/Numeric.lean ====
section
/-!
DEFINITION. Numbers: exact rationals, IEEE 754 binary64 with round-to-nearest-even (R121, R124), and the
conversions between FIX, FLO and exact values.
-/

namespace Sys2Proof.Machine
open Sys2Proof

/-- The signed value of a FIX payload. -/
def fixVal (v : W64) : Int := v.toInt

/-- Whether an integer lies in the FIX range. -/
def inFix (n : Int) : Bool := decide (-(2 ^ 63 : Int) ≤ n) && decide (n < (2 ^ 63 : Int))

/-- A FIX payload from an integer, modulo 2^64. -/
def fixPay (n : Int) : W64 := BitVec.ofInt 64 n

/-- An exact rational; `den` is positive in every value the model makes. -/
structure Q where
  num : Int
  den : Nat
deriving DecidableEq, Repr

/-- An integer as a rational. -/
def Q.ofInt (n : Int) : Q := ⟨n, 1⟩

def Q.add (a b : Q) : Q := ⟨a.num * b.den + b.num * a.den, a.den * b.den⟩
def Q.neg (a : Q) : Q := ⟨-a.num, a.den⟩
def Q.sub (a b : Q) : Q := a.add b.neg
def Q.mul (a b : Q) : Q := ⟨a.num * b.num, a.den * b.den⟩

/-- a / b for b not zero. -/
def Q.div (a b : Q) : Q :=
  if b.num < 0 then ⟨-(a.num * b.den), a.den * b.num.natAbs⟩ else ⟨a.num * b.den, a.den * b.num.natAbs⟩

/-- -1, 0 or 1 as a is below, equal to or above b. -/
def Q.cmp (a b : Q) : Int :=
  let l := a.num * b.den
  let r := b.num * a.den
  if l < r then -1 else if l = r then 0 else 1

/-- Lowest terms with a positive denominator (R120). -/
def Q.norm (a : Q) : Q :=
  let g := Nat.gcd a.num.natAbs a.den
  if g = 0 then a else ⟨a.num / g, a.den / g⟩

/-- Truncation toward zero. -/
def Q.trunc (a : Q) : Int := a.num.tdiv a.den

/-- What a binary64 encoding holds. -/
inductive FVal where
  | nan
  | inf (neg : Bool)
  | fin (neg : Bool) (mag : Q)
deriving DecidableEq, Repr

/-- The value of a binary64 encoding. -/
def floDecode (w : W64) : FVal :=
  let neg := bit w 63
  let e := bits w 62 52
  let m := bits w 51 0
  if e = 2047 then (if m = 0 then .inf neg else .nan)
  else
    let m' := if e = 0 then m else m + 2 ^ 52
    let e' := if e = 0 then 1 else e
    if e' ≥ 1075 then .fin neg ⟨((m' * 2 ^ (e' - 1075) : Nat) : Int), 1⟩
    else .fin neg ⟨(m' : Int), 2 ^ (1075 - e')⟩

/-- The signed exact value of a finite encoding; 0 for the others. -/
def FVal.q : FVal → Q
  | .fin neg mag => if neg then mag.neg else mag
  | _ => ⟨0, 1⟩

/-- The sign bit of an encoding. -/
def floSign (w : W64) : Bool := bit w 63

/-- ±∞ and ±0. -/
def floInf (neg : Bool) : W64 := if neg then 0xFFF0000000000000 else 0x7FF0000000000000
def floZero (neg : Bool) : W64 := if neg then 0x8000000000000000 else 0

/-- A NaN, whose sign and remaining payload are free (R121). -/
def floNaN (op : Nat) (a b c : W64) : W64 := Config.nanPayload op a b c ||| 0x7FF8000000000000

/-- The nearest binary64, ties to even, to the positive rational n/d. -/
def roundMag (n d : Nat) : Nat :=
  -- e estimates floor(log2 (n/d)) within one; the quotient is formed at 53 or 54 bits and corrected
  let e0 : Int := (Nat.log2 n : Int) - (Nat.log2 d : Int)
  let ge (e : Int) : Bool := if e ≥ 0 then decide (d * 2 ^ e.toNat ≤ n) else decide (d ≤ n * 2 ^ (-e).toNat)
  let e : Int := if ge e0 then e0 else e0 - 1
  let lsb : Int := max (e - 52) (-1074)
  let num := if lsb ≥ 0 then n else n * 2 ^ (-lsb).toNat
  let den := if lsb ≥ 0 then d * 2 ^ lsb.toNat else d
  let q := num / den
  let r := num % den
  let q' := if 2 * r > den then q + 1 else if 2 * r = den then q + q % 2 else q
  -- the encoding of q' at exponent lsb: adding q' to the biased exponent field carries a full significand upward
  let biased := if q' < 2 ^ 52 then q' else (lsb + 1074).toNat * 2 ^ 52 + q'
  if biased ≥ 2047 * 2 ^ 52 then 2047 * 2 ^ 52 else biased

/-- The nearest binary64 to a rational; `negZero` is the sign of an exact zero (R121, R124). -/
def floOfQ (negZero : Bool) (a : Q) : W64 :=
  if a.num = 0 then floZero negZero
  else BitVec.ofNat 64 (roundMag a.num.natAbs a.den) ||| (if a.num < 0 then 0x8000000000000000 else 0)

/-- FIX to FLO, rounded to nearest even (R121). -/
def floOfFix (v : W64) : W64 := floOfQ false (Q.ofInt (fixVal v))

/-- The tests on an encoding. -/
def floIsNaN (w : W64) : Bool := floDecode w == .nan
def floIsInf (w : W64) : Bool := bits w 62 0 == 0x7FF0000000000000
def floIsZero (w : W64) : Bool := bits w 62 0 == 0
def floNegate (w : W64) : W64 := w ^^^ 0x8000000000000000

/-- IEEE addition. -/
def floAdd (a b : W64) : W64 :=
  match floDecode a, floDecode b with
  | .nan, _ => floNaN 0 a b 0
  | _, .nan => floNaN 0 a b 0
  | .inf x, .inf y => if x = y then floInf x else floNaN 0 a b 0
  | .inf x, _ => floInf x
  | _, .inf y => floInf y
  | .fin x p, .fin y q => floOfQ (x && y) ((FVal.fin x p).q.add (FVal.fin y q).q)

/-- IEEE subtraction. -/
def floSub (a b : W64) : W64 := if floIsNaN b then floNaN 1 a b 0 else floAdd a (floNegate b)

/-- IEEE multiplication. -/
def floMul (a b : W64) : W64 :=
  match floDecode a, floDecode b with
  | .nan, _ => floNaN 2 a b 0
  | _, .nan => floNaN 2 a b 0
  | .inf x, .inf y => floInf (x != y)
  | .inf x, .fin y q => if q.num = 0 then floNaN 2 a b 0 else floInf (x != y)
  | .fin x p, .inf y => if p.num = 0 then floNaN 2 a b 0 else floInf (x != y)
  | .fin x p, .fin y q => floOfQ (x != y) ((FVal.fin x p).q.mul (FVal.fin y q).q)

/-- IEEE division. -/
def floDiv (a b : W64) : W64 :=
  match floDecode a, floDecode b with
  | .nan, _ => floNaN 3 a b 0
  | _, .nan => floNaN 3 a b 0
  | .inf _, .inf _ => floNaN 3 a b 0
  | .inf x, .fin y _ => floInf (x != y)
  | .fin x _, .inf y => floZero (x != y)
  | .fin x p, .fin y q =>
    if q.num = 0 then (if p.num = 0 then floNaN 3 a b 0 else floInf (x != y))
    else floOfQ (x != y) ((FVal.fin x p).q.div (FVal.fin y q).q)

/-- a × b + c with one rounding (R124). -/
def floFma (a b c : W64) : W64 :=
  match floDecode a, floDecode b, floDecode c with
  | .fin x p, .fin y q, .fin z r =>
    floOfQ ((x != y) && z) (((FVal.fin x p).q.mul (FVal.fin y q).q).add (FVal.fin z r).q)
  | .fin _ _, .fin _ _, .inf z => floInf z
  | fa, fb, fc =>
    if fa = .nan ∨ fb = .nan ∨ fc = .nan then floNaN 4 a b c
    else
      let p := floMul a b
      if floIsNaN p then floNaN 4 a b c
      else match floDecode p, fc with
        | .inf x, .inf z => if x = z then floInf x else floNaN 4 a b c
        | .inf x, _ => floInf x
        | _, _ => floNaN 4 a b c

/-- a × b − c with one rounding (R124). -/
def floFms (a b c : W64) : W64 := if floIsNaN c then floNaN 5 a b c else floFma a b (floNegate c)

/-- A number that takes part in a comparison: exact, infinite or not a number. -/
inductive NVal where
  | nan
  | inf (neg : Bool)
  | ex (q : Q)
deriving DecidableEq, Repr

def NVal.ofFlo (w : W64) : NVal :=
  match floDecode w with
  | .nan => .nan
  | .inf n => .inf n
  | .fin n m => .ex (FVal.fin n m).q

/-- -1, 0, 1 for an ordered pair and 2 when either is a NaN (R121). -/
def NVal.cmp : NVal → NVal → Int
  | .nan, _ => 2
  | _, .nan => 2
  | .inf x, .inf y => if x = y then 0 else if x then -1 else 1
  | .inf x, .ex _ => if x then -1 else 1
  | .ex _, .inf y => if y then 1 else -1
  | .ex a, .ex b => a.cmp b

end Sys2Proof.Machine
end

