-- ==== Sys2Proof/Machine/Flags.lean ====
section
/-!
DEFINITION. The computations of `AL` (R117, R118), `GA` (R119 to R123), `FM` (R124) and `TG` (R125): results and
every flag.
-/

namespace Sys2Proof.Machine
open Sys2Proof

/-- The flags that an operation delivers: one list entry for each flag it sets (R87). -/
abbrev FlagSet := List (FlagId × Bool)

def allFlags (z n c v t : Bool) : FlagSet := [(.z, z), (.n, n), (.c, c), (.v, v), (.t, t)]

/-! ## AL -/

/-- The triggers of `AL`. -/
inductive AlOp where
  | add | sub | cmp | and | or | xor | shl | shr | sar
deriving DecidableEq, Repr

/-- What an operation delivers: a word for its result port, if any, and its flags. -/
structure UnitOut where
  res : Option Word
  flags : FlagSet
deriving DecidableEq, Repr

def zOf (r : W64) : Bool := r == 0
def nOf (r : W64) : Bool := bit r 63

/-- Carry out of bit 63 of an addition, and signed overflow. -/
def addCarry (a b : W64) : Bool := decide (2 ^ 64 ≤ a.toNat + b.toNat)
def addOverflow (a b : W64) : Bool := !inFix (fixVal a + fixVal b)

/-- 1 when a ≥ b unsigned, and signed overflow of a − b. -/
def subCarry (a b : W64) : Bool := decide (b.toNat ≤ a.toNat)
def subOverflow (a b : W64) : Bool := !inFix (fixVal a - fixVal b)

/-- The result of an `AL` operation on FIX payloads (R117). -/
def alResult (op : AlOp) (a b : W64) : W64 :=
  let k := bits b 5 0
  match op with
  | .add => a + b
  | .sub | .cmp => a - b
  | .and => a &&& b
  | .or => a ||| b
  | .xor => a ^^^ b
  | .shl => a <<< k
  | .shr => a >>> k
  | .sar => a.sshiftRight k

/-- The carry flag of an `AL` operation (R117): for shifts the last bit shifted out, 0 when k = 0. -/
def alCarry (op : AlOp) (a b : W64) : Bool :=
  let k := bits b 5 0
  match op with
  | .add => addCarry a b
  | .sub | .cmp => subCarry a b
  | .and | .or | .xor => false
  | .shl => k != 0 && bit a (64 - k)
  | .shr | .sar => k != 0 && bit a (k - 1)

/-- The overflow flag of an `AL` operation (R117). -/
def alOverflow (op : AlOp) (a b : W64) : Bool :=
  match op with
  | .add => addOverflow a b
  | .sub | .cmp => subOverflow a b
  | _ => false

/-- An `AL` operation (R117, R118): on FIX operands the result and all five flags with T = 0; otherwise T = 1 alone and
the word in `AL.a`. `AL.cmp` delivers no result on FIX operands. -/
def alOp (op : AlOp) (a b : Word) : UnitOut :=
  if a.tag = tagFIX ∧ b.tag = tagFIX then
    let r := alResult op a.pay b.pay
    { res := if op = .cmp then none else some (Word.fix r)
      flags := allFlags (zOf r) (nOf r) (alCarry op a.pay b.pay) (alOverflow op a.pay b.pay) false }
  else { res := some a, flags := [(.t, true)] }

/-! ## GA -/

/-- The triggers of `GA`, numbered as GAOP numbers them (R139). -/
inductive GaOp where
  | add | sub | mul | div | quo | rem | cmp | flo | int
deriving DecidableEq, Repr

def GaOp.code : GaOp → Nat
  | .add => 0 | .sub => 1 | .mul => 2 | .div => 3 | .quo => 4 | .rem => 5 | .cmp => 6 | .flo => 7 | .int => 8

def GaOp.unary : GaOp → Bool
  | .flo | .int => true
  | _ => false

/-- The latency of a hardware or routine path (R115): add, sub and cmp are 1 in a pairing without FLO and 2 with one. -/
def GaOp.latency (op : GaOp) (flo : Bool) : Nat :=
  match op with
  | .add | .sub | .cmp => if flo then 2 else 1
  | .mul => 3
  | .div | .quo | .rem => 12
  | .flo | .int => 2

/-- The initiation interval (R115). -/
def GaOp.interval : GaOp → Nat
  | .div | .quo | .rem => 12
  | _ => 1

/-- What a `GA` operation decides at its trigger: a fault cause, a hardware result, the SOFT path, or the routine path
(R120, R121); with the latency and the flags. -/
inductive GaOut where
  | fault (cause : Nat)
  | done (res : Word) (lat : Nat) (flags : FlagSet)
  | routine (lat : Nat) (flags : FlagSet)
deriving DecidableEq, Repr

/-- The ARITH field of an operand (R120). -/
def arithOf (p : Partition) (w : Word) : Nat := tdtArith (tdtOf p w.tag)

/-- Flags of a hardware FIX result (R122). -/
def fixFlags (op : GaOp) (a b r : W64) : FlagSet :=
  let c := match op with | .add => addCarry a b | .sub => subCarry a b | _ => false
  allFlags (zOf r) (nOf r) c false false

/-- Flags of a hardware FIX operation that overflows (R122): V = 1 and N the sign of the true result. -/
def overFlags (op : GaOp) (a b : W64) (true' : Int) : FlagSet :=
  let c := match op with | .add => addCarry a b | .sub => subCarry a b | _ => false
  allFlags false (decide (true' < 0)) c true false

/-- Flags of a hardware FLO result (R122). -/
def floFlags (r : W64) (finiteIn : Bool) : FlagSet :=
  allFlags (floIsZero r) (floSign r && !floIsNaN r) (floIsNaN r) (floIsInf r && finiteIn) false

/-- The routine path leaves Z, N, C and V unchanged and clears T (R122). -/
def routineFlags : FlagSet := [(.t, false)]

/-- The FLO value of a FIX or FLO operand (R121). -/
def asFlo (w : Word) : W64 := if w.tag = tagFIX then floOfFix w.pay else w.pay

def floFinite (w : W64) : Bool := !floIsNaN w && !floIsInf w

/-- The exact value of a FIX or FLO operand for a comparison (R121). -/
def asNVal (w : Word) : NVal := if w.tag = tagFIX then .ex (Q.ofInt (fixVal w.pay)) else NVal.ofFlo w.pay

/-- The FIX pairing of the binary operations (R121). -/
def gaFix (op : GaOp) (a b : W64) : GaOut :=
  let lat := op.latency false
  let exact (n : Int) : GaOut :=
    if inFix n then .done (Word.fix (fixPay n)) lat (fixFlags op a b (fixPay n)) else .routine lat (overFlags op a b n)
  match op with
  | .add => exact (fixVal a + fixVal b)
  | .sub => exact (fixVal a - fixVal b)
  | .mul => exact (fixVal a * fixVal b)
  | .div =>
    if b = 0 then .fault cDIV_ZERO
    else if fixVal a % fixVal b = 0 then exact ((fixVal a).tdiv (fixVal b))
    else .routine lat routineFlags
  | .quo => if b = 0 then .fault cDIV_ZERO else exact ((fixVal a).tdiv (fixVal b))
  | .rem => if b = 0 then .fault cDIV_ZERO else exact ((fixVal a).tmod (fixVal b))
  | _ => .routine lat routineFlags

/-- The FLO pairings of the binary operations, a FIX operand converted first (R121). -/
def gaFlo (op : GaOp) (a b : W64) : GaOut :=
  let r := match op with
    | .add => floAdd a b
    | .sub => floSub a b
    | .mul => floMul a b
    | _ => floDiv a b
  .done (Word.flo r) (op.latency true) (floFlags r (floFinite a && floFinite b))

/-- The hardware comparison of FIX and FLO operands (R121, R122). -/
def gaCmp (a b : Word) : GaOut :=
  let c := (asNVal a).cmp (asNVal b)
  let flo := a.tag == tagFLO || b.tag == tagFLO
  .done (Word.fix (fixPay c)) (GaOp.latency .cmp flo)
    (allFlags (decide (c = 0)) (decide (c = -1)) (decide (c = 2)) false false)

/-- A binary `GA` operation on operands of ARITH 1 to 4 (R121). -/
def gaBinary (op : GaOp) (ka kb : Nat) (a b : Word) : GaOut :=
  let flo := ka == 2 || kb == 2
  let fixZero := kb == 1 && b.pay == 0
  match op with
  | .cmp =>
    if (ka = 1 ∨ ka = 2) ∧ (kb = 1 ∨ kb = 2) then gaCmp a b else .routine (op.latency false) routineFlags
  | .quo | .rem =>
    if flo ∨ ka = 4 ∨ kb = 4 then .fault cARITH_TYPE
    else if fixZero then .fault cDIV_ZERO
    else if ka = 1 ∧ kb = 1 then gaFix op a.pay b.pay
    else .routine (op.latency false) routineFlags
  | _ =>
    if op = .div ∧ fixZero then .fault cDIV_ZERO
    else if ka = 1 ∧ kb = 1 then gaFix op a.pay b.pay
    else if (ka = 1 ∨ ka = 2) ∧ (kb = 1 ∨ kb = 2) then gaFlo op (asFlo a) (asFlo b)
    else .routine (op.latency false) routineFlags

/-- `GA.flo` and `GA.int` on an operand of ARITH 1 to 4 (R121). -/
def gaUnary (op : GaOp) (k : Nat) (b : Word) : GaOut :=
  let lat := op.latency (k == 2)
  match op, k with
  | .flo, 1 => let r := floOfFix b.pay; .done (Word.flo r) lat (floFlags r true)
  | .flo, 2 => .done b lat (floFlags b.pay (floFinite b.pay))
  | .int, 1 => .done b lat (fixFlags .int 0 0 b.pay)
  | .int, 2 =>
    match floDecode b.pay with
    | .fin n m =>
      let t := (FVal.fin n m).q.trunc
      if inFix t then .done (Word.fix (fixPay t)) lat (fixFlags .int 0 0 (fixPay t)) else .routine lat routineFlags
    | _ => .fault cARITH_RANGE
  | .int, 3 => .done b lat routineFlags
  | _, _ => .routine lat routineFlags

/-- A `GA` operation (R120): NONE faults, SOFT passes the first SOFT operand with T = 1, otherwise the dispatch
tables. -/
def gaOp (p : Partition) (op : GaOp) (a b : Word) : GaOut :=
  let kb := arithOf p b
  let ka := if op.unary then 1 else arithOf p a
  if ka = 0 ∨ kb = 0 then .fault cARITH_TYPE
  else if ka = 5 then .done a (op.latency false) [(.t, true)]
  else if kb = 5 then .done b (op.latency false) [(.t, true)]
  else if op.unary then gaUnary op kb b
  else gaBinary op ka kb a b

/-! ## TG -/

/-- The triggers of `TG`. -/
inductive TgOp where
  | tag | set | test | pay | eq | same
deriving DecidableEq, Repr

/-- What a `TG` trigger delivers from its operand, `TG.t` and `TG.x` (R125). -/
def tgOp (p : Partition) (op : TgOp) (b t x : Word) : UnitOut :=
  match op with
  | .tag => { res := some (Word.fixN b.tag.toNat), flags := [] }
  | .pay => { res := some (Word.fix b.pay), flags := [] }
  | .set => { res := some ⟨BitVec.ofNat 8 t.pay.toNat, b.pay⟩, flags := [] }
  | .test =>
    let r := t.pay.toNat == b.tag.toNat
    { res := some (Word.log r), flags := [(.t, r)] }
  | .eq =>
    let r := equalRule p x b
    { res := some (Word.log r), flags := [(.t, r)] }
  | .same =>
    let r := decide (x = b)
    { res := some (Word.log r), flags := [(.t, r)] }

end Sys2Proof.Machine
end

