-- ==== Sys2Proof/Machine/Packet.lean ====
section
/-!
DEFINITION. Packets (R68 to R75): templates, move formats, their decoder and encoder, guards (R76), and the port map
(R114).
-/

namespace Sys2Proof.Machine
open Sys2Proof

/-- A short move (R71). -/
structure ShortMove where
  dest : BitVec 7
  imm : Bool
  src : BitVec 7
deriving DecidableEq, Repr

/-- A long move (R72). -/
structure LongMove where
  guard : BitVec 4
  dest : BitVec 10
  sel : BitVec 2
  src : BitVec 14
deriving DecidableEq, Repr

/-- A wide move (R73). -/
structure WideMove where
  dest : BitVec 10
  tag : BitVec 8
  pay : BitVec 42
deriving DecidableEq, Repr

/-- A packet, by its template (R70). -/
inductive Packet where
  | t0 (a b c d : ShortMove)
  | t1 (a b : ShortMove) (c : LongMove)
  | t2 (a : LongMove) (b c : ShortMove)
  | t3 (a b : LongMove)
  | t4 (a : WideMove)
deriving DecidableEq, Repr

def shortOfBits (v : BitVec 15) : ShortMove :=
  { dest := v.extractLsb' 8 7, imm := v.getLsbD 7, src := v.extractLsb' 0 7 }

def longOfBits (v : BitVec 30) : LongMove :=
  { guard := v.extractLsb' 26 4, dest := v.extractLsb' 16 10, sel := v.extractLsb' 14 2, src := v.extractLsb' 0 14 }

def wideOfBits (v : BitVec 60) : WideMove :=
  { dest := v.extractLsb' 50 10, tag := v.extractLsb' 42 8, pay := v.extractLsb' 0 42 }

/-- The packet that a payload encodes; templates 5 to 15 are reserved (R70). -/
def decodePacket (w : W64) : Option Packet :=
  match bits w 63 60 with
  | 0 => some (.t0 (shortOfBits (w.extractLsb' 45 15)) (shortOfBits (w.extractLsb' 30 15))
      (shortOfBits (w.extractLsb' 15 15)) (shortOfBits (w.extractLsb' 0 15)))
  | 1 => some (.t1 (shortOfBits (w.extractLsb' 45 15)) (shortOfBits (w.extractLsb' 30 15)) (longOfBits (w.extractLsb' 0 30)))
  | 2 => some (.t2 (longOfBits (w.extractLsb' 30 30)) (shortOfBits (w.extractLsb' 15 15)) (shortOfBits (w.extractLsb' 0 15)))
  | 3 => some (.t3 (longOfBits (w.extractLsb' 30 30)) (longOfBits (w.extractLsb' 0 30)))
  | 4 => some (.t4 (wideOfBits (w.extractLsb' 0 60)))
  | _ => none

def shortBits (m : ShortMove) : BitVec 15 := m.dest ++ (BitVec.ofBool m.imm ++ m.src)
def longBits (m : LongMove) : BitVec 30 := m.guard ++ (m.dest ++ (m.sel ++ m.src))
def wideBits (m : WideMove) : BitVec 60 := m.dest ++ (m.tag ++ m.pay)

/-- The payload of a packet, written from the tables of R70 to R73. -/
def encodePacket : Packet → W64
  | .t0 a b c d => 0#4 ++ (shortBits a ++ (shortBits b ++ (shortBits c ++ shortBits d)))
  | .t1 a b c => 1#4 ++ (shortBits a ++ (shortBits b ++ longBits c))
  | .t2 a b c => 2#4 ++ (longBits a ++ (shortBits b ++ shortBits c))
  | .t3 a b => 3#4 ++ (longBits a ++ longBits b)
  | .t4 a => 4#4 ++ wideBits a

/-- The source of a move: a port, a FIX immediate, which no creation check meets, or a created word (R74). -/
inductive MoveSrc where
  | port (a : Nat)
  | imm (w : Word)
  | make (w : Word)
deriving DecidableEq, Repr

/-- A move of a packet: its slot, guard, destination, and source, or the EXT of the malformed slot (R72, R76, R278). -/
structure Move where
  slot : Nat
  guard : Nat
  dest : Nat
  src : MoveSrc
  bad : Option Nat := none
deriving DecidableEq, Repr

/-- A FIX word of a sign-extended immediate. -/
def immWord {n : Nat} (v : BitVec n) : Word := Word.fix (v.signExtend 64)

def moveOfShort (slot : Nat) (m : ShortMove) : Move :=
  { slot, guard := 0, dest := m.dest.toNat, src := if m.imm then .imm (immWord m.src) else .port m.src.toNat }

def moveOfLong (slot : Nat) (m : LongMove) : Move :=
  let src : MoveSrc := match m.sel.toNat with
    | 0 => .port (m.src.toNat % 1024)
    | 1 => .imm (immWord m.src)
    | _ => .make ⟨m.src.extractLsb' 6 8, (m.src.extractLsb' 0 6).zeroExtend 64⟩
  let bad := if m.sel = 3 then some 0 else if m.sel = 0 ∧ m.src.toNat / 1024 ≠ 0 then some 1
    else if m.guard = 15 then some 2 else none
  { slot, guard := m.guard.toNat, dest := m.dest.toNat, src, bad }

def moveOfWide (m : WideMove) : Move :=
  { slot := 0, guard := 0, dest := m.dest.toNat, src := .make ⟨m.tag, m.pay.signExtend 64⟩ }

/-- The moves of a packet in move order (R70). -/
def packetMoves : Packet → List Move
  | .t0 a b c d => [moveOfShort 0 a, moveOfShort 1 b, moveOfShort 2 c, moveOfShort 3 d]
  | .t1 a b c => [moveOfShort 0 a, moveOfShort 1 b, moveOfLong 2 c]
  | .t2 a b c => [moveOfLong 0 a, moveOfShort 1 b, moveOfShort 2 c]
  | .t3 a b => [moveOfLong 0 a, moveOfLong 1 b]
  | .t4 a => [moveOfWide a]

/-- A guard tested on flags (R76). -/
def guardPasses (g : Nat) (f : Flags) : Bool :=
  match g with
  | 0 => true
  | 1 => f.z
  | 2 => !f.z
  | 3 => f.n
  | 4 => !f.n
  | 5 => f.c
  | 6 => !f.c
  | 7 => f.v
  | 8 => !f.v
  | 9 => f.n != f.v
  | 10 => f.n == f.v
  | 11 => f.z || f.n != f.v
  | 12 => !f.z && f.n == f.v
  | 13 => f.t
  | 14 => !f.t
  | _ => false

/-- The flags that a guard tests. -/
def guardFlags (g : Nat) : List FlagId :=
  match g with
  | 1 | 2 => [.z]
  | 3 | 4 => [.n]
  | 5 | 6 => [.c]
  | 7 | 8 => [.v]
  | 9 | 10 => [.n, .v]
  | 11 | 12 => [.z, .n, .v]
  | 13 | 14 => [.t]
  | _ => []

/-! ## The port map (R110, R113, R114) -/

inductive PortKind where
  | null | latch | trigger | result | greg | reserved
deriving DecidableEq, Repr

/-- Units with trigger ports, numbered. -/
def uAL : Nat := 1
def uGA : Nat := 2
def uFM : Nat := 3
def uTG : Nat := 4
def uLS : Nat := 5
def uAU : Nat := 6
def uPC : Nat := 7
def uDS : Nat := 8
def uRS : Nat := 9
def uMQ : Nat := 10
def uRT : Nat := 11
def uRPT : Nat := 12
def uST : Nat := 13
def uSY : Nat := 14

/-- A port: kind, operand kind, owning unit, and whether reading or writing it needs S. -/
structure Port where
  kind : PortKind
  op : OperandKind := .interp
  unit : Nat := 0
  readS : Bool := false
  writeS : Bool := false
deriving DecidableEq, Repr

def pL (op : OperandKind) (u : Nat) : Port := { kind := .latch, op, unit := u }
def pT (op : OperandKind) (u : Nat) : Port := { kind := .trigger, op, unit := u }
def pR (u : Nat) : Port := { kind := .result, op := .carry, unit := u }

/-- The port at a long address (R114). -/
def portAt (a : Nat) : Port :=
  match a with
  | 0x00 => { kind := .null, op := .carry }
  | 0x01 => pL .interp uAL
  | 0x02 => pT .interp uAL
  | 0x03 => pT .interp uAL
  | 0x04 => pT .interp uAL
  | 0x05 => pT .interp uAL
  | 0x06 => pT .interp uAL
  | 0x07 => pT .interp uAL
  | 0x08 => pT .interp uAL
  | 0x09 => pT .interp uAL
  | 0x0A => pT .interp uAL
  | 0x0B => pR uAL
  | 0x0C => pL .interp uGA
  | 0x0D => pL .interp uGA
  | 0x0E => pT .interp uGA
  | 0x0F => pT .interp uGA
  | 0x10 => pT .interp uGA
  | 0x11 => pT .interp uGA
  | 0x12 => pR uGA
  | 0x13 => pL .interp uFM
  | 0x14 => pL .interp uFM
  | 0x15 => pT .interp uFM
  | 0x16 => pR uFM
  | 0x17 => pL .interp uTG
  | 0x18 => pT .carry uTG
  | 0x19 => pT .carry uTG
  | 0x1A => pT .carry uTG
  | 0x1B => pR uTG
  | 0x1C => pL .interp uLS
  | 0x1D => pL .interp uLS
  | 0x1E => pL .carry uLS
  | 0x1F => pT .deref uLS
  | 0x20 => pT .deref uLS
  | 0x21 => pT .deref uLS
  | 0x22 => pT .deref uLS
  | 0x23 => pT .deref uLS
  | 0x24 => pT .deref uLS
  | 0x25 => pL .interp uAU
  | 0x26 => pL .carry uAU
  | 0x27 => pT .interp uAU
  | 0x28 => pT .carry uAU
  | 0x29 => pR uAU
  | 0x2A => pT .interp uPC
  | 0x2B => pT .interp uPC
  | 0x2C => pT .interp uPC
  | 0x2D => pT .carry uPC
  | 0x2E => pT .carry uPC
  | 0x2F => pT .carry uDS
  | 0x30 => pT .interp uDS
  | 0x31 => pT .interp uMQ
  | 0x32 => pT .interp uMQ
  | 0x33 => pR uMQ
  | 0x34 => pT .interp uRPT
  | 0x35 => pT .carry uRPT
  | 0x36 => pT .carry uST
  | 0x37 => pT .deref uLS
  | 0x38 => pL .carry uLS
  | 0x080 => pT .interp uGA
  | 0x081 => pT .interp uGA
  | 0x082 => pT .interp uGA
  | 0x083 => pT .interp uGA
  | 0x084 => pT .interp uGA
  | 0x0A0 => pT .interp uFM
  | 0x0A1 => pT .carry uTG
  | 0x0A2 => pL .carry uTG
  | 0x0A3 => pT .carry uTG
  | 0x0A4 => pT .carry uTG
  | 0x0A5 => pL .interp uTG
  | 0x0C0 => pT .deref uLS
  | 0x0C1 => pT .interp uLS
  | 0x0E0 => pL .interp uAU
  | 0x100 => pR uPC
  | 0x120 => pL .interp uDS
  | 0x121 => { pL .interp uDS with writeS := true }
  | 0x122 => { pL .interp uRS with writeS := true }
  | 0x123 => { pL .interp uRS with writeS := true }
  | 0x124 => pR uRS
  | 0x125 => pT .interp uRS
  | 0x126 => { pT .carry uRS with readS := true, writeS := true }
  | 0x140 => pL .interp uMQ
  | 0x141 => pL .interp uMQ
  | 0x142 => pL .interp uMQ
  | 0x143 => pT .interp uMQ
  | 0x160 => pL .carry uRT
  | 0x161 => pL .carry uRT
  | 0x162 => pL .carry uRT
  | 0x163 => pL .interp uRT
  | 0x164 => pT .interp uRT
  | 0x180 => pR uRPT
  | 0x181 => pL .interp uST
  | 0x182 => pT .carry uST
  | 0x183 => pT .carry uST
  | 0x184 => pR uST
  | 0x1A0 => pT .interp uSY
  | 0x1A1 => { pT .carry uSY with readS := true, writeS := true }
  | 0x1A2 => { pL .interp uSY with readS := true, writeS := true }
  | 0x1A3 => { pT .carry uSY with readS := true, writeS := true }
  | 0x1A4 => { pT .carry uSY with readS := true, writeS := true }
  | 0x1A5 => { pR uSY with readS := true, writeS := true }
  | 0x1A6 => { pT .interp uSY with readS := true, writeS := true }
  | 0x1A7 => { pT .carry uSY with readS := true, writeS := true }
  | 0x1A8 => { pT .carry uSY with readS := true, writeS := true }
  | 0x1A9 => pT .carry uSY
  | 0x1AA => pR uSY
  | 0x1AB => pR uSY
  | _ => if 0x40 ≤ a ∧ a < 0x80 then { kind := .greg, op := .carry } else { kind := .reserved, op := .carry }

/-- R75 and R113 on a source: the cause, if any. -/
def sourceFault (a : Nat) (priv : Bool) : Option Nat :=
  let p := portAt a
  match p.kind with
  | .reserved => some cRESERVED_PORT
  | .trigger => if p.readS && !priv then some cPRIVILEGED else some cRESERVED_PORT
  | _ => if p.readS && !priv then some cPRIVILEGED else none

/-- R75 and R113 on a destination: the cause, if any. -/
def destFault (a : Nat) (priv : Bool) : Option Nat :=
  let p := portAt a
  match p.kind with
  | .reserved => some cRESERVED_PORT
  | .result => if p.readS && !priv then some cPRIVILEGED else some cRESERVED_PORT
  | _ => if p.writeS && !priv then some cPRIVILEGED else none

/-- `SY.id` (R136). -/
def syId (dev part ctx : Nat) : W64 := field ctx 0 ||| field dev 14 ||| field part 18

end Sys2Proof.Machine
end

