-- ==== Sys2Proof/Machine/Units.lean ====
section
/-!
DEFINITION. How a trigger is checked and committed (R78 orders 7 to 9, R80, R85 to R91), and the units `AL`, `GA`,
`FM`, `TG`, `LS`, `AU`, `PC`, `DS` and `RS`.
-/

namespace Sys2Proof.Machine
open Sys2Proof

/-! ## Outcomes of an examination -/

/-- What stops a packet before its commit (R78): a fault, ABSENT_UNIT with its operands (R140), a park, or a refusal
that starts an evacuation (R148). `late` is a fault that order 8 meets (R507), `failed` the read of a failed mark (R95), and `argument`
the park of order 7 for a gate's PENDING arguments (R282). -/
inductive Stop where
  | fault (f : FaultRec)
  | late (f : FaultRec)
  | failed (reg : Nat) (f : FaultRec)
  | argument (regs : List Nat)
  | absent (f : FaultRec) (ops : List Word)
  | park (p : Park)
  | evac (w : Word) (gen : Nat)
  | far (w : Word) (pa : Nat)
deriving DecidableEq, Repr

abbrev Chk (α : Type) := Except Stop α

/-- What a move does at commit; whether it takes the miss slot (R90), whether it acts once the program counter has moved
on (R89: `SY.gate`, `SY.eret`), and the store-queue entries it needs (R116). -/
structure Effect where
  slot : Bool := false
  after : Bool := false
  stores : Nat := 0
  run : State → State

/-- What the checks of a packet see: the context after the deliveries of step 1 (R80), its bank with the latches of
step 3, the partition, the privilege, the packet's address and number. -/
structure Env where
  c : Nat
  x : Ctx
  b : Bank
  p : Partition
  pn : Nat
  priv : Bool
  pc : Nat
  n : Nat
  seq : Nat
  aemu : Bool

/-- GAOP of a port: the operation of a `GA` trigger, 15 for any other port (R139). -/
def gaopOf (port : Nat) : Nat :=
  match port with
  | 0x0E => 0
  | 0x0F => 1
  | 0x10 => 2
  | 0x080 => 3
  | 0x081 => 4
  | 0x082 => 5
  | 0x11 => 6
  | 0x083 => 7
  | 0x084 => 8
  | _ => 15

/-- A fault of an operand or port at the packet (R139). -/
def portFault (e : Env) (cause operand slot dir port : Nat) (ext : Nat := 0) : Stop :=
  .fault { cause, faddr := BitVec.ofNat 64 e.pc, info := portInfo (gaopOf port) operand slot dir port, ext }

/-- The packets until a delivery to a destination is visible to this packet; none when it already is (R108). DESIGN CHOICE (log entry
49): of several in flight the first in trigger order is the one that PORT and EXT name. -/
def waitFor (e : Env) (d : Dest) : Option Nat :=
  ((curBank e.x).inflight.find? fun v => v.dest == d && decide (e.n < v.vis)).map fun v => v.vis - e.n

/-- A trigger: its slot and port. -/
structure Trig where
  e : Env
  slot : Nat
  port : Nat

def Trig.fail {α : Type} (t : Trig) (cause operand : Nat) (ext : Nat := 0) : Chk α :=
  .error (portFault t.e cause operand t.slot 2 t.port ext)

/-- The distance checker on a G register that a trigger reads at its commit (R108, R133). -/
def Trig.distance (t : Trig) (r : Nat) : Option Stop :=
  if t.e.x.regs.dchk then (waitFor t.e (.greg r)).map fun k => portFault t.e cDISTANCE 15 t.slot 0 (0x40 + r) (min 15 k) else none

/-- A latch that must be FIX in [lo, hi]: OPERAND_TAG or OPERAND_RANGE at its position otherwise. -/
def Trig.fixIn (t : Trig) (w : Word) (operand lo hi : Nat) : Chk Nat :=
  if w.tag ≠ tagFIX then t.fail cOPERAND_TAG operand
  else if w.pay.toNat < lo ∨ hi < w.pay.toNat then t.fail cOPERAND_RANGE operand
  else .ok w.pay.toNat

/-! ## Deliveries (R85 to R88, R91) -/

/-- Deliveries of an operation entered into a bank: the unit's operation of an earlier packet cancelled when the trigger comes within
its initiation interval, and earlier deliveries to the same destinations voided (R87, R88). One operation may enter several.
DESIGN CHOICE (log entry 49): of two operations with different intervals the earlier one's counts. -/
def pushDelivery (b : Bank) (unit trig lat ivl : Nat) (ds : List (Dest × DVal)) : Bank :=
  let last := tget 0 b.lastTrig unit
  let cancel := decide (last ≠ 0) && last / 16 != trig && decide (trig < last / 16 + last % 16)
  let kept := if cancel then b.inflight.filter fun d => !(d.unit == unit && d.trig == last / 16) else b.inflight
  let open' := kept.filter fun d => !(ds.any (fun e => e.1 == d.dest) && decide (trig + lat ≤ d.vis))
  { b with
    inflight := open' ++ ds.map fun e => { unit, trig, vis := trig + lat, dest := e.1, val := e.2 }
    lastTrig := tput b.lastTrig unit (trig * 16 + ivl) }

/-- Whether a trigger of a unit would cancel its earlier operation, and for how many packets more (R88, R108). -/
def cancelLeft (b : Bank) (unit trig : Nat) : Nat :=
  let last := tget 0 b.lastTrig unit
  if last = 0 then 0 else last / 16 + last % 16 - trig

def flagDeliveries (fs : FlagSet) : List (Dest × DVal) := fs.map fun e => (.flag e.1, .flag e.2)

/-- The commit of an operation with fixed-latency results. -/
def deliver (t : Trig) (unit lat ivl : Nat) (ds : List (Dest × DVal)) (s : State) : State :=
  modCtx s t.e.c fun x => modCurBank x fun b => pushDelivery b unit t.e.n lat ivl ds

/-- A pure effect. -/
def pureEff (f : State → State) : Chk (Chk Effect) := .ok (.ok { run := f })

/-- An operation started in the miss slot (R90, R91): PENDING or its value reaches each destination at latency lat. -/
def startOp (t : Trig) (unit lat : Nat) (kind : OpKind) (dsts pend : List Nat) (s : State) : State :=
  let (id, s1) := freshOp s
  modCtx s1 t.e.c fun x =>
    let x1 := modCurBank x fun b =>
      pushDelivery b unit t.e.n lat 1 (pend.map fun r => (Dest.greg r, DVal.op id))
    { x1 with slot := some { id, kind, dsts, pc := t.e.pc, priv := t.e.priv, seq := s.nextSeq } }

/-- An atomic started: it takes a place of its own in the store order (R144, R147). -/
def startCas (t : Trig) (kind : OpKind) (dst : Nat) (s : State) : State :=
  let s1 := startOp t 5 3 kind [dst] [dst] s
  { s1 with nextSeq := s.nextSeq + 1 }

/-- The flag bits of the ports that results go to. -/
def portAL : Nat := 0x0B
def portGA : Nat := 0x12
def portFM : Nat := 0x16
def portTG : Nat := 0x1B
def portAU : Nat := 0x29
def portMQ : Nat := 0x33
def portSY : Nat := 0x1A5
def portTB : Nat := 0x1AA
def portST : Nat := 0x184

/-! ## The miss slot (R90, R212) -/

/-- Whether one of an operation's destinations still holds its PENDING, or will by a delivery in flight (R195, R301). -/
def holdsPending (x : Ctx) (op : Nat) (dsts : List Nat) : Bool :=
  dsts.any (fun r => gOf x r == .pending op) || x.u.inflight.any (fun d => d.val == .op op) ||
    x.s.inflight.any fun d => d.val == .op op

/-- How far the `ST` prefetch that holds a slot has come (R212): served by the cluster's L2, sent beyond it, or not yet sent; or its line stands in the L1D
and it has ended. -/
inductive PrefetchAt where
  | done | served | beyond | unsent
deriving DecidableEq, Repr

/-- The state of a context's prefetch: a fill that the home has answered was sent; whether one that it has not answered has left its
L2 lookup depends on timing alone and is free. -/
def prefetchAt (s : State) (c pa : Nat) : PrefetchAt :=
  let line := pa % 2 ^ 36 / 8
  let missed := (getCore s (coreOf c)).fills.any fun f => f.line == line && f.ctx == c && f.missed
  if l1Has (getCore s (coreOf c)) line then .done
  else if missed then .beyond
  else if !(drawBool s).1 then .unsent
  else if (l2Sub (getCluster s (clusterOf c)) line).st == .i && dramLine s line then .beyond else .served

/-- Whether the slot is free for a new variable-latency operation: an `ST` prefetch sent beyond the L2 yields while a
shared miss-tracking entry is free, one not yet sent yields at once, and one that the L2 serves does not (R212). -/
def slotFree (s : State) (c : Nat) : Bool :=
  let x := getCtx s c
  match x.slot with
  | none => !(x.recvWant || (match x.withdrawn with | some m => holdsPending x m.id m.dsts | none => false))
  | some { kind := .prefetch pa _ _ _, .. } =>
    match prefetchAt s c pa with
    | .done => true
    | .served => false
    | .beyond => sharedFree s (clusterOf c)
    | .unsent => true
  | some _ => false

/-- A dropped prefetch counted in `ST.cnt` of the bank that sent it (R98, R135). -/
def countDrop (x : Ctx) (priv : Bool) : Ctx :=
  let up (b : Bank) : Bank := setLatch b portST { latchOf b portST with pay := (latchOf b portST).pay + 1 }
  if priv then { x with s := up x.s } else { x with u := up x.u }

/-- A prefetch that yields: moved to a shared entry, its fill going on without the slot, or, not yet sent, dropped and counted; a walk
ends after that cell (R212). -/
def yieldAt (s : State) (c : Nat) (at' : PrefetchAt) : State :=
  let x := getCtx s c
  match x.slot with
  | some { kind := .prefetch pa va _ left, priv, .. } =>
    let line := pa % 2 ^ 36 / 8
    let s1 := (drawBool s).2
    let mine (f : FillReq) : Bool := f.line == line && f.ctx == c && f.why == .stream && !f.shared
    if at' = .done then setCtx s1 c { (if left = 0 then x else countDrop x priv) with slot := none }
    else if at' = .unsent then
      modCore (setCtx s1 c (countDrop { x with slot := none } priv)) (coreOf c) fun k => { k with fills := k.fills.filter fun f => !mine f }
    else
      let k := getCore s1 (coreOf c)
      let fills := if k.fills.any mine then k.fills.map fun f => if mine f then { f with shared := true } else f
        else k.fills ++ [{ line, va, why := .stream, ctx := c, shared := true }]
      modCluster (setCore (setCtx s1 c { x with slot := none }) (coreOf c) { k with fills }) (clusterOf c)
        fun k => { k with missShared := k.missShared + 1 }
  | _ => s

/-- The prefetch in a context's slot yields as its state asks. -/
def yieldPrefetch (s : State) (c : Nat) : State :=
  match (getCtx s c).slot with
  | some { kind := .prefetch pa _ _ _, .. } => yieldAt s c (prefetchAt s c pa)
  | _ => s

/-- An effect that takes the slot: refused under R90 while it is held. -/
def slotEff (t : Trig) (s : State) (f : State → State) : Chk Effect :=
  if slotFree s t.e.c then
    let pf : PrefetchAt := match (getCtx s t.e.c).slot with | some { kind := .prefetch pa _ _ _, .. } => prefetchAt s t.e.c pa | _ => .unsent
    .ok { slot := true, run := fun s => f (yieldAt s t.e.c pf) }
  else .error (.park .slot)

/-! ## Memory access -/

/-- The place in the store order of the access to a word that holds the context's slot and has not been performed: later accesses to that
word wait for it (R143). -/
def slotWord (s : State) (c pa : Nat) : Option Nat :=
  match (getCtx s c).slot with
  | some m =>
    match m.kind with
    | .load a .. | .uncachedLoad a .. | .deviceLoad a _ | .remoteLoad a .. | .cas a .. => if a = pa then some m.seq else none
    | _ => none
  | none => none

/-- The latest store of the context to a word that has not drained (R143), and that no access of the slot follows; none in a window that is
being filled (R391). -/
def forwardOf (s : State) (c pa : Nat) : Option Word :=
  let es := (getCore s (coreOf c)).sq.filter fun e => e.ctx == c && e.pa == pa
  let late : List StoreEnt := match slotWord s c pa with | some q => es.filter fun e => decide (q ≤ e.seq) | none => es
  if windowFills s (pa % 2 ^ 36 / 8) then none else late.getLast?.map StoreEnt.word

/-- A cached word as the context's own load would find it in its core: its own store, or its L1D (R143, R219). -/
def peekHit (s : State) (c pa : Nat) : Option Word :=
  match forwardOf s c pa with
  | some w => some w
  | none =>
    let k := getCore s (coreOf c)
    if l1Has k (pa % 2 ^ 36 / 8) then some (wordOf (l1Data k (pa % 2 ^ 36 / 8)) pa) else none

/-- A translation at order 7 or 8: a miss refuses the packet for a walk, a fault faults it. -/
def xlate (s : State) (c : Nat) (req : WalkReq) : Chk (Nat × Nat × TlbEnt) :=
  match translate s c req with
  | .ok pa typ ent => .ok (pa, typ, ent)
  | .miss => .error (.park (.tlb [req]))
  | .fault f => .error (.fault f)

/-- Whether a physical address is a cacheable one for a cluster's cores (R228): local DRAM, or its own scratchpad. -/
def cacheable (s : State) (c pa : Nat) : Bool :=
  match localKind s (pa % 2 ^ 36) with
  | .scratch k _ => k == clusterOf c
  | .dram => true
  | _ => false

/-- A cached word that must stand in L1D for a check (R116: header wait, table wait); one that the core
cannot cache is read at its home (R228). -/
def needWord (s : State) (c : Nat) (req : WalkReq) : Chk Word := do
  let (pa, _, _) ← xlate s c req
  if !cacheable s c pa then .ok (cohRead s (pa % 2 ^ 36))
  else match peekHit s c pa with
    | some w => .ok w
    | none => .error (.park (.line (pa % 2 ^ 36) req.va))

/-- A request for a line entered in the core, once for each line; a load that waits for a prefetched line makes its fill a demand
fill (R209 to R211). -/
def askFill (s : State) (c line va : Nat) (why : FillWhy) : State :=
  let meet (f : FillReq) : FillReq :=
    if f.line = line ∧ why = .demand ∧ (f.why = .stream ∨ f.why = .nsp) then { f with why := .demand } else f
  modCore s (coreOf c) fun k =>
    if k.fills.any fun f => f.line == line then { k with fills := k.fills.map meet }
    else { k with fills := k.fills ++ [{ line, va, why, ctx := c }] }

/-- A header's or a table word's line asked for, through a shared entry of the miss-tracking table when the request leaves the cluster
(R22, R116); none while no entry is free. -/
def askShared (s : State) (c line va : Nat) : Option State :=
  let cl := clusterOf c
  let l := line % 2 ^ 33
  let beyond := dramLine s l && (l2Sub (getCluster s cl) l).st == .i
  if (getCore s (coreOf c)).fills.any fun f => f.line == line then some (askFill s c line va .demand)
  else if beyond && !sharedFree s cl then none
  else
    let s1 := modCore s (coreOf c) fun k => { k with fills := k.fills ++ [{ line, va, why := .demand, ctx := c, shared := beyond }] }
    some (if beyond then modCluster s1 cl fun k => { k with missShared := k.missShared + 1 } else s1)

/-- An address operand (R127): a FIX address or a POINTER-class word. -/
def Trig.address (t : Trig) (w : Word) : Chk Nat :=
  if w.tag = tagFIX then
    if isVaddr w.pay then .ok w.pay.toNat else .error (portFault t.e cBAD_ADDRESS 0 t.slot 2 t.port)
  else if isPointer t.e.p w then .ok (ptrAddr w)
  else t.fail cOPERAND_TAG 0

/-- The dereference barrier on a pointer whose target another device holds (R148, R333): that device resolves it, and the replay uses
its answer. DEDUCED (log entry 16): R333 names no other request that asks a device about its objects. -/
def Trig.derefFar (t : Trig) (s : State) (w : Word) (pa : Nat) : Chk Nat :=
  match t.e.x.derefs.find? fun d => d.1 == w with
  | some (_, .words (h :: _)) => .ok (ptrAddr (farWord t.e.x.regs.goodc false w h))
  | some (_, .words []) => .ok (ptrAddr w)
  | some (_, .fault f) => if f.cause = cSTALE_POINTER then t.fail cSTALE_POINTER 0 else .error (.fault f)
  | none => if (dataPort s t.e.pn (pa / 2 ^ 36)).isNone then .ok (ptrAddr w) else .error (.far w pa)

/-- An access of the barrier's own that must not miss in the TLB: the packet parks for its walk (R96, R507). -/
def needWalk (s : State) (c : Nat) (req : WalkReq) : Chk Unit :=
  match translate s c req with
  | .miss => .error (.park (.tlb [req]))
  | _ => .ok ()

/-- The region-table entry of an address read for a barrier at order 8 (R148, R507), once its page is in the TLB. -/
def Trig.region (t : Trig) (s : State) (a : Nat) : Chk RegionRes := do
  needWalk s t.e.c (agReq (t.e.p.rtbase.toNat + regionOf t.e.p a) .load)
  match (readRegion s (agentOf s t.e.c) (regionOf t.e.p a)).2 with
  | .fault f => .error (.late f)
  | r => .ok r

/-- The dereference barrier (R148) on an address operand: the address of the object to use, which is the new copy's
when the target is FORWARD, which is followed once (R60). It reads the target's first word when the pointer's colour is not good. -/
def Trig.deref (t : Trig) (s : State) (w : Word) (acc : Access) : Chk Nat := do
  let a := ptrAddr w
  if !isPointer t.e.p w || !colourMiss t.e.p t.e.x.regs.goodc w then .ok a
  else
    let req : WalkReq := { va := a, acc := if acc.isStore then .load else acc, priv := t.e.priv, row := .any }
    let (pa, typ, _) ← xlate s t.e.c req
    if typ = 3 then t.derefFar s w pa
    else if typ = 2 then .ok a
    else
    let first ← needWord s t.e.c req
    if first.tag = tagFORWARD then
      let next : WalkReq := { req with va := ptrAddr first }
      let (_, typ', _) ← xlate s t.e.c next
      if typ' = 2 ∨ typ' = 3 then .ok (ptrAddr first)
      else
        let copy ← needWord s t.e.c next
        if copy.tag = tagFORWARD then t.fail cBAD_TAG 0 else .ok (ptrAddr first)
    else if !inHeap t.e.p a then .ok a
    else
      match ← t.region s a with
      | .fault f => .error (.late f)
      | .none _ => .ok a
      | .state st gen _ =>
        if st = rFREE then t.fail cSTALE_POINTER 0
        else if st = rEVAC ∧ s.part.full = false then
          .error (.fault { cause := cBARRIER_SOFT, faddr := BitVec.ofNat 64 a
                           info := portInfo 15 0 t.slot 2 t.port })
        else if st = rEVAC ∧ (t.e.p.phase = 6 ∨ t.e.p.phase = 7) ∧ markThree t.e.p w first = false then .error (.evac w gen)
        else .ok a

/-- A NO_PATH fault at the triggering packet (R24, R37). -/
def noPath (t : Trig) (va : Nat) : Stop :=
  .fault { cause := cNO_PATH, faddr := BitVec.ofNat 64 va, info := portInfo 15 0 t.slot 2 t.port }

/-- A fault of a hit's resolution that is precise (R161, R180, R507), raised at the packet. -/
def hitFault (t : Trig) (s : State) (va : Nat) (weak : Bool) (w : Word) : Option Stop :=
  match (resolve s (agentOf s t.e.c) w va weak).2 with
  | .fault f =>
    if f.cause = cSTALE_POINTER ∨ f.cause = cBAD_TAG then none
    else if f.cause = cBARRIER_SOFT then some (.fault { f with info := portInfo 15 0 t.slot 2 t.port })
    else some (.late f)
  | _ => none

/-- The pages that a resolution on a hit reads first, the region table's and the target's, are in the TLB or walked for (R96, R507). -/
def Trig.needTarget (t : Trig) (s : State) (w : Word) : Chk Unit :=
  if !inHeap t.e.p (ptrAddr w) then .ok ()
  else do
    needWalk s t.e.c (agReq (ptrAddr w) .load)
    needWalk s t.e.c (agReq (t.e.p.rtbase.toNat + regionOf t.e.p (ptrAddr w)) .load)

/-- The barrier's part of a load that hits (R161, R180): the word, or its resolution as a variable-latency operation;
a fault of the resolution that is precise on a hit is taken at once. -/
def hitOrResolve (t : Trig) (s : State) (unit lat pa va dst : Nat) (weak : Bool) (w : Word) : Chk Effect :=
  let line := pa % 2 ^ 36 / 8
  let touch (s : State) : State := hitL1 s (coreOf t.e.c) line
  if colourMiss t.e.p t.e.x.regs.goodc w then do
    t.needTarget s w
    match (farTarget s (agentOf s t.e.c) w).2 with
    | some far =>
      if leftToSoftware s t.e.p weak then .error (.fault { softFault va with info := portInfo 15 0 t.slot 2 t.port })
      else if (dataPort s t.e.pn (far / 2 ^ 36)).isNone then .error (noPath t va)
      else slotEff t s fun s => touch (startOp t unit lat (.resolve pa va w weak) [dst] [dst] s)
    | none =>
    match hitFault t s va weak w with
    | some st => .error st
    | none => slotEff t s fun s => touch (startOp t unit lat (.resolve pa va w weak) [dst] [dst] s)
  else .ok { run := fun s => touch (deliver t unit lat 1 [(.greg dst, .word w)] s) }

/-- An uncached access requested at its home (R217). -/
def askHome (s : State) (r : UncReq) : State := { s with unc := s.unc ++ [r] }

/-- The miss-tracking entry that a request of a cluster to another device holds (R22, R327): a context's own for its slot's operation, else
the lowest shared one that no other request holds. -/
def freeEntry (s : State) (cl : Nat) (who : UncWho) : Nat :=
  match who with
  | .ctxOp c _ => c % 512
  | _ => 512 + ((List.range 1024).find? fun k => !(s.remotes.any fun r => r.rtag == cl * 2048 + 512 + k)).getD 0

/-- A request to another device sent for a partition by a cluster (R327): tagged with its cluster in [15:11] and the miss-tracking entry
that it holds; `keep` stays with that entry until the response. -/
def sendRemote (s : State) (op part cl ctx : Nat) (who : UncWho) (va pa port colour : Nat) (ws keep : List Word) : State :=
  let tag := cl * 2048 + freeEntry s cl who
  let r : RemReq := { rtag := tag, op, part, ctx, who, va, pa, colour, words := keep, port, time := s.time, req := (getCtx s ctx).rq.op }
  let s1 := { s with remotes := s.remotes ++ [r] }
  let req : Word := ⟨tagRAW, field tag 48 ||| field op 44 ||| field colour 42 ||| field (pa % 2 ^ 40) 0⟩
  let typ := if op = 0 ∨ op = 3 then 5 else if op = 1 then 6 else 7
  sendFlit s1 port { typ, vc := 2, dst := pa / 2 ^ 36 % 16, src := s.dev, part, words := req :: ws }

/-- A context's request to another device. -/
def askRemote (s : State) (op ctx : Nat) (who : UncWho) (va pa port : Nat) (colour : Nat) (ws : List Word) : State :=
  sendRemote s op (partOf s ctx) (clusterOf ctx) ctx who va pa port colour ws ws

/-- The engine that an agent translates for, if it is one. -/
def Agent.engine (g : Agent) : Option Nat := match g.unit with | .engine _ en => some en | _ => none

/-- Whether a heal has to wait: it goes to another device, and no shared entry of the miss-tracking table is free (R22, R163). -/
def healWaits (s : State) (g : Agent) (slot : Nat) (old new : Word) : Bool :=
  old != new && !sharedFree s g.cluster && (healEntry s g slot).any fun e => e.typ == 3

/-- A slot of this or another device healed by compare-and-swap; dropped and counted where no entry allows it (R163). -/
def healSlot (s : State) (g : Agent) (c slot : Nat) (old new : Word) : State :=
  let drop (s : State) : State := report s 0x1003 (.context c) [BitVec.ofNat 64 slot]
  if old = new then s
  else match healEntry s g slot with
    | none => drop s
    | some e =>
      if e.typ = 3 then
        match dataPort s g.part (entPa e slot / 2 ^ 36) with
        | some port => sendRemote s 2 g.part g.cluster c (.heal g.cluster g.engine) slot (entPa e slot) port 0 [old, new] [old, new]
        | none => drop s
      else heal s g c slot old new

/-- A load of one word into G[dst] (R127, R128): by memory type a hit, a miss, an uncached, device or remote access. -/
def loadEff (t : Trig) (s : State) (unit va dst : Nat) (req : WalkReq) (stream weak : Bool) : Chk Effect := do
  let (pa, typ, _) ← xlate s t.e.c req
  let c := t.e.c
  let start (k : OpKind) (s : State) : State := startOp t unit 3 k [dst] [dst] s
  let lastId (s : State) : Nat := s.nextOp - 1
  if (slotWord s c pa).isSome && (forwardOf s c pa).isNone then .error (.park .slot)
  else if typ = 3 then
    match dataPort s t.e.pn (pa / 2 ^ 36) with
    | none => .error (noPath t va)
    | some port =>
      match forwardOf s c pa with
      | some w => hitOrResolve t s unit 3 pa va dst weak w
      | none =>
        slotEff t s fun s =>
          let s1 := start (.remoteLoad pa va weak) s
          askRemote s1 0 c (.ctxOp c (lastId s1)) va pa port 0 []
  else if typ = 2 then slotEff t s (start (.deviceLoad pa va))
  else if typ = 1 ∨ !cacheable s c pa then
    match forwardOf s c pa with
    | some w => hitOrResolve t s unit 3 pa va dst weak w
    | none =>
      slotEff t s fun s =>
        let s1 := start (.uncachedLoad pa va weak) s
        askHome s1 { who := .ctxOp c (lastId s1), pa := pa % 2 ^ 36, kind := .read }
  else
    match peekHit s c pa with
    | some w => hitOrResolve t s unit 3 pa va dst weak w
    | none =>
      slotEff t s fun s =>
        askFill (start (.load pa va stream weak) s) c (pa % 2 ^ 36 / 8) va (if stream then .stream else .demand)

/-- The entries of the core's store queue in use (R116): the words of new objects are none of them (R145). -/
def sqUsed (s : State) (c : Nat) : Nat := ((getCore s (coreOf c)).sq.filter fun e => !e.alloc).length

/-- Room in the core's store queue (R116). -/
def needStoreRoom (s : State) (c n : Nat) : Chk Unit :=
  if sqUsed s c + n ≤ 16 then .ok () else .error (.park .storeQueue)

/-- Whether a store of a context waits for the end of the epoch (R412): it would set another bit in OPEN while CAP lines are set
and the epoch cannot end, the one before not acknowledged or its 100 µs not over (R405). -/
def reflWaits (s : State) (c pa : Nat) : Bool :=
  (ctxPart s c).mirrored && (!s.refl.acked || decide (s.time < s.refl.epochStart + 100000)) && decide (reflCap s ≤ s.refl.openLines.length) && marksOpen s (pa % 2 ^ 36 / 8)

/-- The store-queue wait of a mirrored partition's store (R116, R412). -/
def needEpoch (s : State) (c pa : Nat) : Chk Unit :=
  if reflWaits s c pa then .error (.park (.epoch (pa % 2 ^ 36 / 8))) else .ok ()

/-- The card OR that a store needs (R165, R239): the card word's physical address and the generation, translated with
its store. -/
def cardFor (s : State) (e : Env) (va typ contGen : Nat) (w : Word) : Chk (Option (Nat × Nat)) :=
  if barrierOf e.p w = 0 ∨ inHeap e.p va = false ∨ contGen ≤ ptrGen w ∨ typ = 3 then .ok none
  else do
    let (pa, _, _) ← xlate s e.c { va := cardAddr e.p va, acc := .card, priv := true, row := .any }
    .ok (some (pa % 2 ^ 36, ptrGen w))

/-- A store of one word through the store queue (R128, R144, R165, R167). `contGen` is the GEN of a pointer operand. -/
def storeEff (t : Trig) (s : State) (va : Nat) (w : Word) (contGen : Option Nat) (req : WalkReq) (barriers : Bool) :
    Chk Effect := do
  let (pa, typ, ent) ← xlate s t.e.c req
  if typ = 3 ∧ (dataPort s t.e.pn (pa / 2 ^ 36)).isNone then .error (noPath t va)
  else
    let card ← if barriers then cardFor s t.e va typ (contGen.getD ent.gen) w else .ok none
    needStoreRoom s t.e.c 1
    needEpoch s t.e.c pa
    .ok { stores := 1, run := fun s => pushStore s (coreOf t.e.c) { ctx := t.e.c, va, pa, typ, word := w, log := barriers, card } }

/-! ## AL, FM and TG -/

def alTrig (t : Trig) (op : AlOp) (b : Word) : Chk (Chk Effect) :=
  let o := alOp op (latchOf t.e.b 0x01) b
  let ds := (o.res.toList.map fun w => (Dest.port portAL, DVal.word w)) ++ flagDeliveries o.flags
  pureEff (deliver t uAL 1 1 ds)

def fmTrig (t : Trig) (sub : Bool) (c : Word) : Chk (Chk Effect) :=
  let a := latchOf t.e.b 0x13
  let b := latchOf t.e.b 0x14
  if a.tag ≠ tagFLO then t.fail cARITH_TYPE 0
  else if b.tag ≠ tagFLO then t.fail cARITH_TYPE 1
  else if c.tag ≠ tagFLO then t.fail cARITH_TYPE 2
  else
    let r := if sub then floFms a.pay b.pay c.pay else floFma a.pay b.pay c.pay
    pureEff (deliver t uFM 3 1 [(.port portFM, .word (Word.flo r))])

/-- A `TG` trigger (R125). DEDUCED: a creation fault concerns the created word, not one operand, so OPERAND is 15. -/
def tgTrig (t : Trig) (op : TgOp) (b : Word) : Chk (Chk Effect) := do
  let lt := latchOf t.e.b 0x17
  if op = .set ∨ op = .test then
    let _ ← t.fixIn lt 1 0 255
  if op = .set then
    match creationFault t.e.p t.e.priv ⟨BitVec.ofNat 8 lt.pay.toNat, b.pay⟩ with
    | some cause => t.fail cause 15
    | none => .ok ()
  let o := tgOp t.e.p op b lt (latchOf t.e.b 0xA2)
  let ds := (o.res.toList.map fun w => (Dest.port portTG, DVal.word w)) ++ flagDeliveries o.flags
  pureEff (deliver t uTG 1 1 ds)

/-! ## Routine requests (R119, R134, R181) -/

/-- Whether the part, and a sealed partition's engines, can serve a routine (R123, R134, R188, R388). -/
def routineServed (s : State) (e : Env) (num : Nat) : Bool :=
  let retired (k : Nat) : Bool := [0, 1].all fun i => (tget ({} : Engine) (getCluster s k).engines i).retired
  let die := clusterOf e.c / 8
  let mine := (ctxsOf s e.pn).map clusterOf
  (s.part.full || !(decide (1 ≤ num) && decide (num ≤ 0x0B))) &&
    (!e.p.sealed || !(retired (clusterOf e.c)) ||
      (List.range s.part.clusters).any fun k => k / 8 == die && mine.contains k && !retired k)

/-- A request issued: the record, PENDING for the destinations, the cluster's queue (R134, R181, R197). -/
def startRoutine (t : Trig) (unit lat num dst gaop : Nat) (two : Bool) (a b c : Word) (s : State) : State :=
  let dsts := if two then [dst, dst + 1] else [dst]
  let s1 := startOp t unit lat .routine dsts dsts s
  let id := s1.nextOp - 1
  let s2 := modCtx s1 t.e.c fun x =>
    { x with
      rq := { state := 1, routine := num, dst, two, priv := t.e.priv, a, b, c, op := id, pc := t.e.pc, gaop }
      rqSuspended := false, rqEnd := none, rqFail := none, rqSeq := s.nextSeq, rqVis := if gaop = 3 ∨ gaop = 4 ∨ gaop = 5 then t.e.n + lat else 0 }
  queueRoutine s2 (clusterOf t.e.c) { ctx := t.e.c }

/-- Whether a `GA` trigger cancels a division whose request has not left the core (R88, R115). -/
def cancelsGa (t : Trig) (s : State) : Bool :=
  let x := getCtx s t.e.c
  x.rq.state == 1 && x.rq.priv == t.e.priv && decide (t.e.n < x.rqVis) && decide (3 ≤ x.rq.gaop) && decide (x.rq.gaop ≤ 5) &&
    tget 0 t.e.b.lastTrig uGA / 16 != t.e.n

/-- A `GA` division cancelled before its request left the core frees the slot (R88, R115). -/
def cancelGaRequest (t : Trig) (s : State) : State :=
  if cancelsGa t s then
    modCluster (modCtx s t.e.c fun x => { x with slot := none, rq := {}, rqVis := 0 }) (clusterOf t.e.c) fun k =>
      { k with reqQ := k.reqQ.filter fun r => r.ctx != t.e.c || r.coll.isSome }
  else s

/-- The destination registers of a request (R197). -/
def rqDsts (r : RqRec) : List Nat := if r.two then [r.dst, r.dst + 1] else [r.dst]

/-- A routine's place may be taken by a suspended request of the same context, which is reissued first (R195). -/
def routineEff (t : Trig) (s : State) (f : State → State) : Chk Effect :=
  if t.e.x.rq.state = 3 ∧ (rqDsts t.e.x.rq).any fun r => gOf t.e.x r == .pending t.e.x.rq.op then
    .error (.park .reissue)
  else slotEff t s f

/-- Whether operand a of a binary `GA` operation is the first that an ARITH_TYPE concerns (R111, R119, R139): its ARITH is NONE; or, when
b's is not, it is the FLO or RAT operand of quo or rem. -/
def gaBlamesA (p : Partition) (op : GaOp) (a b : Word) : Bool :=
  let ka := arithOf p a
  !op.unary && (ka == 0 || (arithOf p b != 0 && (ka == 2 || ka == 4)))

/-- A `GA` trigger (R119 to R123, R140). DESIGN CHOICE (log entry 49): `AEMUCTL`.V completes every absent operation of its packet. -/
def gaTrig (t : Trig) (s : State) (op : GaOp) (b : Word) : Chk (Chk Effect) := do
  let a := latchOf t.e.b 0x0C
  let d := latchOf t.e.b 0x0D
  let fail (cause operand : Nat) : Chk (Chk Effect) := t.fail cause operand
  match gaOp t.e.p op a b with
  | .fault cause => fail cause (if cause = cARITH_TYPE ∧ gaBlamesA t.e.p op a b = true then 0 else 1)
  | out =>
    if d.tag ≠ tagFIX then fail cOPERAND_TAG 2
    else if d.pay.toNat > 63 then fail cOPERAND_RANGE 2
    else
      let r := d.pay.toNat
      match out with
      | .done w lat fs =>
        pureEff fun s =>
          deliver t uGA lat op.interval ((.port portGA, .word w) :: (.greg r, .word w) :: flagDeliveries fs)
            (cancelGaRequest t s)
      | .routine lat fs =>
        let a' := if op.unary then Word.zero else a
        if !routineServed s t.e (op.code + 1) then
          if t.e.aemu then
            pureEff fun s => deliver t uGA lat op.interval ((.greg r, .word t.e.x.regs.aemu0) :: flagDeliveries fs) s
          else
            .error (.absent { cause := cABSENT_UNIT, faddr := BitVec.ofNat 64 t.e.pc
                              info := portInfo op.code 15 t.slot 2 t.port } [a', b, d, Word.zero, Word.zero])
        else
          let go (s : State) : State := deliver t uGA lat op.interval (flagDeliveries fs)
            (startRoutine t uGA lat (op.code + 1) r op.code false a' b Word.zero s)
          .ok (if cancelsGa t s then .ok { slot := true, run := fun s => go (cancelGaRequest t s) } else routineEff t s go)
      | .fault cause => fail cause 1

/-! ## LS -/

/-- A pointer entry's size source: 1 headerless, 2 headered (R62). -/
def ptrSizeSrc (p : Partition) (w : Word) : Nat := if isPointer p w then tdtSizeSrc (tdtOf p w.tag) else 0

/-- The header checks of a bounded access (R129): the address of the object and its body length. -/
def boundedTarget (t : Trig) (s : State) (w : Word) (acc : Access) : Chk (Nat × Nat) := do
  let e := tdtOf t.e.p w.tag
  let a ← t.deref s w acc
  if tdtSizeSrc e = 1 then .ok (a, tdtFixedSize e)
  else
    let hacc := if acc.isStore then Access.load else acc
    let h ← needWord s t.e.c { va := a, acc := hacc, priv := t.e.priv, row := .cached }
    let (a', h') ← if h.tag = tagFORWARD then do
        let h2 ← needWord s t.e.c { va := ptrAddr h, acc := hacc, priv := t.e.priv, row := .cached }
        .ok (ptrAddr h, h2)
      else .ok (a, h)
    if h'.tag = tagFORWARD then t.fail cBAD_TAG 0
    else if h'.tag ≠ tdtHdrTag e ∨ hdrReserved h' ≠ 0 then t.fail cBAD_HEADER 0
    else .ok (a' + 1, bodyLength (tdtOf t.e.p h'.tag) (hdrLength h'))

/-- The slot of a bounded access (R129): OPERAND_TAG of the pointer and of `LS.ix` in operand order (R111), then BAD_HEADER and BOUNDS. -/
def boundedSlot (t : Trig) (s : State) (w : Word) (acc : Access) : Chk Nat := do
  let ix := latchOf t.e.b 0x1D
  if ptrSizeSrc t.e.p w ≠ 1 ∧ ptrSizeSrc t.e.p w ≠ 2 then t.fail cOPERAND_TAG 0
  else if ix.tag ≠ tagFIX then t.fail cOPERAND_TAG 1
  else
    let (base, len) ← boundedTarget t s w acc
    if ix.pay.toNat < len then .ok (base + ix.pay.toNat) else t.fail cBOUNDS 1

/-- Whether a load of body word 0 is made through a pointer whose header is SCAN WEAK (R162). -/
def weakAccess (p : Partition) (w : Word) (ix : Nat) : Bool :=
  isPointer p w && tdtSizeSrc (tdtOf p w.tag) == 2 && tdtScan (tdtOf p (tdtHdrTag (tdtOf p w.tag))) == 3 && ix == 0

/-- The destination of an `LS` operation: FIX 0 to 63. -/
def lsDst (t : Trig) (operand : Nat) : Chk Nat := t.fixIn (latchOf t.e.b 0x1C) operand 0 63

/-- `LS.ld` and `LS.lds` (R128). -/
def lsLd (t : Trig) (s : State) (w : Word) (stream : Bool) : Chk (Chk Effect) := do
  let _ ← t.address w
  let dst ← lsDst t 1
  .ok do
    let a ← if isPointer t.e.p w then t.deref s w .load else .ok w.pay.toNat
    loadEff t s uLS a dst { va := a, acc := .load, priv := t.e.priv, row := .any } stream false

/-- `LS.st` (R128): TAG_PROTECT at U, then the store with its barriers. -/
def lsSt (t : Trig) (s : State) (w : Word) : Chk (Chk Effect) := do
  let _ ← t.address w
  let d := latchOf t.e.b 0x1E
  if tagProtected t.e.priv d then t.fail cTAG_PROTECT 1
  else .ok do
    let a ← if isPointer t.e.p w then t.deref s w .store else .ok w.pay.toNat
    storeEff t s a d (if isPointer t.e.p w then some (ptrGen w) else none)
      { va := a, acc := .store, priv := t.e.priv, row := .any } true

/-- `LS.car` and `LS.cdr` (R128): NIL delivers NIL without any access. -/
def lsCar (t : Trig) (s : State) (w : Word) (off : Nat) : Chk (Chk Effect) := do
  if w.tag = tagNIL then
    let dst ← lsDst t 1
    pureEff (deliver t uLS 3 1 [(.greg dst, .word Word.nil)])
  else if ptrSizeSrc t.e.p w ≠ 1 then t.fail cOPERAND_TAG 0
  else
    let dst ← lsDst t 1
    .ok do
      let a ← t.deref s w .load
      loadEff t s uLS (a + off) dst { va := a + off, acc := .load, priv := t.e.priv, row := .carCdr } false false

/-- `LS.ldf` (R129). -/
def lsLdf (t : Trig) (s : State) (w : Word) : Chk (Chk Effect) := do
  let a ← boundedSlot t s w .load
  let dst ← lsDst t 2
  let weak := weakAccess t.e.p w (latchOf t.e.b 0x1D).pay.toNat
  .ok (loadEff t s uLS a dst { va := a, acc := .load, priv := t.e.priv, row := .cached } false weak)

/-- `LS.stf` (R129). -/
def lsStf (t : Trig) (s : State) (w : Word) : Chk (Chk Effect) := do
  let a ← boundedSlot t s w .store
  let d := latchOf t.e.b 0x1E
  if tagProtected t.e.priv d then t.fail cTAG_PROTECT 2
  else .ok (storeEff t s a d (some (ptrGen w)) { va := a, acc := .store, priv := t.e.priv, row := .cached } true)

/-- Whether an atomic on a cached word is performed at once (R146): its L1D holds the line exclusively, and every earlier store of the
context is visible, so that the order of its stores is kept (R144). -/
def casHits (s : State) (c pa typ : Nat) : Bool :=
  let line := pa % 2 ^ 36 / 8
  (typ == 0 || typ == 4) && mayWrite s (coreOf c) line && storesDone s c s.nextSeq && !shipWaits s line

/-- The atomic step on a word whose line is held exclusively, with the resolved word h of the word w that stands there (R146). -/
def casNow (s : State) (c a : Nat) (cmp new : Word) (card : Option (Nat × Nat)) (w h : Word) : State :=
  let core := coreOf c
  if h = cmp then storeMarks (writeHeld s core a new) { core, ctx := c, part := partOf s c, log := true, card } h
  else if h = w then hitL1 s core (a / 8) else writeHeld s core a h

/-- An atomic on a word of this device (R146): latency 3 on a line held exclusively where the resolution needs no memory beyond it, else
a variable-latency operation, performed when it holds its line. -/
def casHereEff (t : Trig) (s : State) (pa va typ dst : Nat) (cmp new : Word) (card : Option (Nat × Nat)) : Chk Effect := do
  let c := t.e.c
  let a := pa % 2 ^ 36
  let goodc := t.e.x.regs.goodc
  let room (k : Chk Effect) : Chk Effect := do
    needStoreRoom s c 1
    needEpoch s c pa
    k
  let later : Chk Effect := room (slotEff t s (startCas t (.cas pa va typ cmp new card) dst))
  if !casHits s c pa typ || (slotWord s c pa).isSome then later
  else
    let w := cohRead s a
    let now (h : Word) : Chk Effect :=
      room (.ok { run := fun s => deliver t uLS 3 1 [(.greg dst, .word h)] (casNow s c a cmp new card w h) })
    if !colourMiss t.e.p goodc w then now w
    else if !inHeap t.e.p (ptrAddr w) then now (ptrWithColour w goodc)
    else do
      t.needTarget s w
      if (farTarget s (agentOf s c) w).2.isSome then later
      else match hitFault t s va false w with
        | some st => .error st
        | none => later

/-- The word that a compare-and-swap offers another device's slot at first: none but the compare word itself where that needs resolution, since
no resolved word compares with it (R146). -/
def casOffer (p : Partition) (goodc : Nat) (cmp new : Word) : Word := if colourMiss p goodc cmp then cmp else new

/-- `LS.cas` (R128, R146). -/
def lsCas (t : Trig) (s : State) (w : Word) : Chk (Chk Effect) := do
  let ptr := isPointer t.e.p w
  let a ← if ptr then boundedSlot t s w .cas else t.address w
  let new := latchOf t.e.b 0x1E
  if tagProtected t.e.priv new then t.fail cTAG_PROTECT 3
  else
    let dst ← lsDst t 4
    let cmp := latchOf t.e.b 0x38
    .ok do
      let req : WalkReq := { va := a, acc := .cas, priv := t.e.priv, row := if ptr then .cached else .casFix }
      let (pa, typ, ent) ← xlate s t.e.c req
      let gen := if ptr then ptrGen w else ent.gen
      let card ← cardFor s t.e a typ gen new
      if typ = 3 then
        match dataPort s t.e.pn (pa / 2 ^ 36) with
        | none => .error (noPath t a)
        | some port =>
          needStoreRoom s t.e.c 1
          let queued := (getCore s (coreOf t.e.c)).sq.any fun e => e.ctx == t.e.c && e.typ == 3
          slotEff t s fun s =>
            let s1 := startCas t (.cas pa a typ cmp new none) dst s
            if queued then s1
            else askRemote s1 2 t.e.c (.ctxOp t.e.c (s1.nextOp - 1)) a pa port 0 [cmp, casOffer t.e.p t.e.x.regs.goodc cmp new]
      else casHereEff t s pa a typ dst cmp new card

/-- `LS.fence` (R128, R147). -/
def lsFence (t : Trig) (w : Word) : Chk (Chk Effect) := do
  let k ← t.fixIn w 0 0 3
  pureEff fun s => modCtx s t.e.c fun x => { x with hold := .fence k, fenceSeq := s.nextSeq }

/-! ## AU (R67, R130, R145, R150) -/

/-- What an allocation writes: the words from the start address. -/
structure AllocPlan where
  start : Nat
  words : List Word
  ptr : Word

/-- The nursery's answer to a request of size words aligned to k (R150). -/
def nurseryStart (x : Ctx) (size k : Nat) : Option Nat :=
  let st := alignUp x.regs.nurptr k
  if st + size ≤ x.regs.nurlim then some st else none

/-- Every written word translated as an `AU` write (R245, R246). -/
def auXlate (s : State) (e : Env) : List (Nat × Word) → Chk (List (Nat × Nat × Nat × Word))
  | [] => .ok []
  | (va, w) :: rest => do
    let (pa, typ, _) ← xlate s e.c { va, acc := .auWrite, priv := e.priv, row := .cached }
    let r ← auXlate s e rest
    .ok ((va, pa, typ, w) :: r)

/-- A new object's words become visible no later than any later store of the context (R145): they enter the store
order, through the store queue or, for `AU.new`, directly into the L1D, and `NURPTR` moves past the object. -/
def commitAlloc (t : Trig) (direct : Bool) (plan : AllocPlan) (ws : List (Nat × Nat × Nat × Word)) (s : State) : State :=
  let s1 := ws.foldl (fun s e =>
    pushStore s (coreOf t.e.c) { ctx := t.e.c, va := e.1, pa := e.2.1, typ := e.2.2.1, word := e.2.2.2, alloc := direct }) s
  let s2 := modCtx s1 t.e.c fun x =>
    { x with regs := { x.regs with nurptr := plan.start + plan.words.length } }
  deliver t uAU 2 1 [(.port portAU, .word plan.ptr)] s2

/-- The list of (address, word) pairs that an allocation writes. -/
def planWrites (x : Ctx) (plan : AllocPlan) : List (Nat × Word) :=
  let gap := plan.start - x.regs.nurptr
  (if gap = 0 then [] else [(x.regs.nurptr, ⟨tagFILLH, BitVec.ofNat 64 (gap - 1)⟩)]) ++
    ((List.range plan.words.length).map (plan.start + ·)).zip plan.words

/-- The pointer that `AU` returns (R67). -/
def auPointer (tag : Tag) (goodc user addr : Nat) : Word := ⟨tag, field goodc 60 ||| field user 56 ||| field addr 0⟩

/-- The end of an allocation: LARGE, LIMIT, or the writes (R150). -/
def allocate (t : Trig) (s : State) (k : Nat) (words : List Word) (tag : Tag) (user : Nat) (queued : Bool) :
    Chk (Chk Effect) :=
  let size := words.length
  if size > 256 then t.fail cNURSERY_FULL 15 0
  else match nurseryStart t.e.x size k with
    | none => t.fail cNURSERY_FULL 15 1
    | some st =>
      let plan : AllocPlan := { start := st, words, ptr := auPointer tag t.e.x.regs.goodc user st }
      .ok do
        let ws ← auXlate s t.e (planWrites t.e.x plan)
        if queued then needStoreRoom s t.e.c ws.length
        match ws.find? fun e => reflWaits s t.e.c e.2.1 with
        | some e => needEpoch s t.e.c e.2.1
        | none => .ok ()
        .ok { stores := if queued then ws.length else 0, run := commitAlloc t (!queued) plan ws }

/-- `AU.new` (R130). -/
def auNew (t : Trig) (s : State) (w : Word) : Chk (Chk Effect) := do
  let len := latchOf t.e.b 0x25
  let ext := latchOf t.e.b 0xE0
  if w.tag ≠ tagFIX then t.fail cOPERAND_TAG 0
  else if w.pay.toNat > 255 then t.fail cOPERAND_RANGE 0
  else
    let tag : Tag := BitVec.ofNat 8 w.pay.toNat
    let e := tdtOf t.e.p tag
    let src := tdtSizeSrc e
    if tdtClass e ≠ clsPOINTER ∨ (src ≠ 1 ∧ src ≠ 2) then t.fail cOPERAND_TAG 0
    else
      let l ← t.fixIn len 1 0 (2 ^ 32 - 1)
      let x ← t.fixIn ext 2 0 (2 ^ 20 - 1)
      let aux := x % 65536
      let user := x / 65536
      if src = 1 then
        allocate t s (tdtFixedSize e) (List.replicate (tdtFixedSize e) ⟨tdtInitTag e, 0⟩) tag user false
      else
        let he := tdtOf t.e.p (tdtHdrTag e)
        let body := bodyLength he l
        let length := if tdtSizeSrc he = 1 then tdtFixedSize he else l
        if tdtScan he = 2 ∧ body < aux then t.fail cBAD_HEADER 2
        else if body > 255 then t.fail cNURSERY_FULL 15 0
        else
          let hdr : Word := ⟨tdtHdrTag e, field user 56 ||| field aux 40 ||| field length 0⟩
          allocate t s 1 (hdr :: List.replicate body ⟨tdtInitTag he, 0⟩) tag user false

/-- `AU.cons` (R130). -/
def auCons (t : Trig) (s : State) (cdr : Word) : Chk (Chk Effect) :=
  let car := latchOf t.e.b 0x26
  if tagProtected t.e.priv cdr then t.fail cTAG_PROTECT 0
  else if tagProtected t.e.priv car then t.fail cTAG_PROTECT 1
  else allocate t s 2 [car, cdr] tagCONS 0 true

/-! ## PC (R89, R131, R269) -/

/-- A transfer in flight, after every earlier one that it would precede is void (R87, R89). -/
def pushXfer (t : Trig) (target lat : Nat) (s : State) : State :=
  modCtx s t.e.c fun x => { x with xfers := (x.xfers.filter fun y => decide (y.dist < lat)) ++ [{ target, dist := lat }] }

def pcTarget (t : Trig) (n : Int) : Chk Nat :=
  if 0 ≤ n ∧ n < 2 ^ 48 then .ok n.toNat else .error (portFault t.e cBAD_ADDRESS 0 t.slot 2 t.port)

def pcJmp (t : Trig) (w : Word) (br : Bool) : Chk (Chk Effect) := do
  if w.tag ≠ tagFIX then t.fail cOPERAND_TAG 0
  else
    let n ← pcTarget t (if br then (t.e.pc : Int) + fixVal w.pay else fixVal w.pay)
    pureEff (pushXfer t n 2)

/-- The return-stack pointer and limit as FIX addresses. DESIGN CHOICE (log entry 49): a latch that a push uses and that holds a word of
another tag faults OPERAND_TAG with OPERAND 15, and a FIX word past 48 bits is used by its low 48. -/
def stackLatch (t : Trig) (a : Nat) : Chk Nat :=
  let w := latchOf t.e.b a
  if w.tag ≠ tagFIX then t.fail cOPERAND_TAG 15 else .ok w.pay.toNat

/-- A RETADDR word (R269). -/
def retAddr (priv : Bool) (addr : Nat) : Word := ⟨tagRETADDR, flagBit priv 48 ||| field (addr % 2 ^ 48) 0⟩

/-- A push on the return stack: STACK_LIMIT past `RS.lim`, then the store (R131, R132, R245). DESIGN CHOICE (log entry 49): R132 bounds
`DS.sp` and `DS.lim` alone, so an `RS.sp` past 48 bits is used by its low 48. -/
def rsPushEff (t : Trig) (s : State) (w : Word) (more : State → State) : Chk (Chk Effect) := do
  let sp ← stackLatch t pRSsp
  let lim ← stackLatch t pRSlim
  if lim ≤ sp then t.fail cSTACK_LIMIT 15
  else .ok do
    let eff ← storeEff t s sp w none { va := sp, acc := .rsPush, priv := t.e.priv, row := .cached } false
    let run (s : State) : State :=
      more (modCtx (eff.run s) t.e.c fun x => modCurBank x fun b => setLatch b pRSsp (Word.fixN (sp + 1)))
    .ok { eff with run := run }

def pcCall (t : Trig) (s : State) (w : Word) : Chk (Chk Effect) := do
  if w.tag ≠ tagFIX then t.fail cOPERAND_TAG 0
  else
    let n ← pcTarget t (fixVal w.pay)
    rsPushEff t s (retAddr t.e.priv (t.e.pc + 2)) (pushXfer t n 2)

/-- The word below `RS.sp` (R132): a return-stack read through L1D. -/
def rsTopWord (s : State) (e : Env) (sp : Word) (bad : Stop) : Chk Word :=
  if sp.tag ≠ tagFIX ∨ sp.pay.toNat = 0 ∨ 2 ^ 48 < sp.pay.toNat then .error bad
  else needWord s e.c { va := sp.pay.toNat - 1, acc := .rsRead, priv := e.priv, row := .cached }

/-- `PC.ret` (R131, R269). DESIGN CHOICE (log entry 49): where `RS.sp` names no word the top is no RETADDR, EXT 0. -/
def pcRet (t : Trig) (s : State) : Chk (Chk Effect) := do
  let sp := latchOf t.e.b pRSsp
  let bad (ext : Nat) : Stop := portFault t.e cBAD_RETURN 15 t.slot 2 t.port ext
  let top ← rsTopWord s t.e sp (bad 0)
  if top.tag ≠ tagRETADDR then .error (bad 0)
  else if bits top.pay 63 49 ≠ 0 then .error (bad 1)
  else if bit top.pay 48 ≠ t.e.priv then .error (bad 2)
  else
    pureEff fun s =>
      pushXfer t (ptrAddr top) 2
        (modCtx s t.e.c fun x => modCurBank x fun b => setLatch b pRSsp (Word.fixN (sp.pay.toNat - 1)))

/-- `PC.tdsp` (R126, R131): the dispatch entry of the operand's tag, after the table wait of R116. -/
def pcTdsp (t : Trig) (s : State) (w : Word) : Chk (Chk Effect) := do
  let tab := latchOf t.e.b 0xA5
  if tab.tag ≠ tagFIX then t.fail cOPERAND_TAG 1
  else if !isVaddr tab.pay || tab.pay.toNat % 256 != 0 then t.fail cOPERAND_RANGE 1
  else
    let ent ← needWord s t.e.c { va := tab.pay.toNat + w.tag.toNat, acc := .table, priv := t.e.priv, row := .cached }
    if ent.tag ≠ tagFIX ∨ isVaddr ent.pay = false then t.fail cBAD_DISPATCH 15
    else pureEff (pushXfer t ent.pay.toNat 3)

/-! ## DS and RS (R132) -/

/-- `DS.push` (R132): TAG_PROTECT of the word, check 3 of R46, then the unit's own checks. DESIGN CHOICE (log entry 49): a pointer or limit
that holds a word of another tag faults OPERAND_TAG with OPERAND 15. -/
def dsPush (t : Trig) (s : State) (w : Word) : Chk (Chk Effect) := do
  let sp := latchOf t.e.b pDSsp
  let lim := latchOf t.e.b pDSlim
  if tagProtected t.e.priv w then t.fail cTAG_PROTECT 0
  else if sp.tag ≠ tagFIX ∨ lim.tag ≠ tagFIX then t.fail cOPERAND_TAG 15
  else if lim.pay.toNat ≤ sp.pay.toNat then t.fail cSTACK_LIMIT 15
  else .ok do
    let a := sp.pay.toNat
    let eff ← storeEff t s a w none { va := a, acc := .dsPush, priv := t.e.priv, row := .cached } false
    let run (s : State) : State := modCtx (eff.run s) t.e.c fun x => modCurBank x fun b => setLatch b pDSsp (Word.fixN (a + 1))
    .ok { eff with run := run }

/-- `DS.pop` (R132). DESIGN CHOICE (log entry 49): a pointer that holds a word of another tag faults OPERAND_TAG with OPERAND 15. -/
def dsPop (t : Trig) (s : State) (w : Word) : Chk (Chk Effect) := do
  let dst ← t.fixIn w 0 0 63
  let sp := latchOf t.e.b pDSsp
  if sp.tag ≠ tagFIX then t.fail cOPERAND_TAG 15
  else if sp.pay.toNat = 0 ∨ 2 ^ 48 < sp.pay.toNat then t.fail cBAD_ADDRESS 15
  else .ok do
    let a := sp.pay.toNat - 1
    let eff ← loadEff t s uDS a dst { va := a, acc := .dsPop, priv := t.e.priv, row := .cached } false false
    let more (s : State) : State := modCtx (eff.run s) t.e.c fun x => modCurBank x fun b => setLatch b pDSsp (Word.fixN a)
    .ok { eff with run := more }

/-- `RS.drop` (R132). DESIGN CHOICE (log entry 49): a drop of more than `RS.sp` holds wraps its 64-bit payload. -/
def rsDrop (t : Trig) (w : Word) : Chk (Chk Effect) := do
  let n ← t.fixIn w 0 1 255
  let sp := latchOf t.e.b pRSsp
  pureEff fun s => modCtx s t.e.c fun x => modCurBank x fun b =>
    setLatch b pRSsp { sp with pay := sp.pay - BitVec.ofNat 64 n }

def rsPush (t : Trig) (s : State) (w : Word) : Chk (Chk Effect) :=
  if w.tag ≠ tagRETADDR then t.fail cOPERAND_TAG 0 else rsPushEff t s w id

end Sys2Proof.Machine
end

