-- ==== Sys2Proof/Machine/Contexts.lean ====
section
/-!
DEFINITION. Contexts as a whole: reset and start (R266, R270), the reissue of suspended requests and withdrawn waits
(R195, R301), and the drain of a frozen bank (R102).
-/

namespace Sys2Proof.Machine
open Sys2Proof

/-- A context's requests removed from its cluster's queue and engines (R194, R196): what an engine that served one still awaits from another
device is discarded, and the stores that it has committed go on. -/
def dropRequests (s : State) (c : Nat) : State :=
  let serves (w : UncWho) : Bool := match w with
    | .engine k e => (engineOf s k e).serving == some c
    | _ => false
  { s with
    remotes := s.remotes.map fun r => if serves r.who && (r.op == 0 || r.op == 3) then { r with who := .none } else r
    clusters := s.clusters.map fun e => (e.1, { e.2 with
      reqQ := e.2.reqQ.filter fun r => r.coll.isSome || r.ctx != c
      engines := e.2.engines.map fun g =>
        if g.2.serving = some c then
          (g.1, { g.2 with serving := none, run := 0, remBuf := [], heals := [], micro := none, micro0 := none })
        else g }) }

/-- A FILLH over the range that a request has reserved and never written, as the request ends (R185). -/
def fillRange (s : State) (c : Nat) : State :=
  match (getCtx s c).rq.range with
  | none => s
  | some (a, n) =>
    let g := { agentOf s c with unit := .engine (clusterOf c) (collEngine s (clusterOf c)) }
    modCtx (agWrite s g a ⟨tagFILLH, BitVec.ofNat 64 (n - 1)⟩).1 c fun x => { x with rq := { x.rq with range := none } }

/-- The miss slot after a context reset (R266): a value still to come is discarded and its arrival frees the slot; a
routine request or a wait ends at once. -/
def slotAfterReset (m : MissOp) : Option MissOp :=
  match m.kind with
  | .routine | .recv .. => none
  | _ => some { m with dsts := [] }

/-- The context-scope registers after a context reset (R109, R159, R264, R266). -/
def resetRegs (p : Partition) (r : CtxRegs) : CtxRegs :=
  { xsel := r.xsel, xgidx := r.xgidx, goodc := p.bgoodc, dchk := p.dchkDef
    asid := bits p.tbaseDef 63 52, root := bits p.tbaseDef 39 0 / 256 * 256 }

/-- The queue whose message a receive has been assigned and has not delivered (R302). -/
def assignedMessage (x : Ctx) : Option Nat :=
  match x.slot with
  | some { kind := .recv q _, result := some (.words (w :: _)), .. } => if 1 ≤ fixVal w.pay then some q else none
  | _ => none

/-- A context reset (R266), made whole in one step. The core still issues at most one packet of the context in four steps (R18). -/
def contextReset (s : State) (c : Nat) : State :=
  let x := getCtx s c
  let s1 := removeWaiter (dropRequests (fillRange s c) c) c
  let s2 := match assignedMessage x with | some q => countLost s1 (partOf s c) 302 (s.dev * 65536 + q) | none => s1
  setCtx s2 c
    { slot := x.slot.bind slotAfterReset
      lastIssue := x.lastIssue
      regs := resetRegs (ctxPart s c) x.regs
      em := x.em, emv := x.emv, born := s.nextSeq }

/-- `XCMD` START (R270, R287): the context enters at `EVEC` with no frame. -/
def startContext (s : State) (c : Nat) : State :=
  modCtx (modPart s (partOf s c) fun q => { q with quiesced := false }) c fun x => { x with
    run := .runnable, priv := true, pc := evecOf s c
    regs := { x.regs with
      cause := BitVec.ofNat 64 cSTART, faddr := 0, finfo := syId s.dev (partOf s c) c, ie := false } }

/-! ## Reissue (R195, R301) -/

/-- A SUSPENDED request issued again: it takes the miss slot, or waits for it; it becomes IDLE when nothing awaits it. -/
def reissueRoutine (s : State) (c : Nat) : State :=
  let x := getCtx s c
  if x.rq.state ≠ 3 then s
  else if !holdsPending x x.rq.op (rqDsts x.rq) then
    setCtx s c { x with rq := { x.rq with state := 0 }, rqWant := false }
  else if x.slot.isSome then setCtx s c { x with rqWant := true }
  else
    let s1 := setCtx s c { x with
      slot := some { id := x.rq.op, kind := .routine, dsts := rqDsts x.rq, pc := x.rq.pc, priv := x.rq.priv }
      rq := { x.rq with state := 1 }, rqSuspended := false, rqWant := false, rqSeq := s.nextSeq }
    queueRoutine s1 (clusterOf c) { ctx := c }

/-- A withdrawn wait placed again, as a new wait (R301). -/
def replaceWait (s : State) (c : Nat) : State :=
  let x := getCtx s c
  match x.withdrawn with
  | none => s
  | some m =>
    if !holdsPending x m.id m.dsts then setCtx s c { x with withdrawn := none, recvWant := false }
    else if x.slot.isSome then setCtx s c { x with recvWant := true }
    else setCtx s c { x with slot := some m, withdrawn := none, recvWant := false }

/-- What the freeing of a miss slot sets in motion: a reissue that waited for it. -/
def settleSlot (s : State) (c : Nat) : State :=
  let x := getCtx s c
  if x.slot.isSome then s
  else if x.rqWant then reissueRoutine s c
  else if x.recvWant then replaceWait s c
  else s

/-- The miss slot freed. -/
def freeSlot (s : State) (c : Nat) : State := settleSlot (modCtx s c fun x => { x with slot := none }) c

/-- A read of registers that hold PENDING: it issues again the suspended request or withdrawn wait that they belong to
(R195 event 2, R301). -/
def touchPending (s : State) (c : Nat) (regs : List Nat) : State :=
  let x := getCtx s c
  let s1 := if x.rq.state = 3 ∧ regs.any (fun r => gOf x r == .pending x.rq.op) then reissueRoutine s c else s
  match x.withdrawn with
  | some m => if regs.any fun r => gOf x r == .pending m.id then replaceWait s1 c else s1
  | none => s1

/-- What parking sets in motion (R195, R301); a store throttled by Reflection is recorded once an epoch (R412). -/
def onPark (s : State) (c : Nat) : Park → State
  | .pending regs => touchPending s c regs
  | .message regs => touchPending s c regs
  | .ctxReg c' r => touchPending s c' [r]
  | .slot => replaceWait s c
  | .reissue => reissueRoutine s c
  | .line pa va => (askShared s c (pa / 8) va).getD s
  | .epoch _ =>
    if s.refl.throttled = some s.refl.current then s
    else report { s with refl := { s.refl with throttled := some s.refl.current } } 0xB004 (.partition (partOf s c))
      [BitVec.ofNat 64 s.refl.current] (some (.cluster (clusterOf c)))
  | _ => s

/-- `SY.eret` to a privilege (R195 event 1, R301). -/
def onEret (s : State) (c : Nat) (priv : Bool) : State :=
  let x := getCtx s c
  let s1 := if x.rq.state = 3 ∧ x.rq.priv = priv then reissueRoutine s c else s
  match x.withdrawn with
  | some m => if m.priv = priv then replaceWait s1 c else s1
  | none => s1

/-- Whether an operation's destinations include a delivery of a bank still to land: its operation has not ended. -/
def opInFlight (x : Ctx) (b : Bank) : Bool :=
  b.inflight.any fun d => match d.val with
    | .op id => !(x.rq.state == 3 && x.rq.op == id) && !(match x.withdrawn with | some m => m.id == id | none => false)
    | _ => false

end Sys2Proof.Machine
end

