-- ==== Sys2Proof/Machine/Collector.lean ====
section
/-!
DEFINITION. The Collector: commands (R176, R177, R180), phases and handshakes (R170, R171), tracing (R172), weak boxes
(R173) and relocation (R174, R175).
-/

namespace Sys2Proof.Machine
open Sys2Proof

/-- The phases (R170). -/
def phIDLE : Nat := 0
def phMARK_START : Nat := 1
def phMARK : Nat := 2
def phMARK_END : Nat := 3
def phWEAK_CLEAR : Nat := 4
def phSELECT : Nat := 5
def phRELOCATE_START : Nat := 6
def phRELOCATE : Nat := 7

def modColl (s : State) (p : Nat) (f : CollWork → CollWork) : State := modPart s p fun q => { q with coll := f q.coll }

/-- Control tokens to every other device of the partition (R179, R322). -/
def tellPeers (s : State) (p kind : Nat) (vals : List W64) : State :=
  (s.routes.filter fun r => r.1 == p).foldl (fun s r => sendCtrl s r.2.1 kind p (vals.map Word.fix)) s

/-- The other devices that hold the partition, by its set-up routes (R24, R179). -/
def peersOf (s : State) (p : Nat) : List Nat := (s.routes.filter fun r => r.1 == p).map fun r => r.2.1

/-- The regions of the heap (R152). -/
def regionCount (q : Partition) : Nat := (q.heaplim.toNat - q.heapbase.toNat) / regionWords

/-- A cluster whose Collector engine serves a partition: for a sealed one, a cluster of its own (R178). -/
def collCluster (s : State) (p : Nat) : Option Nat :=
  let able (k : Nat) : Bool := (getCluster s k).power == .active
  let mine := (ctxsOf s p).map clusterOf
  (List.range s.part.clusters).find? fun k => able k && (!(getPart s p).sealed || mine.contains k)

/-! ## Commands -/

/-- The entries of the region table visited in order. -/
def overRegions (s : State) (g : Agent) (f : State → Nat → Nat → Nat → Nat → State) : State :=
  (List.range (regionCount (getPart s g.part))).foldl (fun s r =>
    match regionEntry s g r with
    | (s1, some (st, gen, live)) => f s1 r st gen live
    | (s1, none) => s1) s

/-- The EVAC regions with the given treatment (R176 FINISH and ABORT). -/
def evacRegionsTo (s : State) (g : Agent) (next : State → Nat → State × Nat) : State :=
  overRegions s g fun s r st gen live =>
    if st = rEVAC then
      let (s1, st1) := next s r
      writeRegion s1 g r st1 gen live
    else s

/-! ## The bitmap of a region -/

/-- The marked objects of a region in bitmap order: address and size (R154). A headered object can start at either word of its unit:
at the first when that is a header, or a FORWARD in its place. A region of the heap lies below its limit (R152). -/
def liveObjects (s : State) (g : Agent) (r : Nat) : State × List (Nat × Nat) :=
  let q := getPart s g.part
  let base := q.heapbase.toNat + r * regionWords
  (List.range (min (regionWords / 2) ((q.heaplim.toNat - base) / 2))).foldl (fun acc u =>
    let a := base + 2 * u
    let os := acc.2
    match markCode acc.1 g a with
    | (s, 1) =>
      let (s1, f) := agLook s g a
      let at' := if classOf q f = clsHEADER ∨ f.tag = tagFORWARD ∨ f.tag = tagPOISON then a else a + 1
      let (s2, h) := agLook s1 g at'
      (s2, os ++ [(at', 1 + bodyLength (tdtOf q h.tag) (hdrLength h))])
    | (s, 2) => (s, os ++ [(a, 2)])
    | (s, 3) =>
      let (s1, before) := markCode s g (a - 2)
      let (s2, after) := markCode s1 g (a + 2)
      if 2 ≤ a ∧ before = 3 ∧ a % 8 = 2 then (s2, os) else (s2, os ++ [(a, if after = 3 then 8 else 4)])
    | (s, _) => (s, os)) (s, [])

/-- The pointer by which the Collector names an object: its tag is one whose entry has the header's tag as HDR_TAG, or, for a cell,
the cell's size. -/
def evacPointer (q : Partition) (first : Word) (size addr gen : Nat) : Word :=
  let tag := ((List.range 256).find? fun t =>
    let e := tdtOf q (BitVec.ofNat 8 t)
    tdtClass e == clsPOINTER &&
      (if classOf q first = clsHEADER then tdtSizeSrc e == 2 && tdtHdrTag e == first.tag
       else tdtSizeSrc e == 1 && tdtFixedSize e == size)).getD 0x40
  ⟨BitVec.ofNat 8 tag, field gen 62 ||| field addr 0⟩

/-- Whether every live object of a region has been evacuated (R174, R176). -/
def evacuated (s : State) (g : Agent) (r : Nat) : State × Bool :=
  let q := getPart s g.part
  let (s1, os) := liveObjects s g r
  os.foldl (fun a o =>
    let (s2, first) := agLook a.1 g o.1
    (s2, a.2 && (first.tag == tagFORWARD || markThree q (evacPointer q first o.2 o.1 0) first))) (s1, true)

/-- The copies that Routine Engines have in hand for a partition given up: what they wrote becomes a FILLH, so that the to-space region
stays parseable (R164). -/
def endCopies (s : State) (p : Nat) (g : Agent) : State :=
  let jobs := s.clusters.flatMap fun k => k.2.reqQ.filterMap RoutineReq.coll ++ k.2.engines.filterMap fun e => e.2.job
  let mine := jobs.filter fun j => j.copy && j.part == p
  dropJobs (mine.foldl (fun s j => (agWrite s g j.dst ⟨tagFILLH, BitVec.ofNat 64 (j.count - 1)⟩).1) s) p

/-- Whether a command is valid in a phase (R176). -/
def collValid (q : Partition) (cmd genmask : Nat) : Bool :=
  match cmd with
  | 0 => true
  | 1 => q.phase == phIDLE && genmask != 0
  | 2 => q.phase == phSELECT
  | 3 => q.phase == phSELECT
  | 4 => q.phase == phMARK_START || q.phase == phMARK || q.phase == phMARK_END || q.phase == phSELECT || q.phase == phRELOCATE
  | _ => false

/-- ABORT (R176). -/
def collAbort (s : State) (p : Nat) : State :=
  let q := getPart s p
  let g := collAgent s p ((collCluster s p).getD 0)
  let stop (s : State) : State := ringDoorbell (modPart s p fun q =>
    { q with abort := true, status := 9, phase := phIDLE, marking := false, weakclr := false, coll := q.coll.fresh }) p 48
  if q.phase = phSELECT then stop (evacRegionsTo s g fun s _ => (s, rOLD))
  else if q.phase = phRELOCATE then
    let s1 := endCopies s p g
    modPart (evacRegionsTo s1 g fun s r => let (s2, b) := evacuated s g r; (s2, if b then rRELOCATED else rOLD)) p fun q =>
      { q with phase := phIDLE, coll := q.coll.fresh }
  else abortCycle s p 9

/-- A command carried out on this device (R176, R179). -/
def collCommand (s : State) (p : Nat) (v : W64) : State :=
  let cmd := bits v 3 0
  let genmask := bits v 11 8
  if !collValid (getPart s p) cmd genmask then modPart s p fun q => { q with status := 7 }
  else
    match cmd with
    | 1 => modPart s p fun q => { q with phase := phMARK_START, genmask, abort := false, status := 0, coll := { q.coll.fresh with allocs := [] } }
    | 2 => modPart s p fun q => { q with phase := phRELOCATE_START, promote := bit v 12, status := 0, coll := q.coll.fresh }
    | 3 => modPart (evacRegionsTo s (collAgent s p ((collCluster s p).getD 0)) fun s _ => (s, rOLD)) p fun q =>
        { q with phase := phIDLE, coll := q.coll.fresh }
    | 4 => collAbort s p
    | _ => s

/-- A write of `COLCMD` on a part with Collector engines (R176, R179): taken on the partition's lowest-numbered device and
carried to the others. -/
def colcmdWrite (s : State) (p : Nat) (v : W64) : State :=
  if (peersOf s p).any fun d => decide (d < s.dev) then modPart s p fun q => { q with status := 7 }
  else
    let ok := collValid (getPart s p) (bits v 3 0) (bits v 11 8)
    let s1 := collCommand s p v
    if ok && bits v 3 0 != 0 then tellPeers s1 p 0x09 [v] else s1

/-- A write of `BARCTL` (R159, R180): read-only but on the AH-9128L, where it sets the colour, which each context takes at its next packet,
WEAKCLR and MARKING. MARKING written from 1 to 0 begins a flush of every log buffer, and reads 1 until the flush ends. -/
def barctlWrite (s : State) (p : Nat) (v : W64) : State :=
  if s.part.full then s
  else
    let q := getPart s p
    let stops := q.marking && !q.flushing && !bit v 3
    let starts := bit v 3 && (!q.marking || q.flushing)
    let s1 := modPart s p fun q => { q with
      bgoodc := bits v 1 0, marking := q.marking || bit v 3, weakclr := bit v 4
      flushing := (q.flushing || stops) && !bit v 3, ovfPos := if starts then 0 else q.ovfPos }
    let s2 := (ctxsOf s1 p).foldl (fun s c => modCtx s c fun x => { x with regs := { x.regs with goodcDue := some (bits v 1 0) } }) s1
    if stops then settleFlush (flushLogs s2 p) p else s2

/-! ## Pointers to other devices (R172, R179, R333) -/

/-- A RESOLVE of a pointer's target sent for the Collector, through a shared entry of its cluster's miss-tracking table; none while no
entry is free. -/
def askResolve (s : State) (g : Agent) (who : UncWho) (w : Word) (far port : Nat) : Option State :=
  if sharedFree s g.cluster then some (sendRemote s 3 g.part g.cluster noCtx who (ptrAddr w) far port g.goodc [] [w]) else none

/-! ## Handshakes (R171, R196) -/

/-- A word of a held context whose target another device holds: rewritten by that device's answer, which NIL stands for where it
refused, and left where no path leads there. -/
def shakeFar (s : State) (g : Agent) (w : Word) (far : Nat) : State × Word × Bool :=
  if ptrColour w = g.goodc then (s, w, false)
  else match ((getPart s g.part).coll.answers.find? fun e => e.1 == far).map Prod.snd with
    | some h => (s, if h.tag = tagNIL then w else ptrAnswered w h, false)
    | none =>
      if s.remotes.any fun r => r.who == .collReg g.part far then (s, w, true)
      else match dataPort s g.part (far / 2 ^ 36) with
        | none => (s, w, false)
        | some port => ((askResolve s g (.collReg g.part far) w far port).getD s, w, true)

/-- A word of a held context resolved and rewritten in place; a failed resolution leaves it. The flag tells of a wait, for a
to-space region, a copy or another device. -/
def shakeWord (s : State) (g : Agent) (w : Word) : State × Word × Bool :=
  if barrierOf (getPart s g.part) w = 0 then (s, w, false)
  else match farTarget s g w with
    | (s, some far) => shakeFar s g w far
    | (s, none) =>
      match resolve s g w 0 false with
      | (s1, .word w1) => (s1, w1, false)
      | (s1, .fault _) => (s1, w, false)
      | (s1, .wait) => (s1, w, true)

def shakeList (s : State) (g : Agent) (ws : List Word) : State × List Word × Bool :=
  ws.foldl (fun a w => let r := shakeWord a.1 g w; (r.1, a.2.1 ++ [r.2.1], a.2.2 || r.2.2)) (s, [], false)

def shakeTab (s : State) (g : Agent) (t : Tab Word) : State × Tab Word × Bool :=
  let r := shakeList s g (t.map Prod.snd)
  (r.1, (t.map Prod.fst).zip r.2.1, r.2.2)

/-- The registers of a context that a handshake rewrites: G, latches and result ports of both banks, the emulation
registers, and the captured operands and progress of a request. -/
def shakeCtx (s : State) (p c goodc : Nat) : State × Bool :=
  let s0 := modCtx s c fun x => { x with regs := { x.regs with goodc } }
  let g := agentOf s0 c
  let x := getCtx s0 c
  let gs := x.g.filterMap fun e => match e.2 with | .word w => some (e.1, w) | _ => none
  let (s1, gs', b1) := shakeTab s0 g gs
  let (s2, u', b2) := shakeTab s1 g x.u.latch
  let (s3, v', b3) := shakeTab s2 g x.s.latch
  let (s4, ae, b4) := shakeList s3 g (x.regs.aemu0 :: x.regs.aemu1 :: x.regs.aemuOps)
  let (s5, ops, b5) := if (getPart s p).defined && x.rq.state != 0
    then shakeList s4 g ([x.rq.a, x.rq.b, x.rq.c] ++ x.rq.prog) else (s4, [x.rq.a, x.rq.b, x.rq.c] ++ x.rq.prog, false)
  let s6 := modCtx s5 c fun x => { x with
    g := gs'.foldl (fun t e => tput t e.1 (.word e.2)) x.g
    u := { x.u with latch := u' }, s := { x.s with latch := v' }
    regs := { x.regs with
      aemu0 := (ae[0]?).getD Word.zero, aemu1 := (ae[1]?).getD Word.zero, aemuOps := ae.drop 2 }
    rq := { x.rq with a := (ops[0]?).getD Word.zero, b := (ops[1]?).getD Word.zero, c := (ops[2]?).getD Word.zero
                      prog := ops.drop 3 } }
  (s6, b1 || b2 || b3 || b4 || b5)

/-- A handshake begun (R171): every context of the partition is held. -/
def beginShake (s : State) (p : Nat) : State :=
  let cs := ctxsOf s p
  modColl (cs.foldl (fun s c => modCtx s c fun x => { x with held := true }) s) p fun k => { k with shake := cs, answers := [], started := true }

/-- The contexts that a handshake holds rewritten; one of which a word waits stays held, the others are released. -/
def shakeRound (s : State) (p : Nat) : State :=
  let one (a : State × List Nat) (c : Nat) : State × List Nat :=
    match shakeCtx a.1 p c (getPart s p).bgoodc with
    | (s1, true) => (s1, a.2 ++ [c])
    | (s1, false) => (modCtx s1 c fun x => { x with held := false }, a.2)
  let r := (getPart s p).coll.shake.foldl one (s, [])
  modColl r.1 p fun k => { k with shake := r.2 }

/-! ## Tracing (R172) -/

/-- How a traced slot ends: done, the pass ended, or a wait. -/
inductive TraceEnd where
  | ok
  | stop (status : Nat)
  | wait
deriving DecidableEq, Repr

/-- The heal of a traced slot, which a root in a ring names by its physical address; a root's slot may lie on another device. -/
def healTraced (s : State) (g : Agent) (phys : Bool) (slot : Nat) (old new : Word) : State :=
  if old = new then s else if phys then healAt s 0 slot slot old new else healSlot s g 0 slot old new

/-- A traced pointer to another device (R172, R179): a mark request to that device's Collector while marking, and a RESOLVE whose answer
heals the slot where the colour is not good. -/
def traceFar (s : State) (g : Agent) (phys : Bool) (slot : Nat) (w : Word) (far : Nat) : State × TraceEnd :=
  let d := far / 2 ^ 36
  let mark (s : State) : State :=
    if (getPart s g.part).marking then sendHw s .markReq g.part (d * 65536 + Config.markBinding g.part d % 65536) [w] else s
  match dataPort s g.part d with
  | none => (s, .stop 2)
  | some port =>
    if ptrColour w = g.goodc then (mark s, .ok)
    else match askResolve s g (.collSlot g.part phys slot w) w far port with
      | some s1 => (mark s1, .ok)
      | none => (s, .wait)

/-- The word of a traced slot: resolved, its colour and GEN healed. -/
def traceWord (s : State) (g : Agent) (phys : Bool) (slot : Nat) (w : Word) (weak : Bool) : State × TraceEnd :=
  let q := getPart s g.part
  if w.tag = tagPOISON then (report s 0x5007 (.partition g.part) [BitVec.ofNat 64 slot], .ok)
  else if barrierOf q w = 0 then (s, .ok)
  else match farTarget s g w with
    | (s, some far) => traceFar s g phys slot w far
    | (s, none) =>
      match resolve s g w slot weak with
      | (s2, .fault _) => (s2, .ok)
      | (s2, .wait) => (s2, .wait)
      | (s2, .word w1) =>
        let (s3, e) := if inHeap q (ptrAddr w1) then regionEntry s2 g (regionOf q (ptrAddr w1)) else (s2, none)
        let w2 := match e with
          | some (_, gen, _) => if isPointer q w1 then ptrRetarget w1 (ptrAddr w1) gen else w1
          | none => w1
        if !phys && healWaits s3 g slot w w2 then (s3, .wait)
        else
          let s4 := if ptrGen w2 ≠ ptrGen w1 then report s3 0x5006 (.partition g.part) [BitVec.ofNat 64 slot] else s3
          (healTraced s4 g phys slot w w2, .ok)

/-- A root's word that another device holds: asked for, to be traced when it comes (R156, R327). -/
def traceFarSlot (s : State) (g : Agent) (slot pa : Nat) : State × TraceEnd :=
  match dataPort s g.part (pa / 2 ^ 36) with
  | none => (s, .stop 2)
  | some port =>
    if sharedFree s g.cluster then (sendRemote s 0 g.part g.cluster noCtx (.collWord g.part slot) slot pa port 0 [] [], .ok)
    else (s, .wait)

/-- One traced slot. -/
def traceSlot (s : State) (g : Agent) (slot : Nat) (weak : Bool) : State × TraceEnd :=
  match unitXlate s g.unit g.part g.asid g.root (agReq slot .load) with
  | (s1, .inr _) => (s1, .ok)
  | (s1, .inl e) =>
    if e.typ = 3 then traceFarSlot s1 g slot (entPa e slot)
    else match agRead s1 g slot with
      | (s2, .inr _) => (s2, .ok)
      | (s2, .inl w) => traceWord s2 g false slot w weak

/-- Consecutive slots traced, until one stops or waits, with the number left. -/
def traceRun (s : State) (g : Agent) (base : Nat) : Nat → State × TraceEnd × Nat
  | 0 => (s, .ok, 0)
  | n + 1 =>
    match traceSlot s g base false with
    | (s1, .ok) => traceRun s1 g (base + 1) n
    | (s1, r) => (s1, r, n + 1)

/-- A COL_SCAN request for consecutive slots (R172, R188). -/
def askScan (s : State) (g : Agent) (base n : Nat) : State :=
  askEngine s g.cluster { part := g.part, copy := false, ptr := Word.nil, first := Word.nil, src := base, count := n }

/-- Consecutive slots traced; what waits for a miss-tracking entry is left to a Routine Engine's scan. -/
def traceRange (s : State) (g : Agent) (base n : Nat) : State × TraceEnd :=
  match traceRun s g base n with
  | (s1, .wait, left) => (askScan s1 g (base + (n - left)) left, .ok)
  | (s1, r, _) => (s1, r)

/-- A body's slots traced: one of more than 256 words by the scan of a Routine Engine of the cluster (R172). -/
def traceBody (s : State) (g : Agent) (base n : Nat) : State × TraceEnd :=
  if 256 < n then (askScan s g base n, .ok) else traceRange s g base n

/-- The body of a marked object scanned under its SCAN rule. -/
def scanObject (s : State) (g : Agent) (w : Word) : State × TraceEnd :=
  let q := getPart s g.part
  let a := ptrAddr w
  let e := tdtOf q w.tag
  if tdtSizeSrc e = 1 then
    if tdtScan e = 0 then (s, .ok) else traceRange s g a (tdtFixedSize e)
  else
    let (s, h) := agLook s g a
    let he := tdtOf q h.tag
    if hdrReserved h ≠ 0 then (s, .stop 1)
    else
      let len := bodyLength he (hdrLength h)
      match tdtScan he with
      | 1 => traceBody s g (a + 1) len
      | 2 =>
        let s1 := if len < hdrAux h then report s 0x5005 (.partition g.part) [BitVec.ofNat 64 a] else s
        traceBody s1 g (a + 1) (min len (hdrAux h))
      | 3 =>
        let s1 := if 0 < len then sendHw s .weak g.part (bits q.weakq 19 0) [w] else s
        traceBody s1 g (a + 2) (len - 1)
      | _ => (s, .ok)

/-- The end of a unit of work: the abort of a pass with a status (R177), or nothing. -/
def endTrace (p : Nat) (r : State × TraceEnd) : State :=
  match r.2 with
  | .ok => r.1
  | .wait => modColl r.1 p fun k => { k with held := true }
  | .stop st => abortCycle r.1 p st

/-- The addresses of the message words that lie between a ring's head and tail. -/
def ringWords (s : State) (qn : Nat) : List Nat :=
  let x := getQ s qn
  (List.range x.occ).flatMap fun i =>
    let sa := x.slotAt (x.head + i)
    (List.range (min (bits (cohRead s sa).pay 3 0) x.maxN)).map fun j => (sa + 1 + j) % 2 ^ 36

/-- Words of a ring traced as slots at their physical addresses. -/
def traceWords (s : State) (g : Agent) : List Nat → State × TraceEnd
  | [] => (s, .ok)
  | pa :: rest =>
    match traceWord s g true pa (cohRead s pa) false with
    | (s1, .ok) => traceWords s1 g rest
    | r => r

/-- A root descriptor scanned (R156). DEDUCED (log entry 20): a QUEUE root of another device's queue is scanned there, since no request of
R327 reads another device's queue. -/
def scanRoot (s : State) (g : Agent) (p : Nat) : State :=
  let q := getPart s p
  let va := q.roottab.toNat + 2 * q.coll.rootIx
  let next (s : State) : State := modColl s p fun k => { k with rootIx := k.rootIx + 1 }
  match agRead s g va with
  | (s, .inl w0) =>
    if w0.tag = tagNIL then modColl s p fun k => { k with rootsDone := true }
    else match agRead s g (va + 1) with
      | (s, .inl w1) =>
        if w0.tag ≠ tagRAW ∨ w1.tag = tagPOISON then abortCycle s p 8
        else match bits w0.pay 63 60 with
          | 0 => if w1.tag ≠ tagFIX then abortCycle s p 8
                 else endTrace p (let r := traceRange s g (bits w0.pay 47 0) w1.pay.toNat; (next r.1, r.2))
          | 1 =>
            let c := w1.pay.toNat
            if w1.tag ≠ tagFIX ∨ owned s c = false ∨ partOf s c ≠ p then abortCycle s p 8
            else
              let top := (latchOf (getCtx s c).u pDSsp).pay.toNat
              endTrace p (let r := traceRange s g (bits w0.pay 47 0) (top - bits w0.pay 47 0); (next r.1, r.2))
          | 2 =>
            let r := traceWords s g (ringWords s (queueHere s (bits w0.pay 19 0)))
            endTrace p (match r.2 with | .ok => (next r.1, .ok) | _ => r)
          | _ => abortCycle s p 8
      | (s, .inr _) => abortCycle s p 8
  | (s, .inr _) => abortCycle s p 8

/-- A card of a region outside GENMASK whose bits name a collected generation, cleared and scanned (R166, R170). -/
def scanCard (s : State) (g : Agent) (p : Nat) : State :=
  let q := getPart s p
  let i := q.coll.card
  let a := q.heapbase.toNat + i * 128
  let next (s : State) : State := modColl s p fun k => { k with card := i + 1 }
  if q.heaplim.toNat ≤ a then modColl s p fun k => { k with cardsDone := true }
  else match regionEntry s g (regionOf q a) with
    | (s, some (_, gen, _)) =>
      let (s, w) := agLook s g (cardAddr q a)
      let hit := Nat.land (bits w.pay 3 0) q.genmask
      if (q.genmask / 2 ^ gen) % 2 = 1 ∨ hit = 0 then next s
      else
        let s1 := (agWrite s g (cardAddr q a) ⟨tagRAW, w.pay &&& ~~~(field q.genmask 0)⟩).1
        endTrace p (let r := traceRange s1 g a 128; (next r.1, r.2))
    | (s, none) => next s

/-- A logged word marked (R169): one outside the heap or in a FREE region is discarded. -/
def markLogged (s : State) (g : Agent) (w : Word) : State :=
  let q := getPart s g.part
  if barrierOf q w = 0 ∨ inHeap q (ptrAddr w) = false then s
  else match regionEntry s g (regionOf q (ptrAddr w)) with
    | (s1, some (0, _, _)) => s1
    | (s1, _) => (resolve s1 g w (ptrAddr w) false).1

/-- The snapshot queue's number on this device. -/
def satbQueue (s : State) (q : Partition) : Nat := queueHere s (bits q.satbq 19 0)

/-- One unit of marking work, in the order: an object to scan, a root, a card, a logged message, an overflow word. While the weak queue is full
the Collector waits (R172). -/
def markWork (s : State) (p cl : Nat) : State :=
  let q := getPart s p
  let g := collAgent s p cl
  if q.coll.weakFull || !sharedFree s cl then s
  else match q.coll.markQ with
  | w :: rest => endTrace p (scanObject (modColl s p fun k => { k with markQ := rest, held := false }) g w)
  | [] =>
    if !q.coll.rootsDone then scanRoot s g p
    else if !q.coll.cardsDone then scanCard s g p
    else match hwHead s (bits q.satbq 19 0) with
      | some (qn, ws) => ws.foldl (fun s w => markLogged s g w) (dequeue s qn)
      | none =>
        if hwOcc s (bits q.satbq 19 0) = 0 ∧ q.coll.ovfRead < q.ovfPos then
          let (s1, w) := agLook s g (bits q.satbovf 47 0 + q.coll.ovfRead)
          markLogged (modColl s1 p fun k => { k with ovfRead := k.ovfRead + 1 }) g w
        else s

/-- Whether a Routine Engine has a Collector's request of a partition in hand or waiting. -/
def jobsLeft (s : State) (p : Nat) : Bool :=
  let mine (j : CollJob) : Bool := j.part == p
  s.clusters.any fun k => (k.2.reqQ.any fun q => q.coll.any mine) || k.2.engines.any fun e => e.2.job.any mine

/-- Whether another device still resolves a word for a partition's Collector. -/
def farLeft (s : State) (p : Nat) : Bool :=
  s.remotes.any fun r => r.part == p && (match r.who with | .collSlot .. | .collReg .. | .collWord .. => true | _ => false)

/-- Whether a message of a partition's Collector has not been accepted (R308). -/
def collOnWay (s : State) (p : Nat) : Bool :=
  let mine (m : Msg) : Bool := m.part == p && (match m.kind with | .satb _ _ => true | .markReq => true | .weak => true | _ => false)
  s.msgs.any mine || s.outbox.any fun e => mine e.msg

/-- The Collector's work is empty (R170). -/
def markIdle (s : State) (p : Nat) : Bool :=
  let q := getPart s p
  q.coll.markQ.isEmpty && q.coll.rootsDone && q.coll.cardsDone && (getQ s (satbQueue s q)).occ == 0 &&
    decide (q.ovfPos ≤ q.coll.ovfRead) && !jobsLeft s p && !farLeft s p && !collOnWay s p

/-! ## LIVE and the freeing of regions -/

/-- LIVE written for every region of GENMASK (R170 MARK_END). -/
def writeLive (s : State) (g : Agent) : State :=
  let q := getPart s g.part
  overRegions s g fun s r st gen live =>
    if (q.genmask / 2 ^ gen) % 2 = 1 then
      let (s1, os) := liveObjects s g r
      writeRegion s1 g r st gen ((os.map Prod.snd).foldl (· + ·) 0 % 2 ^ 19)
    else writeRegion s g r st gen live

/-- The regions that are ALLOC, by number: what MARK_END finds so is neither freed nor evacuated in the cycle (R153). -/
def noteAllocs (s : State) (g : Agent) : State :=
  overRegions s g fun s r st _ _ =>
    if st = rALLOC then modColl s g.part fun k => { k with allocs := k.allocs ++ [r] } else s

/-- The regions freed at the end of WEAK_CLEAR (R153, R170). -/
def freeRegions (s : State) (g : Agent) : State :=
  let q := getPart s g.part
  overRegions s g fun s r st gen live =>
    if !q.coll.allocs.contains r &&
        (st == rRELOCATED || ((st == rOLD || st == rPINNED) && (q.genmask / 2 ^ gen) % 2 == 1 && live == 0))
    then writeRegion s g r rFREE gen live else s

/-- The regions that were ALLOC at MARK_END and that software has selected all the same returned to OLD, as FINISH returns a region: they are
not evacuated in this cycle (R153). DESIGN CHOICE (log entry 20). -/
def dropAllocs (s : State) (g : Agent) : State :=
  let allocs := (getPart s g.part).coll.allocs
  overRegions s g fun s r st gen live => if st = rEVAC ∧ allocs.contains r = true then writeRegion s g r rOLD gen live else s

/-! ## Phases (R170) -/

/-- The region table names a reserved state, or an entry of it is not RAW or cannot be read (R153). -/
def badRegion (s : State) (g : Agent) : State × Bool :=
  (List.range (regionCount (getPart s g.part))).foldl (fun a r =>
    let (s1, e) := regionEntry a.1 g r
    (s1, a.2 || e.isNone)) (s, false)

/-- Every bitmap word of the regions of GENMASK cleared. -/
def clearBitmap (s : State) (g : Agent) : State :=
  let q := getPart s g.part
  overRegions s g fun s r _ gen _ =>
    if (q.genmask / 2 ^ gen) % 2 = 1 then
      (List.range (regionWords / 64)).foldl (fun s i =>
        (agWrite s g (q.mbmbase.toNat + r * (regionWords / 64) + i) ⟨tagRAW, 0⟩).1) s
    else s

/-- MARK_START: a new cycle with its mark colour, and the handshake begun. -/
def doMarkStart (s : State) (g : Agent) (p : Nat) : State :=
  match badRegion s g with
  | (s, true) => abortCycle s p 3
  | (s, false) =>
    let s1 := clearBitmap s g
    let cyc := ((getPart s p).cycle + 1) % 2 ^ 32
    beginShake (modPart s1 p fun q => { q with
      cycle := cyc, bgoodc := if cyc % 2 = 1 then 1 else 2, marking := true, ovfPos := 0, coll := q.coll.fresh }) p

/-- A phase of a cycle, as the devices of a partition name it to each other. -/
def phaseStamp (q : Partition) : Nat := q.cycle * 16 + q.phase

/-- Whether the phase has ended on every other device of the partition (R179). -/
def peersEnded (s : State) (p : Nat) : Bool :=
  (peersOf s p).all fun d => decide (phaseStamp (getPart s p) ≤ tget 0 (getPart s p).coll.peers d)

/-- The end of a phase that this device has told taken back, where new work has come (R179): the other devices are told the phase before
it. -/
def withdrawEnd (s : State) (p : Nat) : State :=
  let q := getPart s p
  if q.coll.told = phaseStamp q ∧ q.phase ≠ phIDLE then
    tellPeers (modColl s p fun k => { k with told := 0 }) p 0x0A [BitVec.ofNat 64 (q.phase - 1), BitVec.ofNat 64 q.cycle]
  else s

/-- The end of this device's part of a phase: told once to the other devices, and the step to the next phase made when the phase has ended
on every one (R179). -/
def endPhase (s : State) (p : Nat) (go : State → State) : State :=
  let q := getPart s p
  let s1 := if q.coll.told = phaseStamp q then s
    else tellPeers (modColl s p fun k => { k with told := phaseStamp q }) p 0x0A [BitVec.ofNat 64 q.phase, BitVec.ofNat 64 q.cycle]
  if peersEnded s1 p then go s1 else s1

/-- The phase changed. -/
def setPhase (ph : Nat) (p : Nat) (s : State) : State := modPart s p fun q => { q with phase := ph, coll := q.coll.fresh }

/-- Whether a core's log buffer holds a word of a partition: a flush would yield something (R170). -/
def logsHeld (s : State) (p : Nat) : Bool := s.cores.any fun e => !(logOf e.2 p).isEmpty

/-- The end of MARK_END: LIVE written and marking over, in one step. -/
def endMark (s : State) (g : Agent) (p : Nat) : State :=
  modPart (noteAllocs (writeLive s g) g) p fun q => { q with marking := false, weakclr := true, phase := phWEAK_CLEAR, coll := q.coll.fresh }

/-- MARK_END: the handshake that flushes every log buffer, and again until a flush yields nothing and the work is empty. -/
def doMarkEnd (s : State) (g : Agent) (p : Nat) : State :=
  let k := (getPart s p).coll
  if !k.started then shakeRound (beginShake (flushLogs s p) p) p
  else if !k.shake.isEmpty then shakeRound s p
  else if !markIdle s p then withdrawEnd s p
  else if logsHeld s p then shakeRound (beginShake (flushLogs s p) p) p
  else endPhase s p fun s => endMark s g p

/-- The first region in state EVAC, with its generation. -/
def firstEvac (s : State) (g : Agent) : State × Option (Nat × Nat) :=
  (List.range (regionCount (getPart s g.part))).foldl (fun a r =>
    match a.2 with
    | some _ => a
    | none => match regionEntry a.1 g r with
      | (s1, some (3, gen, _)) => (s1, some (r, gen))
      | (s1, _) => (s1, none)) (s, none)

/-- Whether a region is still in state EVAC. -/
def evacLeft (s : State) (g : Agent) : Bool := (firstEvac s g).2.isSome

/-- The boxes that the weak queue still holds, and the words of boxes that other devices still resolve. -/
def weakLeft (s : State) (p : Nat) : Bool :=
  (getQ s (queueHere s (bits (getPart s p).weakq 19 0))).occ != 0 || farLeft s p || collOnWay s p

/-- A partition's cycle moved to its next phase, where the phase has ended (R170). -/
def phaseAdvance (s : State) (p : Nat) : State :=
  match collCluster s p with
  | none => s
  | some cl =>
    let g := collAgent s p cl
    let q := getPart s p
    match q.phase with
    | 1 =>
      let s1 := if q.coll.started then s else doMarkStart s g p
      if (getPart s1 p).phase ≠ phMARK_START then s1
      else
        let s2 := shakeRound s1 p
        if (getPart s2 p).coll.shake.isEmpty then endPhase s2 p fun s =>
          modPart s p fun q => { q with
            phase := phMARK, coll := { q.coll with rootIx := 0, rootsDone := false, card := 0, cardsDone := false, ovfRead := 0, started := false } }
        else s2
    | 2 =>
      if markIdle s p then endPhase s p fun s => modPart s p fun q =>
        { q with phase := phMARK_END, coll := { q.coll with started := false } }
      else s
    | 3 => doMarkEnd s g p
    | 4 =>
      if weakLeft s p then s
      else endPhase s p fun s => ringDoorbell (modPart (freeRegions s g) p fun q =>
        { q with weakclr := false, phase := phSELECT, coll := q.coll.fresh }) p 48
    | 6 =>
      let s1 := if q.coll.started then s else beginShake (modPart (dropAllocs s g) p fun q => { q with bgoodc := 3 }) p
      let s2 := shakeRound s1 p
      if (getPart s2 p).coll.shake.isEmpty then endPhase s2 p (setPhase phRELOCATE p) else s2
    | 7 =>
      let (s, left) := firstEvac s g
      if left.isSome || jobsLeft s p then s
      else endPhase s p fun s => ringDoorbell (modPart s p fun q =>
        { q with phase := phIDLE, status := if q.coll.poison then 6 else q.status, coll := q.coll.fresh }) p 48
    | _ => s

/-! ## Weak boxes and relocation (R173 to R175) -/

/-- A box taken from the weak queue: its body word 0 resolved under the weak rule and healed, by the device that holds the referent where that is
another (R173, R333). -/
def weakVisit (s : State) (p : Nat) : State :=
  let q := getPart s p
  match collCluster s p, hwHead s (bits q.weakq 19 0) with
  | some cl, some (qn, ws) =>
    if q.phase ≠ phWEAK_CLEAR ∨ sharedFree s cl = false then s
    else
      let g := collAgent s p cl
      let box := (ws[0]?).getD Word.zero
      let s1 := dequeue s qn
      if isPointer q box = false then s1
      else
        let (s2, first) := agLook s1 g (ptrAddr box)
        let a := if first.tag = tagFORWARD then ptrAddr first else ptrAddr box
        match traceSlot s2 g (a + 1) true with
        | (_, .wait) => s
        | (s3, _) => s3
  | _, _ => s

/-- The next live object of a region at or after a unit. -/
def nextLive (s : State) (g : Agent) (r unit : Nat) : State × Option (Nat × Nat) :=
  let base := (getPart s g.part).heapbase.toNat + r * regionWords
  let live := liveObjects s g r
  (live.1, live.2.find? fun o => decide (base + 2 * unit ≤ o.1))

/-- One object of an EVAC region evacuated (R174), or a region finished, or pinned for a POISON first word (R175). -/
def evacStep (s : State) (p : Nat) : State :=
  match collCluster s p with
  | none => s
  | some cl =>
    let g := collAgent s p cl
    let q := getPart s p
    if q.phase ≠ phRELOCATE ∨ sharedFree s cl = false then s
    else match firstEvac s g with
      | (s, none) => s
      | (s, some (r, gen)) =>
        let unit := if q.coll.region = r + 1 then q.coll.unit else 0
        match nextLive s g r unit with
        | (s, none) => modColl (setRegion s g r rRELOCATED gen) p fun k => { k with region := 0, unit := 0 }
        | (s, some (a, size)) =>
          let past := (a - (q.heapbase.toNat + r * regionWords)) / 2 + 1
          let go (s : State) : State := modColl s p fun k => { k with region := r + 1, unit := past }
          let (s, first) := agLook s g a
          if first.tag = tagFORWARD then go s
          else if first.tag = tagPOISON then
            modColl (pinRegion s g r gen) p fun k => { k with region := 0, unit := 0 }
          else if markThree q (evacPointer q first size a gen) first then go s
          else match evacuate s g (evacPointer q first size a gen) gen with
            | (s1, .word _) => go s1
            | (s1, _) => s1

/-! ## The L2 maintenance port (R235) -/

/-- The completions that a range engine has still to see accepted: held, or on their way (R234). -/
def rangeOwing (s : State) (cl : Nat) : Nat :=
  let mine (m : Msg) : Bool := m.kind == .rangeDone cl
  (getCluster s cl).rangeHeld.length + (s.msgs.filter mine).length + (s.outbox.filter fun e => mine e.msg).length

/-- Whether a cluster's range engine asks for the port. -/
def rangePending (s : State) (cl : Nat) : Bool :=
  match (getCluster s cl).rangeQ with
  | r :: _ => decide (rangeOwing s cl < 8) && storesDone s r.ctx r.seq && !reflPauses s r.part && decide (r.done < r.len)
  | [] => false

/-- Whether the Collector engine of a cluster has marking work for a partition: an object, a root, a card, or logged words (R169, R235). -/
def markPending (s : State) (cl : Nat) : Bool :=
  s.parts.any fun e => e.2.defined && e.2.marking && !e.2.coll.held && !e.2.coll.weakFull &&
    (!e.2.coll.markQ.isEmpty || !e.2.coll.rootsDone || !e.2.coll.cardsDone || hwOcc s (bits e.2.satbq 19 0) != 0 ||
      decide (e.2.coll.ovfRead < e.2.ovfPos)) && (e.2.phase == phMARK || e.2.phase == phMARK_END) && collCluster s e.1 == some cl

/-- Whether it has a weak box to visit or an object to move. -/
def movePending (s : State) (cl : Nat) : Bool :=
  s.parts.any fun e => e.2.defined && collCluster s e.1 == some cl &&
    ((e.2.phase == phWEAK_CLEAR && hwOcc s (bits e.2.weakq 19 0) != 0) || (e.2.phase == phRELOCATE && e.2.status != 4 && evacLeft s (collAgent s e.1 cl)))

/-- Whether the Collector wins a round of the port from the range engine: always while it marks, otherwise when it did not win the round
before. -/
def collWins (s : State) (cl : Nat) : Bool := markPending s cl || (movePending s cl && (getCluster s cl).rangeWon)

/-- A round of the port served. -/
def portRound (s : State) (cl : Nat) (range : Bool) : State := modCluster s cl fun k => { k with rangeWon := range }

/-- A Collector's operation that is no marking work, when the round of the port is its own. -/
def collRound (s : State) (p : Nat) (run : State → State) : State :=
  match collCluster s p with
  | none => s
  | some cl =>
    if reflPauses s p || (rangePending s cl && !(getCluster s cl).rangeWon) then s else run (portRound s cl false)

/-! ## The commands -/

/-- COLLECTOR_PHASE_ADVANCE. -/
def execCollectorPhaseAdvance (part : Nat) (s : State) : Host.Outcome State Fault Refusal :=
  .next (if reflPauses s part || (collCluster s part).any (fun cl => !sharedFree s cl) then s else phaseAdvance s part)

/-- COLLECTOR_MARK_WORK: while the phase traces. -/
def execCollectorMarkWork (part : Nat) (s : State) : Host.Outcome State Fault Refusal :=
  let q := getPart s part
  match collCluster s part with
  | some cl => .next (if (q.phase = phMARK ∨ q.phase = phMARK_END) ∧ reflPauses s part = false then markWork (portRound s cl false) part cl else s)
  | none => .next s

/-- WEAK_BOX_VISIT. -/
def execWeakBoxVisit (part : Nat) (s : State) : Host.Outcome State Fault Refusal :=
  .next (collRound s part fun s => weakVisit s part)

/-- COLLECTOR_EVACUATION. -/
def execCollectorEvacuation (part : Nat) (s : State) : Host.Outcome State Fault Refusal :=
  .next (collRound s part fun s => evacStep s part)

end Sys2Proof.Machine
end

