-- ==== Sys2Proof/Machine/Control.lean ====
section
/-!
DEFINITION. The control registers of the `SY` window (R137, R138): reading, writing, and what a write can do besides
(R61, R109, R140, R157, R197, R225, R233, R237, R264, R287, R288, R311, R371).
-/

namespace Sys2Proof.Machine
open Sys2Proof

/-! ## Numbers -/

/-- Whether the table of R137 and the chapters assign a number. -/
def crAssigned (n : Nat) : Bool :=
  decide (n ≤ 0x10E) || (decide (0x110 ≤ n) && decide (n ≤ 0x120)) || (decide (0x140 ≤ n) && decide (n ≤ 0x142)) ||
    (decide (0x180 ≤ n) && decide (n ≤ 0x182)) || (decide (0x188 ≤ n) && decide (n ≤ 0x194)) ||
    (decide (0x1C0 ≤ n) && decide (n ≤ 0x1CB)) || (decide (0x200 ≤ n) && decide (n ≤ 0x204)) ||
    (decide (0x210 ≤ n) && decide (n ≤ 0x214)) || (decide (0x240 ≤ n) && decide (n ≤ 0x249)) ||
    (decide (0x280 ≤ n) && decide (n ≤ 0x284)) ||
    (decide (0x400 ≤ n) && decide (n < 0x800) &&
      ((portAt (n - 0x400)).kind == .latch || (portAt (n - 0x400)).kind == .result))

/-- The registers that take a word of any tag, or discard one (R137). -/
def crAnyTag (n : Nat) : Bool :=
  n == 0x10C || n == 0x10D || n == 0x120 || (decide (0x280 ≤ n) && decide (n ≤ 0x284)) ||
    (decide (0x241 ≤ n) && decide (n ≤ 0x247)) || decide (0x400 ≤ n)

/-- Whether the context that `XSEL` names belongs to the partition (R287). -/
def xselOk (s : State) (e : Env) : Bool := owned s e.x.regs.xsel && partOf s e.x.regs.xsel == e.pn

/-- Whether the queue that `QSEL` names belongs to the partition (R311). -/
def ownsQueue (s : State) (p q : Nat) : Bool := (getQ s q).owned && (getQ s q).owner == p

/-- A selected context or queue that the partition does not own (R287, R311). -/
def crSelectFault (s : State) (e : Env) (n : Nat) (write : Bool) : Bool :=
  if n = 0x11D then write && !xselOk s e
  else if n = 0x11E then !write && !xselOk s e
  else if n = 0x120 then !xselOk s e
  else if 0x1C1 ≤ n ∧ n ≤ 0x1C7 then !ownsQueue s e.pn e.x.regs.qsel
  else false

/-! ## FEAT (R371) -/

def partCode : Part → Nat
  | .ah9512 => 1
  | .ah9256 => 2
  | .ah9128L => 3

/-- `FEATi` as a partition reads it. -/
def featReg (s : State) (p i : Nat) : W64 :=
  let t := s.part
  let q := getPart s p
  match i with
  | 0 => field s.dev 36 ||| field t.mesh 31 ||| field t.ports 26 ||| field t.stacks 22 ||| field t.clusters 16 |||
      field (Config.fusedStepping % 256) 8 ||| field (partCode t) 0
  | 1 => field (2 ^ t.clusters - 1) 0
  | 2 => flagBit true 3 ||| flagBit t.hasReflect 2 ||| flagBit t.full 1 ||| flagBit t.full 0
  | 3 => field (2 ^ t.ports - 1) 8 ||| field (2 ^ t.stacks - 1) 0
  | 4 => field (bits Config.fusedRomId 15 0) 0
  | 5 => field (bits s.img.id 31 0) 32 ||| flagBit q.reformed 4 ||| flagBit q.mirrored 3 ||| flagBit q.sealed 2 |||
      flagBit s.img.inForce 1 ||| flagBit s.img.lock 0
  | 6 => field (s.img.svn % 2 ^ 32) 0
  | _ => 0

/-! ## Reading -/

def runCode : RunState → Nat
  | .notStarted => 0
  | .runnable => 1
  | .haltedFault => 2
  | .resetting => 3

/-- `RPT.left` (R106). -/
def repeatLeft (x : Ctx) : Nat := match x.rpt with | .active n => n - 1 | _ => 0

/-- The word below a return-stack pointer as `RS.top` reads it; where the stack names no readable word the spec gives no
value, and it is free. -/
def rsTopValue (s : State) (e : Env) (sp : Word) : Word :=
  match rsTopWord s e sp (.park .slot) with
  | .ok w => w
  | .error _ => ⟨tagFIX, Config.freeW64 s.freeIx⟩

/-- A number of the U-bank image (R138). DESIGN CHOICE (log entry 49): the computed ports `PC.pc`, `RS.top`, `RPT.left` and `SY.id` read
there as they do for the packet that executes, `RS.top` through the U bank's `RS.sp`, and a write to one is discarded. -/
def uImageRead (s : State) (e : Env) (a : Nat) : Word :=
  if a = 0x100 then Word.fixN e.pc
  else if a = 0x124 then rsTopValue s e (latchOf e.x.u pRSsp)
  else if a = 0x180 then Word.fixN (repeatLeft e.x)
  else if a = 0x1AB then Word.fix (syId s.dev e.pn e.c)
  else latchOf e.x.u a

/-- The selected queue's registers (R311). -/
def queueReg (x : Queue) (n : Nat) : W64 :=
  match n with
  | 0x1C1 => flagBit x.slot16 57 ||| field x.log2 52 ||| field x.base 0
  | 0x1C2 => field x.bind 62 ||| flagBit x.wake 61 ||| field x.dbit 42 ||| flagBit x.wmen 41 ||| field x.vector 16 ||| field x.ctx 0
  | 0x1C3 => field x.send 0
  | 0x1C4 => field x.hiwm 32 ||| field x.lowm 0
  | 0x1C5 => field x.tail 32 ||| field x.head 0
  | 0x1C6 => field x.owner 59 ||| field x.sunres 32 ||| field x.waiters.length 16 ||| flagBit x.refused 5 |||
      flagBit x.high 4 ||| flagBit x.enabled 0
  | _ => 0

/-- `GPEND` (R288). -/
def gpendOf (x : Ctx) : W64 :=
  (List.range 64).foldl (fun v r => match gOf x r with | .word _ => v | _ => v ||| flagBit true r) 0

/-- `L2CFG` and `L2STAT` (R237). -/
def l2cfgReg (k : Cluster) : W64 := flagBit k.nsp 19 ||| field k.lockMask 8 ||| field k.spWays 0
def l2statReg (k : Cluster) : W64 :=
  field k.disWays 32 ||| field k.penWays 16 ||| flagBit k.cfgErr 2 ||| flagBit k.conflict 1

/-- `COLSTAT` (R177, R180). -/
def colstatReg (t : Part) (q : Partition) : W64 :=
  field q.cycle 32 ||| field (if t.full then q.status else 0) 16 ||| field q.genmask 12 ||| flagBit q.abort 8 |||
    field (if t.full then q.phase else 0) 0

/-- `RQCTL` (R197). -/
def rqctlReg (r : RqRec) : W64 :=
  field (min r.segs 0xFFFF) 48 ||| field r.routine 40 ||| field r.dst 34 ||| flagBit r.two 33 ||| flagBit r.priv 32 |||
    field r.state 0

/-- `REROM` (R197): the patch set that every engine holds (R201). -/
def reromReg (t : Trust) : W64 :=
  field t.patch.length 32 ||| field ((t.matchRegs.filter fun m => decide (2 ^ 31 ≤ m.2)).length) 24 |||
    field (bits Config.fusedRomId 15 0) 0

/-- The word that a control register reads as (R137). DESIGN CHOICE (log entry 49): a count is the one before the reading packet. -/
def crValue (s : State) (e : Env) (n : Nat) : Word :=
  let x := e.x
  let r := x.regs
  let q := e.p
  let k := getCore s (coreOf e.c)
  let cl := getCluster s (clusterOf e.c)
  let sel := getCtx s r.xsel
  let fix (v : W64) : Word := Word.fix v
  if n ≤ 0xFF then fix (tdtOf q (BitVec.ofNat 8 n))
  else if n ≤ 0x107 then fix (featReg s e.pn (n - 0x100))
  else if 0x400 ≤ n then uImageRead s e (n - 0x400)
  else if 0x1C1 ≤ n ∧ n ≤ 0x1C7 then fix (queueReg (getQ s r.qsel) n)
  else match n with
    | 0x108 => fix (flagBit r.dchk 0)
    | 0x109 => Word.fixN x.u.count
    | 0x10A => Word.fixN x.s.count
    | 0x10B => Word.fixN (flagsNat x.u.flags)
    | 0x10C => r.aemu0
    | 0x10D => r.aemu1
    | 0x10E => fix (flagBit r.aemuV 0)
    | 0x110 => fix q.evec
    | 0x111 => fix q.gtbase
    | 0x112 => fix q.gtcnt
    | 0x113 => fix r.cause
    | 0x114 => fix r.faddr
    | 0x115 => fix r.finfo
    | 0x116 => fix (flagBit r.ie 0)
    | 0x117 => Word.fixN r.ipend
    | 0x118 => Word.fixN r.ien
    | 0x119 => fix (gpendOf x)
    | 0x11A => fix r.sdsbase
    | 0x11B => fix r.srsbase
    | 0x11C => Word.fixN r.xsel
    | 0x11E => fix (field (b2n r.cmdst) 16 ||| flagBit r.gfail 9 ||| flagBit sel.emv 8 ||| flagBit sel.priv 2 ||| field (runCode sel.run) 0)
    | 0x11F => Word.fixN r.xgidx
    | 0x120 => if r.xgidx < 64 then (match gOf sel r.xgidx with | .word w => w | _ => Word.zero)
               else tget Word.zero sel.em (r.xgidx - 64)
    | 0x140 => fix (field r.asid 52 ||| field r.root 0)
    | 0x141 => fix (field k.casFail 32 ||| field k.walkCnt 0)
    | 0x142 => Word.fixN x.invOut.length
    | 0x180 => Word.fixN r.nurptr
    | 0x181 => Word.fixN r.nurlim
    | 0x182 => Word.fixN r.goodc
    | 0x188 => fix (flagBit q.weakclr 4 ||| flagBit q.marking 3 ||| field q.bgoodc 0)
    | 0x189 => fix q.heapbase
    | 0x18A => fix q.heaplim
    | 0x18B => fix q.rtbase
    | 0x18C => fix q.cardbase
    | 0x18D => fix q.mbmbase
    | 0x18E => fix q.roottab
    | 0x18F => fix q.satbq
    | 0x190 => fix q.satbovf
    | 0x191 => fix q.weakq
    | 0x192 => fix q.tospq
    | 0x194 => fix (colstatReg s.part q)
    | 0x1C0 => Word.fixN r.qsel
    | 0x1C8 => fix q.pdbell
    | 0x1C9 => fix q.pdbq
    | 0x1CA => fix q.mqbounce
    | 0x1CB => fix q.mqlost
    | 0x200 => fix (l2cfgReg cl)
    | 0x201 => fix (l2statReg cl)
    | 0x202 => Word.fixN cl.ldisc
    | 0x203 => fix (field k.wayDisI 8 ||| field k.wayDisD 0)
    | 0x204 => Word.fixN k.pfdrop
    | 0x210 => fix r.rgbase
    | 0x211 => fix r.rglen
    | 0x212 => fix r.rgcq
    | 0x214 => fix (field cl.rangeHeld.length 16 ||| field cl.rangeQ.length 8 |||
        flagBit (!cl.rangeHeld.isEmpty || !cl.rangeQ.isEmpty) 0)
    | 0x240 => fix (rqctlReg x.rq)
    | 0x241 => x.rq.a
    | 0x242 => x.rq.b
    | 0x243 => x.rq.c
    | 0x248 => fix q.rimode
    | 0x249 => fix (reromReg s.trust)
    | _ =>
      if 0x244 ≤ n ∧ n ≤ 0x247 then (x.rq.prog[n - 0x244]?).getD Word.zero
      else if 0x280 ≤ n ∧ n ≤ 0x284 then (r.aemuOps[n - 0x280]?).getD Word.zero
      else Word.zero

/-- What reading a register does besides: `XGVAL` sets GFAIL (R287). -/
def crReadEffect (e : Env) (n : Nat) (s : State) : State :=
  if n = 0x120 then
    let failed := decide (e.x.regs.xgidx < 64) && (match gOf (getCtx s e.x.regs.xsel) e.x.regs.xgidx with | .failed .. => true | _ => false)
    modCtx s e.c fun x => { x with regs := { x.regs with gfail := failed } }
  else s

/-! ## Writing -/

def modRegs (s : State) (c : Nat) (f : CtxRegs → CtxRegs) : State := modCtx s c fun x => { x with regs := f x.regs }

/-- A general register written by a move or an `XGVAL` write (R94): a failed word overwritten unread is recorded (R95). -/
def writeG (s : State) (c r : Nat) (w : Word) : State :=
  let x := getCtx s c
  let s1 := match gOf x r with
    | .failed f _ false => report s 0x1001 (.context c) [BitVec.ofNat 64 f.cause]
    | _ => s
  setCtx s1 c (setG x r (.word w))

/-- The words of scratchpad ways cleared, with their copies in the L1Ds: ways of a cluster by their window offsets (R225, R227). -/
def clearScratch (s : State) (cl lo hi : Nat) : State :=
  let base := 0x800000000 + cl * 0x40000
  let gone (a : Nat) : Bool := decide (base + lo * 0x10000 ≤ a) && decide (a < base + hi * 0x10000)
  let drop (k : Core) : Core :=
    { k with l1d := k.l1d.filter (fun e => !gone (e.2.tag * 32)), evict := k.evict.filter fun e => !gone (e.line * 8) }
  { s with mem := s.mem.filter (fun e => !gone e.1)
           cores := s.cores.map fun e => if clusterOfCore e.1 = cl then (e.1, drop e.2) else e }

/-- Every line of an L2 way written back and removed (R224, R225). -/
def flushWay (s : State) (cl way : Nat) : State :=
  let keys := ((getCluster s cl).l2.filter fun e => e.1 % 16 == way).map Prod.fst
  let s1 := keys.foldl (fun s i =>
    match (tget ({} : L2Slot) (getCluster s cl).l2 i).tag with
    | some t => (List.range 4).foldl (fun s j => flushLine s (t * 4 + j)) s
    | none => s) s
  modCluster s1 cl fun k => { k with l2 := k.l2.filter fun e => e.1 % 16 != way }

/-- The ways whose role a layout change touches. -/
def roleChanged (k : Cluster) (sp lock w : Nat) : Bool :=
  let role (sp lock : Nat) : Nat := if 16 - sp ≤ w then 2 else if 8 ≤ w ∧ (lock / 2 ^ (w - 8)) % 2 = 1 then 1 else 0
  role k.spWays k.lockMask != role sp lock

/-- A layout of a cluster's L2 (R225, R226). -/
def layoutL2 (s : State) (cl sp lock : Nat) (nsp : Bool) : State :=
  let k := getCluster s cl
  let s1 := ((List.range 16).filter (roleChanged k sp lock)).foldl (fun s w => flushWay s cl w) s
  let s2 := clearScratch s1 cl (min k.spWays sp) (max k.spWays sp)
  modCluster s2 cl fun k => { k with nsp, spWays := sp, lockMask := lock }

/-- A write of `L2CFG` (R226, R237). -/
def l2cfgWrite (s : State) (cl : Nat) (v : W64) : State :=
  let sp := bits v 2 0
  let lock := bits v 15 8
  if 4 < sp then modCluster s cl fun k => { k with cfgErr := true }
  else
    let both := (List.range 8).filter fun i => decide (16 - sp ≤ 8 + i) && (lock / 2 ^ i) % 2 == 1
    let lock' := both.foldl (fun m i => m - 2 ^ i) lock
    let s1 := layoutL2 s cl sp lock' (bit v 19)
    if both.isEmpty then s1
    else report (modCluster s1 cl fun k => { k with conflict := true }) 0x2006 (.cluster cl) [v]

/-- Whether a re-forming of a context's partition runs (R370). -/
def reforming (s : State) (c : Nat) : Bool :=
  match s.hostIf.busy with
  | some h => h.cmd == 6 && h.arg == partOf s c
  | none => false

/-- `XCMD` (R287): a context that resets itself is reset once its packet has committed. A START while the partition is re-formed is held until
that ends (R370). -/
def xcmdWrite (s : State) (c sel cmd : Nat) : State :=
  let st (s : State) (b : Bool) : State := modRegs s c fun r => { r with cmdst := b }
  match cmd with
  | 1 =>
    if reforming s sel then { s with hostIf := { s.hostIf with heldStart := s.hostIf.heldStart ++ [(c, sel)] } }
    else if (getCtx s sel).run = .notStarted then startContext (st s false) sel else st s true
  | 2 => if sel = c then modCtx (st s false) c fun x => { x with run := .resetting } else contextReset (st s false) sel
  | 3 => modRegs (st s false) sel fun r => { r with ipend := Nat.lor r.ipend 1 }
  | _ => st s false

/-- A write of a descriptor register of the selected queue (R302, R311). -/
def queueWrite (s : State) (q n : Nat) (v : W64) : State :=
  let x := getQ s q
  match n with
  | 0x1C1 => if x.enabled then setQ s q { x with refused := true }
      else setQ s q { x with slot16 := bit v 57, log2 := bits v 56 52, base := bits v 39 0 / 8 * 8, refused := false }
  | 0x1C2 => dropWaiters (setQ s q { x with
      bind := bits v 63 62, wake := bit v 61, dbit := bits v 47 42, wmen := bit v 41, vector := bits v 31 16
      ctx := bits v 13 0, refused := false }) q
  | 0x1C3 => setQ s q { x with send := bits v 31 0, refused := false }
  | 0x1C4 => if x.enabled then setQ s q { x with refused := true }
      else setQ s q { x with hiwm := bits v 52 32, lowm := bits v 20 0, refused := false }
  | 0x1C7 => qcmd s q (bits v 3 0)
  | _ => s

/-- `RQCTL`.RETRY (R193): the request's own failed marks become its PENDING. -/
def rqRetry (s : State) (c : Nat) : State :=
  modCtx s c fun x =>
    if x.rq.state = 4 then
      let x1 := (rqDsts x.rq).foldl (fun x r => match gOf x r with
        | .failed _ op _ => if op = x.rq.op then setG x r (.pending op) else x
        | _ => x) x
      { x1 with rq := { x1.rq with state := 3 } }
    else x

/-- The words of a range completion (R234). -/
def rangeWords (cookie status count : Nat) (ended : Option Nat) : List Word :=
  [Word.fixN cookie, Word.fixN status, Word.fixN count,
   match ended with | some a => Word.fixN a | none => Word.fix (fixPay (-1))]

/-- A submission to the range engine (R233). -/
def rangeSubmit (s : State) (c : Nat) (v : W64) : State :=
  let x := getCtx s c
  let op : RangeOp :=
    { ctx := c, part := partOf s c, asid := x.regs.asid, root := x.regs.root, op := bits v 3 0, cookie := bits v 63 32
      base := bits x.regs.rgbase 47 0, len := bits x.regs.rglen 31 0, qid := bits x.regs.rgcq 19 0, seq := s.nextSeq }
  if op.len = 0 then sendHw s (.rangeDone (clusterOf c)) op.part op.qid (rangeWords op.cookie 0 0 none)
  else modCluster s (clusterOf c) fun k => { k with rangeQ := k.rangeQ ++ [op] }

/-- The heap registers that no cycle lets change (R157). -/
def heapWrite (s : State) (p : Nat) (f : Partition → Partition) : State :=
  if (getPart s p).phase = 0 then modPart s p f else modPart s p fun q => { q with status := 7 }

/-- The cause with which a register refuses a FIX word, by its own rules. -/
def crWordFault (s : State) (e : Env) (n : Nat) (w : Word) : Option Nat :=
  let v := w.pay
  let range (bad : Bool) : Option Nat := if bad then some cOPERAND_RANGE else none
  if 0x400 ≤ n then
    let pt := portAt (n - 0x400)
    match operandFault e.p (if pt.kind = .latch then pt.op else .carry) w with
    | some cause => some cause
    | none => if (n = 0x520 ∨ n = 0x521) ∧ (w.tag ≠ tagFIX ∨ isVaddr v = false) then some cBAD_ADDRESS else none
  else match n with
    | 0x11C => range (!(owned s (bits v 13 0) && partOf s (bits v 13 0) == e.pn))
    | 0x11D => range (decide (3 < bits v 3 0))
    | 0x11F => range (decide (79 < bits v 6 0))
    | 0x180 | 0x181 => if isVaddr v then none else some cBAD_ADDRESS
    | 0x1C0 | 0x1C9 | 0x1CA => range (!ownsQueue s e.pn (bits v 15 0))
    | 0x1C1 => range (decide (bits v 56 52 < 4) || decide (20 < bits v 56 52))
    | 0x1C2 => range (decide (47 < bits v 47 42) ||
        (bits v 63 62 == 1 && !(owned s (bits v 13 0) && partOf s (bits v 13 0) == e.pn)))
    | 0x1C7 => range (decide (3 < bits v 3 0))
    | 0x213 => range (bits v 3 0 == 0 || decide (8 < bits v 3 0))
    | _ => none

/-- The sealed partition whose context `XSEL`, or whose queue `QSEL`, a written word names, of another partition (R394). -/
def crSealed (s : State) (e : Env) (n : Nat) (w : Word) : Option Nat :=
  let own : Option Nat :=
    if n = 0x11C then (if owned s (bits w.pay 13 0) then some (partOf s (bits w.pay 13 0)) else none)
    else if n = 0x1C0 then (if (getQ s (bits w.pay 15 0)).owned then some (getQ s (bits w.pay 15 0)).owner else none)
    else none
  own.filter fun p => p != e.pn && (getPart s p).sealed

/-- The effect of a permitted write (R11, R137). -/
def crWriteEffect (e : Env) (n : Nat) (w : Word) (s : State) : State :=
  let v := w.pay
  let c := e.c
  let lock := s.img.lock
  let part (f : Partition → Partition) : State := modPart s e.pn f
  let partL (f : Partition → Partition) : State := if lock then s else modPart s e.pn f
  if 0x400 ≤ n then
    let a := n - 0x400
    if a = 0x100 ∨ a = 0x124 ∨ a = 0x180 ∨ a = 0x1AB then s
    else modCtx s c fun x => { x with u := setLatch x.u a w }
  else if 0x1C1 ≤ n ∧ n ≤ 0x1C7 then queueWrite s e.x.regs.qsel n v
  else match n with
    | 0x108 => modRegs s c fun r => { r with dchk := bit v 0 }
    | 0x10B => modCtx s c fun x => { x with u := { x.u with flags := flagsOfNat (bits v 4 0) } }
    | 0x10C => modRegs s c fun r => { r with aemu0 := w }
    | 0x10D => modRegs s c fun r => { r with aemu1 := w }
    | 0x10E => modCtx s c fun x => { x with
        aemuPc := none, aemuLevel := if bit v 0 then some 0 else none, regs := { x.regs with aemuV := bit v 0 } }
    | 0x110 => partL fun q => { q with evec := addr48 v }
    | 0x111 => partL fun q => { q with gtbase := addr48 v &&& ~~~1 }
    | 0x112 => partL fun q => { q with gtcnt := field (bits v 15 0) 0 }
    | 0x113 => modRegs s c fun r => { r with cause := field (bits v 7 0) 0 }
    | 0x114 => modRegs s c fun r => { r with faddr := addr48 v }
    | 0x115 => modRegs s c fun r => { r with finfo := v }
    | 0x116 => modRegs s c fun r => { r with ie := bit v 0 }
    | 0x117 => modRegs s c fun r => { r with ipend := r.ipend - Nat.land r.ipend (bits v 2 0) }
    | 0x118 => modRegs s c fun r => { r with ien := bits v 2 0 }
    | 0x11A => modRegs s c fun r => { r with sdsbase := addr48 v }
    | 0x11B => modRegs s c fun r => { r with srsbase := addr48 v }
    | 0x11C => modRegs s c fun r => { r with xsel := bits v 13 0 }
    | 0x11D => xcmdWrite s c e.x.regs.xsel (bits v 3 0)
    | 0x11E => if bit v 8 && xselOk s e then modCtx s e.x.regs.xsel fun x => { x with emv := false } else s
    | 0x11F => modRegs s c fun r => { r with xgidx := bits v 6 0 }
    | 0x120 => if e.x.regs.xgidx < 64 then writeG s e.x.regs.xsel e.x.regs.xgidx w else s
    | 0x140 => modCtx s c fun x => { x with
        walks := [], ahead := none, regs := { x.regs with asid := bits v 63 52, root := bits v 39 0 / 256 * 256 } }
    | 0x180 => modRegs s c fun r => { r with nurptr := v.toNat }
    | 0x181 => modRegs s c fun r => { r with nurlim := v.toNat }
    | 0x188 => barctlWrite s e.pn v
    | 0x189 => heapWrite s e.pn fun q => { q with heapbase := field (bits v 47 18) 18 }
    | 0x18A => heapWrite s e.pn fun q => { q with heaplim := field (bits v 47 18) 18 }
    | 0x18B => heapWrite s e.pn fun q => { q with rtbase := addr48 v }
    | 0x18C => heapWrite s e.pn fun q => { q with cardbase := addr48 v }
    | 0x18D => heapWrite s e.pn fun q => { q with mbmbase := addr48 v }
    | 0x18E => heapWrite s e.pn fun q => { q with roottab := addr48 v }
    | 0x18F => heapWrite s e.pn fun q => { q with satbq := field (bits v 19 0) 0 }
    | 0x190 => heapWrite s e.pn fun q => { q with satbovf := v, ovfPos := 0 }
    | 0x191 => heapWrite s e.pn fun q => { q with weakq := field (bits v 19 0) 0 }
    | 0x192 => heapWrite s e.pn fun q => { q with tospq := field (bits v 19 0) 0 }
    | 0x193 => colcmdWrite s e.pn v
    | 0x1C0 => modRegs s c fun r => { r with qsel := bits v 15 0 }
    | 0x1C8 => part fun q => { q with pdbell := q.pdbell &&& ~~~v }
    | 0x1C9 => part fun q => { q with pdbq := field (bits v 15 0) 0 }
    | 0x1CA => part fun q => { q with mqbounce := field (bits v 15 0) 0 }
    | 0x200 => if lock then s else l2cfgWrite s (clusterOf c) v
    | 0x201 => modCluster s (clusterOf c) fun k =>
        { k with cfgErr := k.cfgErr && !bit v 2, conflict := k.conflict && !bit v 1 }
    | 0x210 => modRegs s c fun r => { r with rgbase := addr48 v }
    | 0x211 => modRegs s c fun r => { r with rglen := field (bits v 31 0) 0 }
    | 0x212 => modRegs s c fun r => { r with rgcq := field (bits v 19 0) 0 }
    | 0x213 => rangeSubmit s c v
    | 0x240 => if bit v 8 then rqRetry s c else s
    | _ => s

end Sys2Proof.Machine
end

