-- ==== Sys2Proof/Machine/Ecc.lean ====
section
/-!
DEFINITION. The stored forms of tagged words (R39 to R41, R386): a word with its check bits, and a DRAM line of 640 bits, ordinary or
sealed. The generators of the codes and the ciphers are constants of Config (log entry 39).
-/

namespace Sys2Proof.Machine
open Sys2Proof

/-- A word in its 80 stored bits: payload in [63:0], tag in [71:64], check in [79:72]. -/
def storedWord (check : BitVec 8) (w : Word) : BitVec 80 := check ++ (w.tag ++ w.pay)

/-- A word as an on-chip memory stores it: the check bits are of that word alone (R39). -/
def storedOnChip (w : Word) : BitVec 80 := storedWord (Config.secDed (w.tag ++ w.pay)) w

/-- The 72 data symbols of a line: each word's tag, then its payload from the most significant byte (R386). -/
def lineSymbols (ws : List Word) : List (BitVec 8) := ws.flatMap wordBytes

/-- Words from the data symbols. -/
def symbolWords (bs : List (BitVec 8)) : List Word :=
  (List.range 8).map fun i =>
    ⟨(bs[9 * i]?).getD 0, BitVec.ofNat 64 (natOfBytesBE ((bs.drop (9 * i + 1)).take 8))⟩

/-- The 640 stored bits of a line of 8 words and their check bytes (R40). -/
def storedLine (check : Nat → BitVec 8) (ws : List Word) : List (BitVec 80) :=
  ((List.range ws.length).zip ws).map fun e => storedWord (check e.1) e.2

/-- An ordinary line: 8 check symbols over the 72 data symbols (R40). -/
def storedOrdinary (ws : List Word) : List (BitVec 80) := storedLine (Config.rsCheck 8 (lineSymbols ws)) ws

/-- The ciphertext of a sealed line: the tweak is the line's local address [35:3] (R386). -/
def sealedCipher (k : SealKeys) (line : Nat) (ws : List Word) : List (BitVec 8) :=
  (List.range 72).map (Config.xtsByte k.data k.tweak (line % 2 ^ 33) (lineSymbols ws))

/-- A sealed line's MAC, over the ciphertext, the 5-byte local line address and the partition number (R386). -/
def sealedMac (k : SealKeys) (part line : Nat) (cipher : List (BitVec 8)) : BitVec 32 :=
  Config.cmac32 k.mac (cipher ++ natBytesBE 5 line ++ natBytesBE 1 part)

/-- The check bytes of a sealed line: the MAC in words 0 to 3, most significant byte first, and 4 check symbols over the 72 data symbols and
the 4 MAC symbols in words 4 to 7 (R41). -/
def sealedCheck (mac : BitVec 32) (cipher : List (BitVec 8)) (i : Nat) : BitVec 8 :=
  let m := natBytesBE 4 mac.toNat
  if i < 4 then (m[i]?).getD 0 else Config.rsCheck 4 (cipher ++ m) (i - 4)

def storedSealed (k : SealKeys) (part line : Nat) (ws : List Word) : List (BitVec 80) :=
  let cipher := sealedCipher k line ws
  storedLine (sealedCheck (sealedMac k part line cipher) cipher) (symbolWords cipher)

/-- The sealed partition whose memory holds a DRAM line in sealed form, with its keys: in a grant and outside the window
(R386, R390). -/
def sealedLine (s : State) (line : Nat) : Option (Nat × SealKeys) :=
  let a := line * 8
  let within (g : Nat × Nat) : Bool := decide (g.1 ≤ a) && decide (a < g.1 + g.2)
  (s.parts.find? fun e => e.2.sealed && e.2.grants.any within && !within (e.2.winBase, e.2.slwinl)).bind fun e =>
    (s.trust.keys.find? fun k => k.1 == e.1).map fun k => (e.1, k.2)

/-- The stored form of a DRAM line that holds words ws (R40, R41). -/
def storedDram (s : State) (line : Nat) (ws : List Word) : List (BitVec 80) :=
  match sealedLine s line with
  | some (p, k) => storedSealed k p line ws
  | none => storedOrdinary ws

/-- The symbols in error that the code of a line corrects: 4 in an ordinary line, 1 in a sealed one (R40, R41). -/
def correctable (s : State) (line n : Nat) : Bool :=
  decide (1 ≤ n) && decide (n ≤ if (sealedLine s line).isSome then 1 else 4)

end Sys2Proof.Machine
end

