-- ==== Sys2Proof/Machine/Home.lean ====
section
/-!
DEFINITION. The fills of an L1D and the home slices: the directory's answers to reads, ownership, upgrades, claims,
writebacks, notices and recalls, and the accesses performed at a home (R145, R208 to R221, R223).
-/

namespace Sys2Proof.Machine
open Sys2Proof

/-! ## The directory (R216) -/

/-- The cluster at which an uncached access is performed: the word's home, or the scratchpad's owner (R217, R228). -/
def uncHome (s : State) (pa : Nat) : Nat :=
  match localKind s (pa % 2 ^ 36) with
  | .scratch c _ => c
  | _ => homeOf s (pa % 2 ^ 36 / 8)

/-- An entry of a cluster's writeback buffer for a line, if any. -/
def wbOf (s : State) (c line : Nat) : Option WbEnt := (getCluster s c).wb.find? fun e => e.line == line

/-- Whether a core of a cluster waits for a line, for reading or for writing. -/
def wantsLine (s : State) (c line : Nat) (store : Bool) : Bool :=
  (coresOf c).any fun k => (getCore s k).fills.any fun f => f.line == line && (f.why == .store) == store

/-- Whether every wait of the cluster for a line is a streaming one, so that a sector it allocates has age 3 (R209). -/
def streamFill (s : State) (c line : Nat) : Bool :=
  (coresOf c).all fun k => (getCore s k).fills.all fun f => f.line != line || f.why == .stream || f.why == .nsp

/-- Room in a cluster's writeback buffer for a whole victim sector, and shared miss-tracking entries for it (R22, R220). -/
def wbRoom (s : State) (c : Nat) : Bool := decide ((getCluster s c).wb.length + 4 ≤ 32) && decide (sharedUse s c + 4 ≤ 1024)

/-- A request that its cluster has to send: the L2 and the writeback buffer do not hold the line. -/
def l2Misses (s : State) (c line : Nat) : Bool :=
  homeOn s line && dramLine s line && (l2Sub (getCluster s c) line).st == .i && (wbOf s c line).isNone && wbRoom s c

/-- Room for a new entry in a line's directory slice, which has 256 Ki entries in 16 ways: where every way of the set is taken, an entry
is evicted by recalling every copy of its line, and the cluster whose request needed the entry is its witness (R216, R433). Which set a
line has and which entry goes are free. -/
def dirRoom (s : State) (c line : Nat) : State :=
  let near := s.dir.filter fun e => e.1 != line && homeOf s e.1 == homeOf s line
  if thas s.dir line || decide (near.length < 16) then s
  else
    let set := near.filter fun e => Config.dirSet e.1 % 2 ^ 14 == Config.dirSet line % 2 ^ 14
    if set.length < 16 then s
    else
      let (n, s1) := drawNat s
      match set[n % set.length]? with
      | some (v, _) => report (flushLine s1 v) 0x2005 (.cluster (homeOf s v)) [BitVec.ofNat 64 (v * 8)] (some (.cluster c))
      | none => s1

/-- A read served: the requester gets E when nobody holds the line, S beside the others otherwise (R216). -/
def homeGrantRead (s : State) (c line : Nat) (stream : Bool) : State :=
  match dirOf s line with
  | none =>
    let s := dirRoom s c line
    setOwner (installL2 s c line (currentLine s line) .e stream) line c
  | some (.shared cs) =>
    setDir (installL2 s c line (currentLine s line) .s stream) line (if cs.contains c then cs else cs ++ [c])
  | some (.owned o) =>
    let s1 := downgradeLine s line
    setDir (installL2 s1 c line (currentLine s1 line) .s stream) line (if o = c then [c] else [o, c])

/-- Ownership with data: every other copy goes, and modified data passes to the requester (R216). A line lost with its tag
is POISON in memory first (R223). -/
def homeGrantOwn (s : State) (c line : Nat) (stream : Bool) : State :=
  let s := dirRoom s c line
  let s1 := if (lostSource s line).isSome then cleanLine s line else s
  let data := currentLine s1 line
  let st := if lineDirty s1 line then L2St.m else L2St.e
  setOwner (installL2 (discardLine s1 line) c line data st stream) line c

/-- The copies of a line in every cluster but one removed. -/
def dropOthers (s : State) (c line : Nat) : State :=
  { s with cores := s.cores.map (fun e => if clusterOfCore e.1 = c then e else (e.1, dropL1 e.2 line))
           clusters := s.clusters.map (fun e => if e.1 = c then e else (e.1, dropL2 e.2 line)) }

/-- A line that stands in its cluster's writeback buffer taken back (R220): from a HELD entry in M, the writeback
cancelled; from a SENT entry in S. Which of the two it is depends on timing alone. -/
def reclaimWb (s : State) (c line : Nat) (stream : Bool := false) : State :=
  let k := getCluster s c
  let place := (l2Slot? k line).isSome || (l2Cands k line).any fun i => (tget ({} : L2Slot) k.l2 i).empty
  if !place && !wbRoom s c then s else
  match (getCluster s c).wb.find? fun e => e.line == line with
  | none => s
  | some w =>
    let (b, s1) := drawBool s
    if w.sent = false ∧ b = true then
      installL2 (modCluster s1 c fun k => { k with wb := k.wb.filter fun e => e.line != line }) c line w.data .m stream
    else
      let mark (e : WbEnt) : WbEnt := if e.line = line then { e with sent := true } else e
      installL2 (modCluster s1 c fun k => { k with wb := k.wb.map mark }) c line w.data .s stream

/-! ## Requests -/

/-- The fills of a cluster's cores that wait for a line that its L2 did not hold (R209). -/
def noteMiss (s : State) (c line : Nat) : State :=
  let note (k : Core) : Core := { k with fills := k.fills.map fun f => if f.line = line then { f with missed := true } else f }
  { s with cores := s.cores.map fun e => if clusterOfCore e.1 = c then (e.1, note e.2) else e }

/-- HOME_READ (R216). -/
def homeReadReq (s : State) (c line : Nat) : State :=
  if l2Misses s c line && wantsLine s c line false then noteMiss (homeGrantRead s c line (streamFill s c line)) c line else s

def execHomeRead (cluster line : Nat) (s : State) : Host.Outcome State Fault Refusal := .next (homeReadReq s cluster line)

/-- HOME_READ_FOR_OWNERSHIP (R216). -/
def homeOwnReq (s : State) (c line : Nat) : State :=
  if l2Misses s c line && wantsLine s c line true then noteMiss (homeGrantOwn s c line false) c line else s

def execHomeReadForOwnership (cluster line : Nat) (s : State) : Host.Outcome State Fault Refusal :=
  .next (homeOwnReq s cluster line)

/-- Exclusivity given to a cluster that holds a line in S, or the line with ownership when it is no longer a sharer (R216). -/
def homeUpgradeNow (s : State) (c line : Nat) : State :=
  if (DirEnt.holders (dirOf s line)).contains c then
    setOwner (modCluster (dropOthers s c line) c fun k => modL2Sub k line fun b => { b with st := .e }) line c
  else homeGrantOwn s c line false

/-- HOME_UPGRADE (R216): a requester that is no longer a sharer is served as a read for ownership. -/
def homeUpgradeReq (s : State) (c line : Nat) : State :=
  if !(homeOn s line && dramLine s line && (l2Sub (getCluster s c) line).st == .s && (wbOf s c line).isNone && wbRoom s c && wantsLine s c line true)
  then s
  else homeUpgradeNow s c line

def execHomeUpgrade (cluster line : Nat) (s : State) : Host.Outcome State Fault Refusal := .next (homeUpgradeReq s cluster line)

/-- The fills of a line taken off a core, with the shared entries that they held. -/
def endFills (s : State) (core line : Nat) : State :=
  let gone := (getCore s core).fills.filter fun f => f.line == line && f.why != .fetch
  let n := (gone.filter FillReq.shared).length
  modCluster (modCore s core fun k => { k with fills := k.fills.filter fun f => !(f.line == line && f.why != .fetch) })
    (clusterOfCore core) fun k => { k with missShared := k.missShared - n }

/-- The eight words with which the head of a store queue fills a line completely (R145, R211), if it does. -/
def claimWords (k : Core) (line : Nat) : Option (List Word) :=
  let es := k.sq.take 8
  let fits := (List.range 8).all fun i => match es[i]? with
    | some e => e.pa % 2 ^ 36 == line * 8 + i && (e.typ == 0 || e.typ == 4) && e.card == none && !e.log &&
        some e.ctx == (es[0]?).map StoreEnt.ctx
    | none => false
  if fits then some (es.map StoreEnt.word) else none

/-- HOME_CLAIM (R211, R216): a line that a new object fills completely becomes owned without being read, and the object's
words stand in the L1D. A line that stands in the writeback buffer is reinstalled first, from a SENT entry in S, and then claimed once the
home has processed the keep notice (R220). -/
def homeClaimReq (s : State) (c line : Nat) : State :=
  let l2 := (l2Sub (getCluster s c) line).st
  if !(homeOn s line && dramLine s line && (l2 == .i || l2 == .s) && wbRoom s c) then s
  else match (coresOf c).findSome? fun k => (claimWords (getCore s k) line).map fun ws => (k, ws) with
    | none => s
    | some (k, ws) =>
      if (wbOf s c line).isSome then (if l2 == .i then reclaimWb s c line else s) else
      let s1 := setOwner (installL2 (discardLine (dirRoom s c line) line) c line ws .m false) line c
      let s2 := installL1 s1 k line ws true false
      let s3 := modCluster s2 c fun x => modL2Sub x line fun b => { b with pres := [k], w := true }
      endFills (modCore s3 k fun x => { x with sq := x.sq.drop 8 }) k line

def execHomeClaim (cluster line : Nat) (s : State) : Host.Outcome State Fault Refusal := .next (homeClaimReq s cluster line)

/-- HOME_WRITEBACK (R216, R220, R221): the owner's line is written to memory and the line is UNCACHED; from a cluster that
is no longer the owner it is discarded. A line that was taken back in S waits for its keep notice. -/
def homeWritebackReq (s : State) (c line : Nat) : State :=
  match (getCluster s c).wb.find? fun e => e.line == line && !e.answered with
  | none => s
  | some w =>
    let s1 := if dirOf s line = some (.owned c) then { writeWords s (line * 8) w.data with dir := tdel s.dir line } else s
    modCluster s1 c fun k =>
      if w.sent then { k with wb := k.wb.map fun e => if e.line = line then { e with answered := true } else e }
      else { k with wb := k.wb.filter fun e => e.line != line }

def execHomeWriteback (cluster line : Nat) (s : State) : Host.Outcome State Fault Refusal :=
  .next (if shipWaits s line then s else homeWritebackReq s cluster line)

/-- KEEP_NOTICE (R220, R221): the cluster is a sharer again, or its copy is invalidated because another cluster obtained the
line for ownership. -/
def keepNoticeReq (s : State) (c line : Nat) : State :=
  match (getCluster s c).wb.find? fun e => e.line == line && e.answered with
  | none => s
  | some _ =>
    let s1 := modCluster s c fun k => { k with wb := k.wb.filter fun e => e.line != line }
    match dirOf s line with
    | some (.owned o) =>
      if o = c then s1
      else
        let s2 := { s1 with cores := s1.cores.map fun e => if clusterOfCore e.1 = c then (e.1, dropL1 e.2 line) else e }
        modCluster s2 c fun k => dropL2 k line
    | some (.shared cs) => setDir s1 line (if cs.contains c then cs else cs ++ [c])
    | none => setDir s1 line [c]

def execKeepNotice (cluster line : Nat) (s : State) : Host.Outcome State Fault Refusal := .next (keepNoticeReq s cluster line)

/-- HOME_CLEAN_EVICTION (R216): the notice of a cluster that no longer holds a line that the directory lists for it. A line
lost with its tag sends none (R223). -/
def homeCleanReq (s : State) (c line : Nat) : State :=
  let gone := (l2Sub (getCluster s c) line).st == .i && (wbOf s c line).isNone && !(getCluster s c).lost.contains line
  if !gone then s
  else match dirOf s line with
    | some (.shared cs) => setDir s line (cs.filter (· != c))
    | some (.owned o) => if o = c then setDir s line [] else s
    | none => s

def execHomeCleanEviction (cluster line : Nat) (s : State) : Host.Outcome State Fault Refusal :=
  .next (homeCleanReq s cluster line)

/-- CLUSTER_RECALL (R216, R221, R223): a listed cluster answers from its L2 with its L1Ds, from its writeback buffer, or with
LOST. Without `inv` it downgrades; with it every copy of the line goes, modified data is written, and the directory
entry is evicted, which is recorded; the cluster whose request needed the entry is free. -/
def clusterRecallReq (s : State) (c line : Nat) (inv : Bool) : State :=
  let hs := DirEnt.holders (dirOf s line)
  if !hs.contains c then s
  else if inv then
    let (n, s1) := drawNat s
    report (flushLine s1 line) 0x2005 (.cluster (homeOf s line)) [BitVec.ofNat 64 (line * 8)] (some (.cluster (n % s.part.clusters)))
  else
    let s1 := downgradeLine s line
    setDir s1 line (hs.filter fun h => (l2Sub (getCluster s1 h) line).st != .i)

def execClusterRecall (cluster line : Nat) (inv : Bool) (s : State) : Host.Outcome State Fault Refusal :=
  .next (clusterRecallReq s cluster line inv)

/-! ## Uncached accesses (R217) -/

/-- The oldest access of a kind that waits at a home. -/
def nextUnc (s : State) (slice : Nat) (read : Bool) : Option (Nat × UncReq) :=
  ((List.range s.unc.length).zip s.unc).find? fun e =>
    uncHome s e.2.pa == slice && (getCluster s slice).power != .off && stackOn s (e.2.pa % 2 ^ 36 / 8) && (e.2.kind == .read) == read &&
      !((s.unc.take e.1).any fun r => r.pa % 2 ^ 36 / 8 == e.2.pa % 2 ^ 36 / 8)

/-- An access performed: a read or an atomic answers its operation with the word. -/
def serveUnc (s : State) (ix : Nat) (r : UncReq) : State :=
  let s1 := { s with unc := s.unc.eraseIdx ix }
  let a := r.pa % 2 ^ 36
  let answer (s : State) (w : Word) : State :=
    match r.who with
    | .ctxOp c op => setResult s c op (.words [w])
    | _ => s
  match r.kind with
  | .read => let (w, s2) := homeRead s1 a; answer s2 w
  | .write w => match r.mark with
    | some m => storeMarks (homeWrite s1 a w) m (cohRead s1 a)
    | none => homeWrite s1 a w
  | .cas cmp new => let (w, s2) := homeCas s1 a cmp new; answer s2 w

def execHomeUncachedRead (slice : Nat) (s : State) : Host.Outcome State Fault Refusal :=
  .next (match nextUnc s slice true with | some (i, r) => serveUnc s i r | none => s)

def execHomeUncachedWrite (slice : Nat) (s : State) : Host.Outcome State Fault Refusal :=
  .next (match nextUnc s slice false with
    | some (i, r) => if shipWaits s (r.pa % 2 ^ 36 / 8) then s else serveUnc s i r
    | none => s)

/-! ## The L1D (R210 to R213, R219) -/

/-- The next-sector prefetch that a demand fill of sub-block 3 starts (R213). -/
def nextSector (s : State) (core : Nat) (f : FillReq) : State :=
  let cl := getCluster s (clusterOfCore core)
  let k := getCore s core
  let full := match l1Slot? k f.line with
    | some i => (List.range 4).all fun j => (tget ({} : L1Sub) (tget ({} : L1Slot) k.l1d i).subs j).v
    | none => false
  if !(cl.nsp && subOf f.line == 3 && full && (f.why == .demand || f.why == .store)) then s
  else
    let va := f.va / 32 * 32 + 32
    let drop := setCore s core { k with pfdrop := (k.pfdrop + 1) % 2 ^ 64 }
    match translate s f.ctx { va := va % 2 ^ 48, acc := .load, priv := (getCtx s f.ctx).priv, row := .cached } with
    | .ok pa _ _ =>
      let line := pa % 2 ^ 36 / 8
      if l1Has k line || (k.fills.any fun g => g.line == line) then s
      else if sharedFree s (clusterOfCore core) = false ∨ cacheable s f.ctx pa = false then drop
      else
        modCluster (setCore s core { k with fills := k.fills ++ [{ line, va, why := .nsp, ctx := f.ctx, shared := true }] })
          (clusterOfCore core) fun k => { k with missShared := k.missShared + 1 }
    | _ => drop

/-- A dirty copy in another L1D of the cluster merged into the L2 and left clean (R215). -/
def mergeL1 (s : State) (c line : Nat) : State :=
  match dirtyL1 s line with
  | none => s
  | some data =>
    let clean (k : Core) : Core :=
      match l1Slot? k line with
      | some i => if (l1Sub? k line).isSome then setL1Sub k i line { v := true, d := false, data } else k
      | none => k
    let done (k : Core) : Core :=
      { clean k with evict := k.evict.map fun v => if v.line = line then { v with written := true } else v }
    let s1 := { s with cores := s.cores.map fun e => if clusterOfCore e.1 = c then (e.1, done e.2) else e }
    if dramLine s line then modCluster s1 c fun k => modL2Sub k line fun b => { b with st := .m, data, w := false }
    else writeWords s1 (line * 8) data

/-- The L1D copies of a line in a cluster's other cores removed. -/
def dropSiblings (s : State) (core line : Nat) : State :=
  { s with cores := s.cores.map fun e =>
      if clusterOfCore e.1 = clusterOfCore core ∧ e.1 ≠ core then (e.1, dropL1 e.2 line) else e }

/-- An L1D tag loss found by the L2's recall (R223): the line is POISON in the L2, or in the scratchpad. -/
def settleLost (s : State) (c line : Nat) : State :=
  if lostSource s line = some 2 then
    let data := currentLine s line
    let found (k : Core) : Core := { k with lost := k.lost.filter (· != line) }
    let s1 := { s with cores := s.cores.map fun e => (e.1, found e.2) }
    if dramLine s line then modCluster s1 c fun k => modL2Sub k line fun b => { b with st := .m, data }
    else writeWords s1 (line * 8) data
  else s

/-- The words with which a cluster's L2 fills an L1D: its own, which an error in the L2 may have made POISON (R222); a scratchpad line
stands in memory. -/
def l2Data (s : State) (c line : Nat) : List Word :=
  let b := l2Sub (getCluster s c) line
  if dramLine s line && b.st != .i then b.data else currentLine s line

/-- A sub-block that the cluster holds installed in a core's L1D (R209, R211, R215): for a store, with write permission, after the other
L1Ds' copies. `hit` tells an L2 hit, which sets the sector's age. -/
def placeL1 (s : State) (core line : Nat) (store stream hit : Bool) : State :=
  let c := clusterOfCore core
  let s1 := mergeL1 (settleLost s c line) c line
  let s2 := if store then dropSiblings s1 core line else s1
  let s3 := modCore s2 core fun k => { k with evict := k.evict.filter fun v => !v.written || v.line == line }
  let had := l1Has (getCore s3 core) line
  let s4 := if had then serveEvicted s3 core line else installL1 s3 core line (l2Data s2 c line) false stream
  let pres (b : L2Sub) : L2Sub :=
    if store then { b with pres := [core], w := true }
    else { b with pres := if b.pres.contains core then b.pres else b.pres ++ [core], w := false }
  modCluster (if hit && !had then touchL2 s4 c line else s4) c fun k => modL2Sub k line pres

/-- A line obtained with write permission for a core's L1D in one step at its home, as a compare-and-swap that is performed there allocates it
(R146, R211); none while its home, the writeback buffer or the miss-tracking table cannot serve it. -/
def takeOwn (s : State) (core line : Nat) : Option State :=
  let c := clusterOfCore core
  let st := (l2Sub (getCluster s c) line).st
  if !homeOn s line || !dramLine s line || (wbOf s c line).isSome || !wbRoom s c then none
  else
    let s1 := if st == .i then homeGrantOwn s c line false else if st == .s then homeUpgradeNow s c line else s
    some (placeL1 s1 core line true false (st != .i))

/-- L1D_FILL (R208 to R213, R219): a requested sub-block that the cluster holds is installed, also from its writeback buffer (R220). -/
def l1dFill (s : State) (core line : Nat) : State :=
  let c := clusterOfCore core
  match (getCore s core).fills.find? fun f => f.line == line && f.why != .fetch with
  | none => s
  | some f =>
    let store := (getCore s core).fills.any fun f => f.line == line && f.why == .store
    let stream := (f.why == .stream || f.why == .nsp) && !store
    let absent := dramLine s line && (l2Sub (getCluster s c) line).st == .i
    let s0 := if absent then reclaimWb s c line (streamFill s c line) else s
    let st := (l2Sub (getCluster s0 c) line).st
    if dramLine s line && (st == .i || (store && st == .s)) then s0
    else nextSector (endFills (placeL1 s0 core line store stream (!f.missed && !absent)) core line) core f

def execL1dFill (core line : Nat) (s : State) : Host.Outcome State Fault Refusal := .next (l1dFill s core line)

/-- L1D_EVICTION_WRITE (R219). -/
def execL1dEvictionWrite (core : Nat) (s : State) : Host.Outcome State Fault Refusal := .next (writeEvict s core)

end Sys2Proof.Machine
end

