-- ==== Sys2Proof/Machine/Range.lean ====
section
/-!
DEFINITION. The range engine (R230 to R236): one event performs one line operation of the running operation, and the last
one sends the completion.
-/

namespace Sys2Proof.Machine
open Sys2Proof

/-! ## Translation of a page (R231) -/

/-- The access that an operation needs: W for INVALIDATE, which sets no D (R253), and ZERO, R for the others; IINVAL takes X or R. -/
def rangeAccess (op : Nat) : Access :=
  if op = 2 then .inval else if op = 4 then .store else if op = 8 then .iinval else .load

/-- The physical address and memory type of a word of the range through the engine's TLB; none is a translation fault, a missing
permission, or an address that exists no longer (R34). -/
def rangeXlate (s : State) (cl : Nat) (r : RangeOp) (va : Nat) : State × Option (Nat × Nat) :=
  match unitXlate s (.range cl) r.part r.asid r.root { va, acc := rangeAccess r.op, priv := true, row := .any } with
  | (s1, .inl e) => (s1, some (entPa e va, e.typ))
  | (s1, .inr _) => (s1, none)

/-! ## Held slots of locked ways (R229) -/

/-- Every HELD slot of a sector cleared, its lines discarded in the device, and counted in `L2LDISC`. -/
def clearHeld (s : State) (line : Nat) (clean : Bool) : State :=
  let sec := sectorOf line
  let heldIn (k : Cluster) : Bool := match l2Slot? k line with
    | some i => (tget ({} : L2Slot) k.l2 i).held
    | none => false
  let who := (s.clusters.filter fun e => heldIn e.2).map Prod.fst
  if who.isEmpty then s
  else
    let wipe (s : State) (j : Nat) : State :=
      let l := sec * 4 + j
      if who.any (fun c => (l2Sub (getCluster s c) l).st != .i) then
        discardLine (if clean then cleanLine s l else s) l
      else s
    let s1 := (List.range 4).foldl wipe s
    let count (k : Cluster) : Cluster :=
      if heldIn k then { k with ldisc := min 0xFFFFFFFF (k.ldisc + 1) } else k
    { s1 with clusters := s1.clusters.map fun e => (e.1, count e.2) }

/-- A FREE slot of a locked way in a line's set. -/
def freeLocked (k : Cluster) (line : Nat) : Option Nat :=
  (l2Keys line).find? fun i =>
    isLockedWay k (i % 16) && !isDisWay k (i % 16) && !(tget ({} : L2Slot) k.l2 i).held

/-- A line brought into a cluster's L2 as a read of its own (R216, R230). -/
def bringLine (s : State) (c line : Nat) : State :=
  if (l2Sub (getCluster s c) line).st != .i || !wbRoom s c then s
  else if (wbOf s c line).isSome then reclaimWb s c line true
  else homeGrantRead s c line true

/-- PREFETCH_LOCK of a sector (R229, R230): false where no FREE locked slot is found. -/
def lockSector (s : State) (c line : Nat) : State × Bool :=
  let sec := sectorOf line
  let k := getCluster s c
  let fetch (s : State) : State := (List.range 4).foldl (fun s j => bringLine s c (sec * 4 + j)) s
  match l2Slot? k line with
  | some i =>
    let x := tget ({} : L2Slot) k.l2 i
    if x.held then (fetch s, true)
    else match freeLocked k line with
      | some j =>
        (fetch (setCluster s c { k with l2 := tput (tput k.l2 i {}) j { x with held := true } }), true)
      | none => (s, false)
  | none =>
    match freeLocked k line with
    | some j => (fetch (setCluster s c { k with l2 := tput k.l2 j { tag := some sec, age := 0, held := true } }), true)
    | none => (s, false)

/-- UNLOCK of a sector (R229, R230): the HELD slot is cleaned, invalidated and FREE. -/
def unlockSector (s : State) (c line : Nat) : State :=
  let k := getCluster s c
  match l2Slot? k line with
  | some i =>
    if (tget ({} : L2Slot) k.l2 i).held then
      let sec := sectorOf line
      let leave (s : State) (j : Nat) : State :=
        let l := sec * 4 + j
        let held := (l2Sub (getCluster s c) l).st != .i
        let s1 := backInvalidate s c l
        let s2 := if (l2Sub (getCluster s1 c) l).st == .m then cleanLine s1 l else s1
        let s3 := modCluster s2 c fun k => modL2Sub k l fun _ => {}
        if held then setDir s3 l ((DirEnt.holders (dirOf s3 l)).filter (· != c)) else s3
      let s1 := (List.range 4).foldl leave s
      modCluster s1 c fun k => { k with l2 := tdel k.l2 i }
    else s
  | none => s

/-- Every L1I line of a physical line, in every core, invalidated (R218, R230). -/
def dropL1I (s : State) (line : Nat) : State :=
  let drop (k : Core) : Core := { k with l1i := k.l1i.filter fun e => e.2.tag != line }
  { s with cores := s.cores.map fun e => (e.1, drop e.2) }

/-! ## One line operation -/

/-- The effect of an operation on one line of local memory whose words [a, a + n) lie in the range. -/
def rangeLine (s : State) (cl op pa n : Nat) (first : Bool) : State × Bool :=
  let a := pa % 2 ^ 36
  let line := a / 8
  let sp := match localKind s a with | .scratch _ _ => true | _ => false
  match op with
  | 1 => (cleanLine s line, true)
  | 2 => (discardLine (if first then clearHeld s line false else s) line, true)
  | 3 => (flushLine (if first then clearHeld s line true else s) line, true)
  | 4 => (if windowFills s line then s else writeWords (flushLine s line) a (List.replicate n Word.zero), true)
  | 5 => (if sp then s else bringLine s cl line, true)
  | 6 => if sp then (s, true) else if first then lockSector s cl line else (s, true)
  | 7 => (if sp || !first then s else unlockSector s cl line, true)
  | _ => (dropL1I s line, true)

/-- A completion sent, or the operation dropped from the queue with it (R234). -/
def rangeEnd (s : State) (cl : Nat) (r : RangeOp) (status at' : Nat) (stopped : Bool) : State :=
  let ended : Word := if stopped then Word.fixN at' else Word.fix (BitVec.ofInt 64 (-1))
  sendHw (modCluster s cl fun k => { k with rangeQ := k.rangeQ.drop 1 }) (.rangeDone cl) r.part r.qid
    [Word.fixN r.cookie, Word.fixN status, Word.fixN r.done, ended]

/-- Whether a ZERO overlaps the heap of a partition that is marking (R230). -/
def zeroRefused (s : State) (r : RangeOp) : Bool :=
  let p := getPart s r.part
  r.op == 4 && p.marking && decide (r.base < p.heaplim.toNat) && decide (p.heapbase.toNat < r.base + r.len) && r.len != 0

/-- Whether an operation on a line has to wait: CLEAN and CLEAN_INVALIDATE for a writeback until it is acknowledged, INVALIDATE for one on
its way (R220), a prefetch for room in the writeback buffer, and each for a shared miss-tracking entry (R22). -/
def rangeWaits (s : State) (cl op line : Nat) : Bool :=
  let wb (ok : WbEnt → Bool) : Bool := s.clusters.any fun e => e.2.wb.any fun w => w.line == line && ok w && !w.answered
  (op != 8 && !sharedFree s cl) || ((op == 1 || op == 3) && wb fun _ => true) || (op == 2 && wb WbEnt.sent) ||
    ((op == 5 || op == 6) && !wbRoom s cl)

/-- RANGE_OPERATION_RUN (R230 to R236). -/
def rangeRun (s : State) (cl : Nat) : State :=
  let k := getCluster s cl
  match k.rangeQ with
  | [] => s
  | r :: rest =>
    if 8 ≤ rangeOwing s cl ∨ storesDone s r.ctx r.seq = false ∨ reflPauses s r.part = true then s
    else
      let len := min r.len (2 ^ 48 - r.base)
      if r.done = 0 ∧ zeroRefused s r then rangeEnd s cl r 3 r.base true
      else if len ≤ r.done then rangeEnd s cl r (if r.lockFull then 4 else 0) 0 false
      else if collWins s cl then s
      else
        let va := r.base + r.done
        let n := min (8 - va % 8) (len - r.done)
        let first := r.done == 0 || va % 32 == 0
        match rangeXlate s cl r va with
        | (s1, none) => rangeEnd s1 cl r 1 va true
        | (s1, some (pa, typ)) =>
          let step (s : State) (ok : Bool) : State :=
            let r1 : RangeOp := { r with done := r.done + n, lockFull := r.lockFull || !ok }
            let s2 := modCluster s cl fun k => { k with rangeQ := r1 :: rest }
            if len ≤ r1.done then rangeEnd s2 cl r1 (if r1.lockFull then 4 else 0) 0 false else s2
          if typ = 2 ∨ typ = 3 then
            if r.op = 4 then rangeEnd s1 cl r 2 va true else step s1 true
          else if rangeWaits s1 cl r.op (pa % 2 ^ 36 / 8) then s1
          else
            let (s2, ok) := rangeLine (portRound s1 cl true) cl r.op pa n first
            step s2 ok

def execRangeOperationRun (cluster : Nat) (s : State) : Host.Outcome State Fault Refusal := .next (rangeRun s cluster)

/-- RANGE_COMPLETION_RETRY (R234): the oldest completion held is sent again. -/
def rangeRetry (s : State) (cl : Nat) : State :=
  match (getCluster s cl).rangeHeld with
  | [] => s
  | d :: rest =>
    sendHw (modCluster s cl fun k => { k with rangeHeld := rest }) (.rangeDone cl) d.part d.qid d.words

def execRangeCompletionRetry (cluster : Nat) (s : State) : Host.Outcome State Fault Refusal := .next (rangeRetry s cluster)

end Sys2Proof.Machine
end

