-- ==== Sys2Proof/Machine/QueueEvents.lean ====
section
/-!
DEFINITION. The events of the queue engine: receives answered (R299, R300), messages released (R294, R295, R413) and
judged at a home of this device (R296, R297, R308, R309, R340).
-/

namespace Sys2Proof.Machine
open Sys2Proof

/-! ## Receives -/

/-- The answer of a receive that is not a message (R299): a wait's other registers take NIL. -/
def recvAnswer (n : Int) (wait : Bool) : OpResult :=
  .words (Word.fix (BitVec.ofInt 64 n) :: (if wait then List.replicate 8 Word.nil else []))

/-- QUEUE_RECEIVE_REQUEST (R299, R300): a receive that has no answer and is not on a list. -/
def receiveRequest (s : State) (c : Nat) : State :=
  match (getCtx s c).slot with
  | some { kind := .recv q wait, id, result := none, .. } =>
    let x := getQ s q
    if !ringFree s q then s
    else if x.waiters.any fun w => w.ctx == c && w.op == id then s
    else if !x.enabled then setResult s c id (recvAnswer (-1) wait)
    else if !mayReceive s q c then setResult s c id (recvAnswer (-2) wait)
    else if x.occ ≠ 0 then setResult (dequeue s q) c id (.words (recvWords (ringHead s q)))
    else if !wait then setResult s c id (recvAnswer 0 false)
    else if 64 ≤ x.waiters.length then setResult s c id (recvAnswer (-3) true)
    else setQ s q { x with waiters := x.waiters ++ [{ ctx := c, op := id }] }
  | _ => s

def execQueueReceiveRequest (ctx : Nat) (s : State) : Host.Outcome State Fault Refusal := .next (receiveRequest s ctx)

/-! ## Release -/

/-- A flow's index among the flows of its source cluster (R317). -/
def flowIxOf (s : State) (flow : Nat) : Nat :=
  let cl := (tget ({} : Flow) s.flows flow).cluster
  (s.flows.filter fun e => e.2.cluster == cl && decide (e.1 < flow)).length

/-- The cluster whose outbox sent a message; none for the base die's (R317). -/
def outboxCluster (m : Msg) : Option Nat :=
  match m.kind, m.src with
  | .satb core _, _ => some (clusterOfCore core)
  | .rangeDone cl, _ => some cl
  | _, .cluster c => some c
  | _, _ => none

/-- The message descriptor (R317). -/
def msgDescriptor (s : State) (m : Msg) : Word :=
  let srcctx := if m.kind = .ctx then m.ctx else match m.kind.src, outboxCluster m with
    | 2, some c => c * 512
    | _, _ => 0
  ⟨tagRAW, field m.qid 44 ||| field m.words.length 40 ||| flagBit m.sun 39 ||| field m.kind.src 37 |||
    field srcctx 23 ||| flagBit (outboxCluster m).isNone 22 |||
    (if m.sun then field (flowIxOf s m.flow) 15 ||| field (m.deadline % 32768) 0 else 0)⟩

/-- The MSG flit, with its MSG_CONT when the message has eight words, handed to a port (R315, R317). -/
def sendMsgFlits (s : State) (port vc : Nat) (m : Msg) (desc : Word) : State :=
  let f : Flit := { typ := 9, vc, dst := m.qid / 65536, src := m.srcDev, part := m.part, words := desc :: m.words.take 7 }
  let s1 := sendFlit s port f
  if m.words.length = 8 then sendFlit s1 port { f with typ := 10, words := m.words.drop 7 } else s1

/-- A message on its way: to its home on this device, or over the partition's route (R24, R295, R339). -/
def departMsg (s : State) (m0 : Msg) : State :=
  let m := if m0.sun then { m0 with deadline := s.time + 1460 } else m0
  if m.qid / 65536 = s.dev then { s with msgs := s.msgs ++ [m] }
  else match routePort s m.part (m.qid / 65536) with
    | some port => sendMsgFlits s port (if m.sun then 1 else 2) m (msgDescriptor s m)
    | none => { s with msgs := s.msgs ++ [m] }

/-- The first entry of an outbox whose release point has come (R295); entries of one context keep their order (R298). -/
def releasable (s : State) (src : MsgFrom) : Option (Nat × OutEnt) :=
  ((List.range s.outbox.length).zip s.outbox).find? fun e =>
    e.2.msg.src == src && !e.2.sent &&
      (match e.2.msg.kind with | .ctx => storesDone s e.2.msg.ctx e.2.seq | _ => true)

/-- MESSAGE_RELEASE (R295): for a Sunlit message its acceptance; an output of a mirrored partition is held (R413). -/
def messageRelease (s : State) (src : MsgFrom) : State :=
  match releasable s src with
  | none => s
  | some (i, o) =>
    let mark : State := { s with outbox := s.outbox.set i { o with sent := true } }
    if outputsHeld s o.msg.part && !staysMirrored s o.msg then
      if 16384 ≤ s.refl.heldOuts.length then s
      else holdOut mark (.msg o.msg)
    else departMsg mark o.msg

def execMessageRelease (src : MsgFrom) (s : State) : Host.Outcome State Fault Refusal := .next (messageRelease s src)

/-! ## Arrival -/

/-- The outbox entry of a message that has been acknowledged removed: the oldest one sent to its queue in its class
(R318). -/
def endOutbox (s : State) (m : Msg) : State :=
  match ((List.range s.outbox.length).zip s.outbox).find? fun e =>
    e.2.sent && e.2.msg.src == m.src && e.2.msg.qid == m.qid && e.2.msg.sun == m.sun && e.2.msg.flow == m.flow with
  | some e => { s with outbox := s.outbox.eraseIdx e.1 }
  | none => s

/-- Whether a root table lists a queue as a QUEUE root (R156, R309); the table ends at a word that is no descriptor's. -/
def listedRoot (s : State) (g : Agent) (qid : Nat) : Nat → Nat → Bool
  | 0, _ => false
  | n + 1, va =>
    match (agRead s g va).2 with
    | .inr _ => false
    | .inl w0 =>
      if w0.tag ≠ tagRAW then false
      else (bits w0.pay 63 60 == 2 && bits w0.pay 19 0 == qid) || listedRoot s g qid n (va + 2)

/-- The pointer words of a message logged for a partition as though overwritten, when its ring is a root of that partition while it
marks (R309). -/
def logFor (s : State) (q p : Nat) (words : List Word) : State :=
  let k := getPart s p
  let g := collAgent s p (queueHome s q)
  if logsStores k && listedRoot s g (s.dev * 65536 + q) (2 ^ 47) k.roottab.toNat then
    words.foldl (fun s w => if barrierOf k w = 1 then logWord s (queueHome s q * 16) p noCtx w else s) s
  else s

/-- The pointer words of a message logged for every marking partition that lists its ring (R309). -/
def logArrival (s : State) (q : Nat) (words : List Word) : State :=
  ((s.parts.filter fun e => e.2.defined && e.2.marking).map Prod.fst).foldl (fun s p => logFor s q p words) s

/-- A message placed, and what its engine learns of it (R308). -/
def placeMsg (s : State) (m : Msg) : State :=
  let s1 := acceptMsg (logArrival s (m.qid % 65536) m.words) m
  match m.kind with
  | .drain seq => { s1 with glow := { s1.glow with drainSeq := (seq + 1) % 2 ^ 32, drainSent := false } }
  | .satb _ _ => settleFlush s1 m.part
  | .weak => modColl s1 m.part fun k => { k with weakFull := false }
  | _ => s1

/-- A refusal, by who sent the message (R297, R308). -/
def refuseMsg (s : State) (m : Msg) (status : Nat) : State :=
  match m.kind with
  | .ctx | .host =>
    let s1 := if m.sun then returnCredit s m.flow else s
    bounce s1 m status
  | .satb core ctxs => settleFlush (overflowLog s core m.part (ctxs.zip m.words)) m.part
  | .weak =>
    let s1 := modColl s m.part fun k => { k with weakFull := true }
    if m.qid / 65536 = s.dev then { s1 with msgs := s1.msgs ++ [m] } else { s1 with outbox := s1.outbox ++ [{ msg := m }] }
  | .markReq => if m.qid / 65536 = s.dev then { s with msgs := s.msgs ++ [m] } else { s with outbox := s.outbox ++ [{ msg := m }] }
  | .rangeDone cl =>
    if status = stFULL then
      modCluster s cl fun k => { k with rangeHeld := k.rangeHeld ++ [{ part := m.part, qid := m.qid, words := m.words }] }
    else report s 0x6002 (.queue m.qid) [BitVec.ofNat 64 status]
  | .drain _ =>
    { s with glow := { s.glow with refused := min 0xFFFF (s.glow.refused + 1), drainRetry := some (s.time + 100000) } }
  | .bounce => countLost s m.part 297 m.qid
  | .doorbell | .peer => s

/-- A message judged at its home on this device (R296); a late Sunlit one is bounced with LINK_DOWN (R340). -/
def judgeLocal (s : State) (m : Msg) : State :=
  let s1 := endOutbox s m
  if m.qid / 65536 ≠ s.dev then refuseMsg s1 m stNO_PATH
  else if m.sun ∧ m.deadline < s.time then refuseMsg s1 m stLINK_DOWN
  else match judge s1 m with
    | none => placeMsg s1 m
    | some st => refuseMsg s1 m st

end Sys2Proof.Machine
end

