-- ==== Sys2Proof/Machine/Microcode.lean ====
section
/-!
DEFINITION. Microwords (R198, R199): their fields, their reserved encodings, their parity and the arithmetic of the two ALUs.
-/

namespace Sys2Proof.Machine
open Sys2Proof

/-- Bits hi down to lo of a microword. -/
def mwBits (w : BitVec 168) (hi lo : Nat) : Nat := w.toNat / 2 ^ lo % 2 ^ (hi - lo + 1)

/-- The fields of a microword (R198). -/
structure Micro where
  commit : Bool
  poll : Bool
  trace : Bool
  nxt : Nat
  naddr : Nat
  cond : Nat
  ra : Nat
  rb : Nat
  rw : Nat
  wsrc : Nat
  alu0op : Nat
  alu0b : Nat
  alu1op : Nat
  alu1a : Nat
  alu1b : Nat
  tagop : Nat
  tagsel : Nat
  tagk : Nat
  memop : Nat
  line : Bool
  membar : Nat
  lbuf : Nat
  cntop : Nat
  const : Nat
  flags : Nat
  status : Nat
  maddr : Nat
  mdata : Nat
  disp : Nat
deriving DecidableEq, Repr

def microDecode (w : BitVec 168) : Micro :=
  { commit := w.getLsbD 165, poll := w.getLsbD 164, trace := w.getLsbD 163
    nxt := mwBits w 162 160, naddr := mwBits w 159 146, cond := mwBits w 145 142
    ra := mwBits w 141 136, rb := mwBits w 135 130, rw := mwBits w 129 124, wsrc := mwBits w 123 121
    alu0op := mwBits w 120 115, alu0b := mwBits w 114 113
    alu1op := mwBits w 112 107, alu1a := mwBits w 106 105, alu1b := mwBits w 104 103
    tagop := mwBits w 102 99, tagsel := mwBits w 98 96, tagk := mwBits w 95 88
    memop := mwBits w 87 84, line := w.getLsbD 83, membar := mwBits w 82 81, lbuf := mwBits w 80 77
    cntop := mwBits w 76 74, const := mwBits w 73 42, flags := mwBits w 41 40, status := mwBits w 39 34
    maddr := mwBits w 33 32, mdata := mwBits w 31 30, disp := mwBits w 29 26 }

/-- A reserved value of a field, which raises MICRO_FAULT (R199). -/
def Micro.reserved (m : Micro) : Bool :=
  m.nxt == 7 || m.wsrc == 7 || decide (9 ≤ m.memop) || decide (5 ≤ m.cntop) || decide (0x10 ≤ m.alu0op) ||
    decide (0x10 ≤ m.alu1op) || decide (8 ≤ m.tagop) || decide (13 ≤ m.cond) || decide (5 ≤ m.disp)

/-- The parity bits of a microword (R198): even over the odd and over the even bits below them. -/
def microParity (w : BitVec 168) : Nat :=
  let par (k : Nat) : Nat := ((List.range 83).filter fun i => w.getLsbD (2 * i + k)).length % 2
  par 1 * 2 + par 0

/-- PAR of a microword holds. -/
def microParityOk (w : BitVec 168) : Bool := mwBits w 167 166 == microParity w

/-- PAR and the reserved bits of a microword hold. -/
def microOk (w : BitVec 168) : Bool := microParityOk w && mwBits w 25 0 == 0

/-- Leading zeros of a word. -/
def clz64 (v : W64) : Nat := if v.toNat = 0 then 64 else 63 - Nat.log2 v.toNat

/-- An ALU operation on two payloads with the carry flag, and the carry that it makes. What the spec does not state is taken from a free
word: a shift or extract amount beyond the operand, the sense of a borrow, the form of a comparison's result, and the carry of an
operation that is no sum. -/
def aluOp (free : W64) (op : Nat) (a b : W64) (c : Bool) : W64 × Bool :=
  let n := b.toNat
  let logic (v : W64) : W64 × Bool := (v, bit free 0)
  let sum (k : Nat) : W64 × Bool := (BitVec.ofNat 64 (a.toNat + n + k), decide (2 ^ 64 ≤ a.toNat + n + k))
  match op with
  | 0x00 => logic a
  | 0x01 => sum 0
  | 0x02 => sum (if c then 1 else 0)
  | 0x03 => logic (a - b)
  | 0x04 => logic free
  | 0x05 => logic (a &&& b)
  | 0x06 => logic (a ||| b)
  | 0x07 => logic (a ^^^ b)
  | 0x08 => logic (if n < 64 then a <<< n else free)
  | 0x09 => logic (if n < 64 then a >>> n else free)
  | 0x0A => logic (if n < 64 then a.sshiftRight n else free)
  | 0x0B => logic (a * b)
  | 0x0C => logic (BitVec.ofNat 64 (a.toNat * n / 2 ^ 64))
  | 0x0D => logic (BitVec.ofNat 64 (clz64 a))
  | 0x0E => logic (if n < 8 then BitVec.ofNat 64 (bits a (8 * n + 7) (8 * n)) else free)
  | _ => logic free

/-- The two ALUs of a microword (R198). Where each takes the other's result, both results are free. -/
def alus (f0 f1 : W64) (m : Micro) (a b data cnt : W64) (c : Bool) : (W64 × Bool) × (W64 × Bool) :=
  let k : W64 := BitVec.ofNat 64 m.const
  let alu0 (r1 : W64) : W64 × Bool :=
    aluOp f0 m.alu0op a (match m.alu0b with | 0 => b | 1 => k | 2 => cnt | _ => r1) c
  let alu1 (r0 : W64) : W64 × Bool :=
    aluOp f1 m.alu1op (match m.alu1a with | 0 => a | 1 => b | 2 => data | _ => r0)
      (match m.alu1b with | 0 => b | 1 => k | 2 => cnt | _ => data) c
  if m.alu0b = 3 ∧ m.alu1a = 3 then (aluOp f0 0 f0 0 c, aluOp f1 0 f1 0 c)
  else if m.alu0b = 3 then
    let r1 := alu1 0
    (alu0 r1.1, r1)
  else
    let r0 := alu0 0
    (r0, alu1 r0.1)

/-- The TDT field that TAGSEL names, of an entry (R61, R198). -/
def tdtField (e : W64) (sel : Nat) : Nat :=
  match sel with
  | 0 => tdtClass e
  | 1 => tdtScan e
  | 2 => tdtEqual e
  | 3 => tdtBarrier e
  | 4 => tdtSizeSrc e
  | 5 => tdtArith e
  | 6 => (tdtHdrTag e).toNat
  | _ => (tdtInitTag e).toNat

/-- Whether a branch condition holds (R199). -/
def condHolds (cond : Nat) (z n c : Bool) (counter : Nat) (test failed yielding : Bool) : Bool :=
  match cond with
  | 0 => true
  | 1 => z
  | 2 => !z
  | 3 => c
  | 4 => !c
  | 5 => n
  | 6 => !n
  | 7 => counter == 0
  | 8 => counter != 0
  | 9 => test
  | 10 => !test
  | 11 => failed
  | _ => yielding

end Sys2Proof.Machine
end

