-- ==== Sys2Proof/Machine/Segments.lean ====
section
/-!
DEFINITION. What the Routine Engines' catalogue computes (R188 to R191): their accesses, operands and the work of one segment of each
routine, up to its commit.
-/

namespace Sys2Proof.Machine
open Sys2Proof

/-! ## What a routine's microcode works with -/

/-- A request as its engine serves it (R183). -/
structure Rt where
  cl : Nat
  en : Nat
  c : Nat
  pn : Nat
  p : Partition
  priv : Bool
  g : Agent
  rq : RqRec

/-- What ends a segment before its commit: a fault, a nursery without room, an engine error, a wait for a to-space region, a word of
another device, or a resolution by another device. -/
inductive RtStop where
  | fault (f : FaultRec)
  | limit
  | broken
  | wait
  | remote (pa va : Nat)
  | resolveAt (pa va : Nat)

abbrev RtM := ExceptT RtStop (StateM State)

/-- A fault of the routine with an address, and one of its own operands, at the triggering packet (R192). -/
def rtFail {α : Type} (cause va : Nat) : RtM α := throw (.fault { cause, faddr := BitVec.ofNat 64 va })
def rtBad {α : Type} (r : Rt) (cause : Nat) : RtM α := rtFail cause r.rq.pc

/-- The physical address and entry of a word that the routine reaches, after the checks of R190 and R192. -/
def rtXlate (r : Rt) (va : Nat) (acc : Access) (row : TypeRow) : RtM (Nat × TlbEnt) := do
  let s ← get
  if 2 ^ 48 ≤ va then rtFail cBAD_ADDRESS va
  else
    let (s1, res) := unitXlate s r.g.unit r.pn r.g.asid r.g.root { va, acc, priv := r.priv, row }
    set s1
    match res with
    | .inr f => throw (.fault { f with faddr := BitVec.ofNat 64 va })
    | .inl e =>
      let pa := entPa e va
      if e.typ = 2 then rtFail cMEM_TYPE va
      else if e.typ = 3 then
        if (dataPort s1 r.pn (pa / 2 ^ 36)).isNone then rtFail cNO_PATH va else return (pa, e)
      else do
        set (wakeLine s1 (pa % 2 ^ 36 / 8))
        return (pa, e)

/-- The key under which an engine keeps the answer of a resolution, beside those of its reads. -/
def resolveKey (pa : Nat) : Nat := 2 ^ 40 + pa

/-- A word read (R190): remote pages uncached, one word at a time; a normal-uncached page at its home (R217). -/
def rtRead (r : Rt) (va : Nat) : RtM Word := do
  let (pa, e) ← rtXlate r va .load .any
  let s ← get
  if e.typ = 3 then
    let buf := (engineOf s r.cl r.en).remBuf
    if thas buf pa then return tget Word.zero buf pa else throw (.remote pa va)
  else if e.typ = 1 then
    let (w, s1) := homeRead s (pa % 2 ^ 36)
    set s1
    return w
  else return cohRead s (pa % 2 ^ 36)

/-- A word whose loss ends the routine. -/
def rtClean (r : Rt) (va : Nat) : RtM Word := do
  let w ← rtRead r va
  if w.tag = tagPOISON then throw (.fault (poisonFault (BitVec.ofNat 64 va) w)) else return w

/-- A pointer of another colour resolved under R162, or by the device that holds its target (R333); the access that fails names FADDR
(R192, R507). -/
def rtResolve (r : Rt) (w : Word) (slot : Nat) (weak : Bool) : RtM Word := do
  let s ← get
  if !colourMiss r.p r.g.goodc w then return w
  else match farTarget s r.g w with
    | (s, some pa) => do
      set s
      let buf := (engineOf s r.cl r.en).remBuf
      if thas buf (resolveKey pa) then return farWord r.g.goodc weak w (ptrAnswered w (tget Word.zero buf (resolveKey pa)))
      else if leftToSoftware s r.p weak then throw (.fault (softFault slot))
      else if (dataPort s r.pn (pa / 2 ^ 36)).isNone then rtFail cNO_PATH slot
      else throw (.resolveAt pa slot)
    | (s, none) =>
      let (s1, res) := resolve s r.g w slot weak
      set s1
      match res with
      | .word w1 => return w1
      | .fault f => throw (.fault f)
      | .wait => throw .wait

/-- A slot loaded as `LS.ldf` loads it, with the read barrier (R191); its heal is held until the commit (R185). -/
def rtSlot (r : Rt) (va : Nat) : RtM Word := do
  let w ← rtRead r va
  let w1 ← rtResolve r w va false
  if w1 ≠ w then modify fun s => modEngine s r.cl r.en fun e => { e with heals := e.heals ++ [(va, w, w1)] }
  return w1

/-- The operand checks 2 and 4 to 7 of R46 on an operand word (R189). -/
def rtOperand (r : Rt) (w : Word) : RtM Unit := do
  match operandFault r.p .deref w with
  | some c =>
    if c = cPOISON_USE then throw (.fault (poisonFault (BitVec.ofNat 64 r.rq.pc) w)) else rtBad r c
  | none => return ()

/-- The object that a pointer operand of a given tag names: the address of its header, and the header (R51). A FORWARD is followed
once (R60). -/
def rtObject (r : Rt) (w : Word) : RtM (Nat × Word) := do
  let w1 ← rtResolve r w (ptrAddr w) false
  let h0 ← rtClean r (ptrAddr w1)
  let a := if h0.tag = tagFORWARD then ptrAddr h0 else ptrAddr w1
  let h ← if h0.tag = tagFORWARD then rtClean r a else pure h0
  if h0.tag = tagFORWARD ∧ h.tag = tagFORWARD then rtFail cBAD_TAG (ptrAddr w1)
  else if h.tag ≠ tdtHdrTag (tdtOf r.p w.tag) ∨ hdrReserved h ≠ 0 then rtFail cBAD_HEADER a else return (a, h)

/-- A FIX operand in [lo, hi]. -/
def rtFix (r : Rt) (w : Word) (lo hi : Nat) : RtM Nat := do
  if w.tag ≠ tagFIX then rtBad r cOPERAND_TAG
  else if w.pay.toNat < lo ∨ hi < w.pay.toNat then rtBad r cOPERAND_RANGE
  else return w.pay.toNat

/-- The form of an address operand (R127, R190), with no access: a FIX address whose range does not pass the end of the
address space, or a pointer. A count of 0 asks no more of it (DEDUCED, log entry 17). -/
def rtForm (r : Rt) (w : Word) (count : Nat) : RtM Unit := do
  if w.tag = tagFIX then
    if 2 ^ 48 ≤ w.pay.toNat ∨ 2 ^ 48 < w.pay.toNat + count then rtFail cBAD_ADDRESS w.pay.toNat else return ()
  else
    rtOperand r w
    if !isPointer r.p w then rtBad r cOPERAND_TAG else return ()

/-- An address operand (R127, R190): a FIX, or a pointer first resolved, with the GEN that its stores compare; BAD_ADDRESS
when its range passes the end of the address space. -/
def rtAddress (r : Rt) (w : Word) (count : Nat) : RtM (Nat × Option Nat) := do
  rtForm r w count
  if w.tag = tagFIX then return (w.pay.toNat, none)
  else
    let w1 ← rtResolve r w (ptrAddr w) false
    if 2 ^ 48 < ptrAddr w1 + count then rtFail cBAD_ADDRESS (ptrAddr w1) else return (ptrAddr w1, some (ptrGen w))

/-- An exact or rounded number as a routine computes it (R121). -/
inductive NumRes where
  | int (n : Int)
  | rat (q : Q)
  | flo (w : W64)
deriving DecidableEq, Repr

inductive RtRes where
  | words (ws : List Word)
  | nums (ns : List NumRes)
deriving DecidableEq, Repr

/-- A segment's effects: stores with the container generation of their operand, the progress, and the result at its end; for a number
the result that the routine will deliver, for which it reserves a range of the nursery at its start. -/
structure RtSeg where
  stores : List (Nat × Word × Option Nat) := []
  prog : List Word := []
  res : Option RtRes := none
  later : List NumRes := []
deriving DecidableEq, Repr

/-- Progress register i as committed. -/
def pgOf (r : Rt) (i : Nat) : Word := (r.rq.prog[i]?).getD Word.zero
def pgNat (r : Rt) (i : Nat) : Nat := (pgOf r i).pay.toNat

def pgs (a b c d : Word) : List Word := [a, b, c, d]

/-- A result that ends the routine. -/
def rtEnd (pg : List Word) (ws : List Word) : RtSeg := { prog := pg, res := some (.words ws) }

/-- The end of a block routine with a count of 0, its address operands of the right form (R190). -/
def rtNothing (r : Rt) (ops : List Word) (res : Word) : RtM RtSeg := do
  ops.forM fun w => rtForm r w 0
  return rtEnd (pgs Word.zero Word.zero Word.zero Word.zero) [res]

def fixInt (n : Int) : Word := Word.fix (fixPay n)

/-! ## The numeric routines 0x01 to 0x0B (R189) -/

/-- An operand's value: an exact integer or rational, or a FLO. -/
inductive NumIn where
  | int (n : Int)
  | rat (q : Q)
  | flo (w : W64)
deriving DecidableEq, Repr

/-- The value of limbs, least significant first. -/
def limbsVal (ls : List W64) : Nat := ls.foldr (fun w a => w.toNat + a * 2 ^ 64) 0

def bigNegative (h : Word) : Bool := bit h.pay (40 + Config.bigSignBit % 20)

/-- A BIG object read (R50, R51). -/
def rtBig (r : Rt) (w : Word) : RtM Int := do
  let (a, h) ← rtObject r w
  let ls ← (List.range (hdrLength h)).mapM fun i => do
    let l ← rtClean r (a + 1 + i)
    return l.pay
  let n : Int := limbsVal ls
  return if bigNegative h then -n else n

/-- A RAT object's numerator or denominator: FIX or BIG, otherwise OPERAND_RANGE at the header. -/
def rtPart (r : Rt) (hdr va : Nat) : RtM Int := do
  let w ← rtSlot r va
  match arithOf r.p w with
  | 1 => return fixVal w.pay
  | 3 => rtBig r w
  | _ => if w.tag = tagPOISON then throw (.fault (poisonFault (BitVec.ofNat 64 va) w)) else rtFail cOPERAND_RANGE hdr

/-- Whether a routine's operand has a kind that it accepts: BIG_GCD takes no FLO and no RAT (R189). -/
def rtKind (r : Rt) (w : Word) : RtM Unit :=
  let k := arithOf r.p w
  if k = 0 ∨ 4 < k ∨ (r.rq.routine = 0x0A ∧ (k = 2 ∨ k = 4)) then rtBad r cARITH_TYPE else return ()

/-- A numeric operand's value, its checks made (R189). -/
def rtNum (r : Rt) (w : Word) : RtM NumIn := do
  match arithOf r.p w with
  | 1 => return .int (fixVal w.pay)
  | 2 => return .flo w.pay
  | 3 =>
    let n ← rtBig r w
    return .int n
  | 4 =>
    let (a, _) ← rtObject r w
    let n ← rtPart r a (a + 1)
    let d ← rtPart r a (a + 2)
    if d ≤ 0 then rtFail cOPERAND_RANGE a else return .rat ⟨n, d.toNat⟩
  | _ => rtBad r cARITH_TYPE

def NumIn.q : NumIn → Q
  | .int n => Q.ofInt n
  | .rat q => q
  | .flo w => (floDecode w).q

/-- A result normalised (R120): an integer, or a rational in lowest terms. -/
def numOf (q : Q) : NumRes := let m := q.norm; if m.den = 1 then .int m.num else .rat m

/-- A FLO that stands for an exact operand beside a NaN or an infinity: ±1, or 0, with its sign (R121). -/
def standIn (q : Q) : W64 := if q.num = 0 then 0 else if q.num < 0 then 0xBFF0000000000000 else 0x3FF0000000000000

/-- The sum, difference, product or quotient of a FLO and an exact value, rounded once (R121). -/
def mixedFlo (op : Nat) (a b : NumIn) : W64 :=
  let enc (x : NumIn) : W64 := match x with | .flo w => w | y => standIn y.q
  let ieee (x y : W64) : W64 := match op with | 1 => floAdd x y | 2 => floSub x y | 3 => floMul x y | _ => floDiv x y
  let fin (x : NumIn) : Bool := match x with | .flo w => floFinite w | _ => true
  let neg (x : NumIn) : Bool := match x with | .flo w => floSign w | y => decide (y.q.num < 0)
  let flo (x : NumIn) : Bool := match x with | .flo _ => true | _ => false
  if (flo a && flo b) || !fin a || !fin b then ieee (enc a) (enc b)
  else match op with
    | 1 => floOfQ false (a.q.add b.q)
    | 2 => floOfQ false (a.q.sub b.q)
    | 3 => floOfQ (neg a != neg b) (a.q.mul b.q)
    | _ => if b.q.num = 0 then ieee (enc a) (enc b) else floOfQ (neg a != neg b) (a.q.div b.q)

/-- The value of a numeric operand for a comparison. -/
def NumIn.nval : NumIn → NVal
  | .flo w => NVal.ofFlo w
  | x => .ex x.q

/-- A FIX operand beside a FLO converted first (R121). -/
def NumIn.asFlo (w : Word) (x : NumIn) : NumIn := if w.tag = tagFIX then .flo (floOfFix w.pay) else x

/-- The results of a numeric routine, or its fault cause (R121, R189). -/
def numRoutine (n : Nat) (wa wb : Word) (a b : NumIn) : List NumRes ⊕ Nat :=
  let isFlo (x : NumIn) : Bool := match x with | .flo _ => true | _ => false
  let isRat (x : NumIn) : Bool := match x with | .rat _ => true | _ => false
  let anyFlo := isFlo a || isFlo b
  let a' := if anyFlo then a.asFlo wa else a
  let b' := if anyFlo then b.asFlo wb else b
  let exact (f : Q → Q → Q) : List NumRes ⊕ Nat :=
    if anyFlo then .inl [.flo (mixedFlo n a' b')] else .inl [numOf (f a.q b.q)]
  match n with
  | 0x01 => exact Q.add
  | 0x02 => exact Q.sub
  | 0x03 => exact Q.mul
  | 0x04 => if !isFlo b && b.q.num = 0 && (wb.tag == tagFIX || !anyFlo) then .inr cDIV_ZERO else exact Q.div
  | 0x05 | 0x06 | 0x0B =>
    if anyFlo || isRat a || isRat b then .inr cARITH_TYPE
    else if b.q.num = 0 then .inr cDIV_ZERO
    else
      let q := a.q.num.tdiv b.q.num
      let m := a.q.num.tmod b.q.num
      .inl (if n = 0x05 then [.int q] else if n = 0x06 then [.int m] else [.int q, .int m])
  | 0x07 => .inl [.int (a.nval.cmp b.nval)]
  | 0x08 => match b with
    | .flo w => .inl [.flo w]
    | x => .inl [.flo (floOfQ false x.q)]
  | 0x09 => match b with
    | .flo w => if floFinite w then .inl [.int (floDecode w).q.trunc] else .inr cARITH_RANGE
    | x => .inl [.int x.q.trunc]
  | _ =>
    if anyFlo || isRat a || isRat b then .inr cARITH_TYPE
    else .inl [.int (Nat.gcd a.q.num.natAbs b.q.num.natAbs : Nat)]

/-- The limbs of an integer, at least one. -/
def limbsOf (n : Int) : Nat := max 1 ((Nat.log2 n.natAbs + 64) / 64)
def NumIn.limbs : NumIn → Nat
  | .int n => limbsOf n
  | .rat q => limbsOf q.num + limbsOf q.den
  | .flo _ => 1

/-- Steps of the Euclidean reduction of a pair. -/
def gcdSteps : Nat → Nat → Nat → Nat
  | 0, _, _ => 0
  | fuel + 1, a, b => if b = 0 then 0 else 1 + gcdSteps fuel b (a % b)

/-- The segments that a numeric routine takes (R188): by limbs, by limb products or by reduction steps. -/
def numSegments (n : Nat) (a b : NumIn) : Nat :=
  let up (x k : Nat) : Nat := max 1 ((x + k - 1) / k)
  match n with
  | 0x03 | 0x04 | 0x05 | 0x06 | 0x0B => up (a.limbs * b.limbs) 96
  | 0x0A => max 1 (gcdSteps (128 * (a.limbs + b.limbs)) a.q.num.natAbs b.q.num.natAbs)
  | _ => up (max a.limbs b.limbs) 16

/-- The limbs of a numeric result. -/
def NumRes.limbs : NumRes → Nat
  | .int n => limbsOf n
  | .rat q => limbsOf q.num + limbsOf q.den
  | .flo _ => 1

/-- A segment of a numeric routine, whose last one ends with every limb done (R188): checks 2 to 7 on *a* and then *b*, before either's kind; then the values (R189). -/
def segNumeric (r : Rt) : RtM RtSeg := do
  let n := r.rq.routine
  let unary := n == 0x08 || n == 0x09
  if !unary then rtOperand r r.rq.a
  rtOperand r r.rq.b
  if !unary then rtKind r r.rq.a
  rtKind r r.rq.b
  let a ← if unary then pure (NumIn.int 0) else rtNum r r.rq.a
  let b ← rtNum r r.rq.b
  match numRoutine n r.rq.a r.rq.b a b with
  | .inr c => rtBad r c
  | .inl ns =>
    let k := r.rq.segs + 1
    let free (i : Nat) : Word := Word.fix (Config.routineProgress n k i)
    let total := (ns.map NumRes.limbs).foldl (· + ·) 0
    let rows := 96 * k / max 1 b.limbs
    let last := decide (numSegments n a b ≤ k)
    let quot := if n = 0x06 then limbsOf (Int.tdiv a.q.num b.q.num) else ((ns[0]?).map NumRes.limbs).getD 0
    let upTo (done all : Nat) : Word := Word.fixN (if last then all else min done all)
    let pg := match n with
      | 0x07 | 0x08 | 0x09 => pgs (Word.fixN (min (16 * k) (max a.limbs b.limbs))) Word.zero Word.zero Word.zero
      | 0x01 | 0x02 => pgs (upTo (16 * k) total) (free 1) Word.zero Word.zero
      | 0x03 => pgs (upTo rows total) (free 1) Word.zero Word.zero
      | 0x0A => pgs (free 0) (free 1) (Word.fixN k) Word.zero
      | _ => pgs (upTo rows total) (free 1) (upTo rows quot) Word.zero
    return { prog := pg, res := if last then some (.nums ns) else none, later := ns }

/-! ## The block routines 0x10 to 0x13 (R190) -/

/-- The words that one segment of 32 lines of a destination takes, going up or down. -/
def copyStep (dst done count : Nat) (down : Bool) : Nat :=
  let left := count - done
  if down then
    let top := dst + left
    min left (256 - (8 - (top - 1) % 8 - 1) % 8)
  else min left (256 - (dst + done) % 8)

def segCopy (r : Rt) : RtM RtSeg := do
  let count ← rtFix r r.rq.c 0 (2 ^ 32 - 1)
  if count = 0 then rtNothing r [r.rq.a, r.rq.b] Word.zero else
  let (src, _) ← rtAddress r r.rq.a count
  let (dst, gen) ← rtAddress r r.rq.b count
  let done := pgNat r 0
  let down := if done = 0 then decide (src < dst) && decide (dst < src + count) else pgNat r 1 == 1
  let dir := Word.fixN (b2n down)
  if count ≤ done then return rtEnd (pgs (Word.fixN done) dir Word.zero Word.zero) [Word.fixN count]
  else
    let n := copyStep dst done count down
    let first := if down then count - done - n else done
    let ws ← (List.range n).mapM fun i => rtRead r (src + first + i)
    let st := ((List.range n).zip ws).map fun e => (dst + first + e.1, e.2, gen)
    return { stores := if down then st.reverse else st
             prog := pgs (Word.fixN (done + n)) dir Word.zero Word.zero
             res := if count ≤ done + n then some (.words [Word.fixN count]) else none }

def segFill (r : Rt) : RtM RtSeg := do
  let count ← rtFix r r.rq.c 0 (2 ^ 32 - 1)
  if count = 0 then rtNothing r [r.rq.a] Word.zero else
  let (dst, gen) ← rtAddress r r.rq.a count
  let done := pgNat r 0
  if count ≤ done then return rtEnd (pgs (Word.fixN done) Word.zero Word.zero Word.zero) [Word.fixN count]
  else
    let n := copyStep dst done count false
    return { stores := (List.range n).map fun i => (dst + done + i, r.rq.b, gen)
             prog := pgs (Word.fixN (done + n)) Word.zero Word.zero Word.zero
             res := if count ≤ done + n then some (.words [Word.fixN count]) else none }

/-- The first index of n from i on at which a test of the memory holds. -/
def findIx (t : Nat → RtM Bool) (i : Nat) : Nat → RtM (Option Nat)
  | 0 => return none
  | n + 1 => do
    let b ← t i
    if b then return some i else findIx t (i + 1) n

/-- A scan of 256 words: its result when the test holds, or when the words have ended. -/
def segScan (r : Rt) (count : Nat) (miss : Word) (t : Nat → RtM Bool) : RtM RtSeg := do
  let done := pgNat r 0
  let n := min 256 (count - done)
  let f ← findIx t done n
  let pg (k : Nat) : List Word := pgs (Word.fixN k) Word.zero Word.zero Word.zero
  match f with
  | some i => return rtEnd (pg i) [Word.fixN i]
  | none => return { prog := pg (done + n), res := if count ≤ done + n then some (.words [miss]) else none }

def segCmp (r : Rt) : RtM RtSeg := do
  let count ← rtFix r r.rq.c 0 (2 ^ 32 - 1)
  if count = 0 then rtNothing r [r.rq.a, r.rq.b] Word.zero else
  let (a, _) ← rtAddress r r.rq.a count
  let (b, _) ← rtAddress r r.rq.b count
  segScan r count (Word.fixN count) fun i => do
    let x ← rtClean r (a + i)
    let y ← rtClean r (b + i)
    return decide (x ≠ y)

def segFind (r : Rt) : RtM RtSeg := do
  let count ← rtFix r r.rq.c 0 (2 ^ 32 - 1)
  if count = 0 then rtNothing r [r.rq.a] (fixInt (-1)) else
  let (a, _) ← rtAddress r r.rq.a count
  segScan r count (fixInt (-1)) fun i => do
    let x ← rtClean r (a + i)
    return decide (x = r.rq.b)

/-! ## HASH_PROBE and the strings (R191) -/

/-- The end of a probe: found with a value at a pair, or absent with the pair that a new key would take. -/
def probe (r : Rt) (body pairs start : Nat) (key : Word) : Nat → Nat → Word → RtM (Nat × Word × Option (List Word))
  | 0, done, tomb => return (done, tomb, none)
  | n + 1, done, tomb =>
    if pairs ≤ done then return (done, tomb, some [⟨tagUNBOUND, 0⟩, tomb])
    else do
      let i := (start + done) % pairs
      let k ← rtSlot r (body + 2 * i)
      if k.tag = tagPOISON then throw (.fault (poisonFault (BitVec.ofNat 64 (body + 2 * i)) k))
      else if k.tag = tagUNBOUND then
        return (done + 1, tomb, some [⟨tagUNBOUND, 0⟩, if tomb = fixInt (-1) then Word.fixN i else tomb])
      else if k.tag = tagNIL then
        probe r body pairs start key n (done + 1) (if tomb = fixInt (-1) then Word.fixN i else tomb)
      else if equalRule r.p k key then do
        let v ← rtSlot r (body + 2 * i + 1)
        return (done + 1, tomb, some [v, Word.fixN i])
      else probe r body pairs start key n (done + 1) tomb

def isPow2 (n : Nat) : Bool := n != 0 && 2 ^ Nat.log2 n == n

def segProbe (r : Rt) : RtM RtSeg := do
  rtOperand r r.rq.a
  if r.rq.a.tag ≠ tagVEC then rtBad r cOPERAND_TAG
  else if r.rq.c.tag ≠ tagFIX then rtBad r cOPERAND_TAG
  else
    let (a, h) ← rtObject r r.rq.a
    let len := hdrLength h
    if len < 2 ∨ isPow2 len = false then rtBad r cOPERAND_RANGE
    else
      let key ← rtResolve r r.rq.b r.rq.pc false
      let start := Nat.land r.rq.c.pay.toNat (len / 2 - 1)
      let tomb := if pgNat r 0 = 0 then fixInt (-1) else pgOf r 1
      let (done, tomb', res) ← probe r (a + 1) (len / 2) start key 16 (pgNat r 0) tomb
      let full : Option (List Word) := if len / 2 ≤ done then some [⟨tagUNBOUND, 0⟩, tomb'] else none
      return { prog := pgs (Word.fixN done) tomb' Word.zero Word.zero
               res := (match res with | some ws => some ws | none => full).map RtRes.words }

/-- A STR operand: the address of its first body word and its length in bytes. -/
def rtString (r : Rt) (w : Word) : RtM (Nat × Nat) := do
  rtOperand r w
  if w.tag ≠ tagSTR then rtBad r cOPERAND_TAG
  else
    let (a, h) ← rtObject r w
    return (a + 1, hdrLength h)

/-- Byte i of a string: eight bytes to a word, little-endian (R50). -/
def rtByte (r : Rt) (body i : Nat) : RtM Nat := do
  let w ← rtClean r (body + i / 8)
  return bits w.pay (8 * (i % 8) + 7) (8 * (i % 8))

def segStrCmp (r : Rt) : RtM RtSeg := do
  let (a, la) ← rtString r r.rq.a
  let (b, lb) ← rtString r r.rq.b
  let n := min la lb
  let done := pgNat r 0
  let k := min 256 (n - done)
  let f ← findIx (fun i => do
    let x ← rtByte r a i
    let y ← rtByte r b i
    return decide (x ≠ y)) done k
  match f with
  | some i =>
    let x ← rtByte r a i
    let y ← rtByte r b i
    return rtEnd (pgs (Word.fixN i) Word.zero Word.zero Word.zero) [fixInt (if x < y then -1 else 1)]
  | none =>
    let c : Int := if la < lb then -1 else if la = lb then 0 else 1
    return { prog := pgs (Word.fixN (done + k)) Word.zero Word.zero Word.zero
             res := if n ≤ done + k then some (.words [fixInt c]) else none }

/-- The search of a needle by 256 byte comparisons: the candidate, the bytes matched, and the answer once there is one. -/
def findStr (r : Rt) (h lh n ln : Nat) : Nat → Nat → Nat → RtM (Nat × Nat × Option Int)
  | 0, pos, m => return (pos, m, if m = ln then some (pos : Int) else if lh < pos + ln then some (-1) else none)
  | k + 1, pos, m =>
    if m = ln then return (pos, m, some (pos : Int))
    else if lh < pos + ln then return (pos, m, some (-1))
    else do
      let x ← rtByte r h (pos + m)
      let y ← rtByte r n m
      if x = y then findStr r h lh n ln k pos (m + 1) else findStr r h lh n ln k (pos + 1) 0

def segStrFind (r : Rt) : RtM RtSeg := do
  let (h, lh) ← rtString r r.rq.a
  let (n, ln) ← rtString r r.rq.b
  let start ← rtFix r r.rq.c 0 lh
  let pos := if r.rq.segs = 0 then start else pgNat r 0
  let m := if r.rq.segs = 0 then 0 else pgNat r 1
  let (pos', m', res) ← findStr r h lh n ln 256 pos m
  return { prog := pgs (Word.fixN pos') (Word.fixN m') Word.zero Word.zero
           res := res.map fun i => .words [fixInt i] }

/-- FNV-1a 64 over bytes. -/
def fnv (h : Nat) (b : Nat) : Nat := Nat.xor h b * 0x100000001B3 % 2 ^ 64

def segStrHash (r : Rt) : RtM RtSeg := do
  let (a, la) ← rtString r r.rq.a
  let done := pgNat r 0
  let h0 := if r.rq.segs = 0 then 0xCBF29CE484222325 else pgNat r 1
  let k := min 256 (la - done)
  let bs ← (List.range k).mapM fun i => rtByte r a (done + i)
  let h := bs.foldl fnv h0
  return { prog := pgs (Word.fixN (done + k)) (Word.fixN h) Word.zero Word.zero
           res := if la ≤ done + k then some (.words [Word.fixN h]) else none }

/-- The length of the valid UTF-8 sequence that four bytes begin (RFC 3629), 256 standing for a byte past the end; 0 when it
is not valid. -/
def utf8Len (a b c d : Nat) : Nat :=
  let cont (x : Nat) : Bool := decide (0x80 ≤ x) && decide (x ≤ 0xBF)
  if a < 0x80 then 1
  else if 0xC2 ≤ a ∧ a ≤ 0xDF then (if cont b then 2 else 0)
  else if 0xE0 ≤ a ∧ a ≤ 0xEF then
    let lo := if a = 0xE0 then 0xA0 else 0x80
    let hi := if a = 0xED then 0x9F else 0xBF
    if decide (lo ≤ b) && decide (b ≤ hi) && cont c then 3 else 0
  else if 0xF0 ≤ a ∧ a ≤ 0xF4 then
    let lo := if a = 0xF0 then 0x90 else 0x80
    let hi := if a = 0xF4 then 0x8F else 0xBF
    if decide (lo ≤ b) && decide (b ≤ hi) && cont c && cont d then 4 else 0
  else 0

/-- The check of sequences from offset i while they start below `stop`: bytes done, scalars so far, and the offset of a first
invalid one. -/
def utf8Scan (r : Rt) (a la stop : Nat) : Nat → Nat → Nat → RtM (Nat × Nat × Option Nat)
  | 0, i, n => return (i, n, none)
  | k + 1, i, n =>
    if stop ≤ i ∨ la ≤ i then return (i, n, none)
    else do
      let at' (j : Nat) : RtM Nat := if j < la then rtByte r a j else pure 256
      let b0 ← at' i
      let b1 ← at' (i + 1)
      let b2 ← at' (i + 2)
      let b3 ← at' (i + 3)
      match utf8Len b0 b1 b2 b3 with
      | 0 => return (i, n, some i)
      | l => utf8Scan r a la stop k (i + l) (n + 1)

def segStrCheck (r : Rt) : RtM RtSeg := do
  let (a, la) ← rtString r r.rq.a
  let (i, n, bad) ← utf8Scan r a la (pgNat r 0 + 256) 256 (pgNat r 0) (pgNat r 1)
  let pg := pgs (Word.fixN i) (Word.fixN n) Word.zero Word.zero
  match bad with
  | some k => return rtEnd pg [fixInt (-1 - (k : Int))]
  | none => return { prog := pg, res := if la ≤ i then some (.words [Word.fixN n]) else none }

/-- The next segment of a request (R188). -/
def segment (r : Rt) : RtM RtSeg :=
  match r.rq.routine with
  | 0x10 => segCopy r
  | 0x11 => segFill r
  | 0x12 => segCmp r
  | 0x13 => segFind r
  | 0x14 => segProbe r
  | 0x15 => segStrCmp r
  | 0x16 => segStrFind r
  | 0x17 => segStrHash r
  | 0x18 => segStrCheck r
  | _ => segNumeric r

end Sys2Proof.Machine
end

