-- ==== Sys2Proof/Machine/Routine.lean ====
section
/-!
DEFINITION. The Routine Engines (R181 to R205): taking requests, segments and their commits, the sequencer in patch RAM, trace,
suspension, faults and engine errors.
-/

namespace Sys2Proof.Machine
open Sys2Proof

/-! ## Stores of a segment (R185 to R187) -/

/-- The fault that a status other than OK stands for (R277, R329). -/
def statusFault (st va : Nat) (acc : Access) : FaultRec :=
  match st with
  | 1 => { cause := cBAD_PHYSICAL, faddr := BitVec.ofNat 64 va, info := translInfo 3 acc.code 15 0, deferred := true }
  | 5 => { cause := cSTALE_POINTER, faddr := BitVec.ofNat 64 va, deferred := true }
  | _ => { cause := cNO_PATH, faddr := BitVec.ofNat 64 va, deferred := true }

/-- A request of a routine that another device refused, or that no path carries: its routine ends with the fault (R192); a store of a request
that is no longer outstanding is recorded and dropped (R330). -/
def routineFailed (s : State) (c op : Nat) (f : FaultRec) (st : Nat) : State :=
  let x := getCtx s c
  if x.rq.state ≠ 0 ∧ x.rq.op = op ∧ x.rq.state ≠ 4 then
    modCtx s c fun x => { x with rqFail := if x.rqFail.isSome then x.rqFail else some f }
  else report s 0x7007 (.context c) [BitVec.ofNat 64 st]

/-- A card OR of a microword (R199): translated as a barrier's access (R507), its bits those that a card has (R155). -/
def rtCard (r : Rt) (va : Nat) (w : Word) : RtM SegStore := do
  let s ← get
  let (s1, res) := agXlate s r.g (agReq va .card)
  set s1
  match res with
  | .inl (pa, _) =>
    return { ctx := r.c, part := r.pn, va, pa := s.dev * 2 ^ 36 + pa, word := ⟨tagRAW, w.pay &&& 15⟩, log := false, kind := .cardOr }
  | .inr f => throw (.fault f)

/-- A store of a segment checked before its commit: TAG_PROTECT, translation, and the card that it marks; `barriers` tells whether the store
barriers apply (R198). BLK_COPY carries a POISON word as it stands (R190). -/
def rtPrepare (r : Rt) (barriers : Bool) (e : Nat × Word × Option Nat) : RtM SegStore := do
  let (va, w, gen) := e
  if tagProtected r.priv w && !(r.rq.routine == 0x10 && w.tag == tagPOISON) then rtFail cTAG_PROTECT va
  else
    let (pa, ent) ← rtXlate r va .store .any
    let needs := barriers && barrierOf r.p w != 0 && inHeap r.p va
    let st : SegStore := { ctx := r.c, part := r.pn, va, pa, word := w, bar := needs, log := barriers }
    if ent.typ = 3 then return st
    else if needs && decide (ptrGen w < gen.getD ent.gen) then
      let s ← get
      let (s1, res) := agXlate s r.g (agReq (cardAddr r.p va) .card)
      set s1
      match res with
      | .inl (pa, _) => return { st with bar := false, card := some (pa, ptrGen w) }
      | .inr f => throw (.fault f)
    else return { st with bar := false }

/-- What a microword has left for the commit, checked. -/
def rtEffect (r : Rt) : MicroEff → RtM SegStore
  | .store va w bar => rtPrepare r bar (va, w, none)
  | .cardOr va w => rtCard r va w
  | .send w => return { ctx := r.c, part := r.pn, va := 0, pa := 0, word := w, kind := .send }

/-- The outstanding stores of an engine to another device. -/
def engineStores (s : State) (cl en : Nat) : List RemReq :=
  s.remotes.filter fun q => q.who == .engine cl en && (q.op == 1 || q.op == 4)

/-- The accesses to other devices that an engine has outstanding, of at most 8 (R183). -/
def engineLines (s : State) (cl en : Nat) : Nat :=
  (s.remotes.filter fun q => q.who == .engine cl en || q.who == .heal cl (some en)).length

/-- Whether every store that the engines have committed for a context's request is visible (R184). -/
def ctxStoresMade (s : State) (c : Nat) : Bool :=
  s.clusters.all fun k => k.2.engines.all fun e =>
    !(e.2.stores.any fun x => x.ctx == c) && !((engineStores s k.1 e.1).any fun q => q.ctx == c)

/-- The committed stores of an engine made in program order (R187): at home at once, where the partition's log and cards follow (R165,
R167); to another device through a shared entry of the miss-tracking table, with at most 8 accesses outstanding (R183). A store waits for
earlier ones to another device than its own. A store for which no path is left ends the routine with NO_PATH (R24). -/
def drainStores (cl en : Nat) : List SegStore → State → State
  | [], s => modEngine s cl en fun e => { e with stores := [] }
  | e :: es, s =>
    let far := engineStores s cl en
    let hold (s : State) : State := modEngine s cl en fun g => { g with stores := e :: es }
    let a := e.pa % 2 ^ 36
    match e.kind with
    | .send => drainStores cl en es (sendHw s .weak e.part (bits (getPart s e.part).weakq 19 0) [e.word])
    | .heal old =>
      match dataPort s e.part (e.pa / 2 ^ 36) with
      | none => drainStores cl en es (report s 0x1003 (.context e.ctx) [BitVec.ofNat 64 e.va])
      | some port =>
        if 8 ≤ engineLines s cl en ∨ sharedFree s cl = false then hold s
        else drainStores cl en es (sendRemote s 2 e.part cl e.ctx (.heal cl (some en)) e.va e.pa port 0 [old, e.word] [old, e.word])
    | .cardOr =>
      if !far.isEmpty || shipWaits s (a / 8) then hold s
      else drainStores cl en es (homeWrite s a ⟨tagRAW, (cohRead s a).pay ||| e.word.pay⟩)
    | .store =>
      if e.pa / 2 ^ 36 = s.dev then
        if !far.isEmpty || shipWaits s (a / 8) || !sharedFree s cl then hold s
        else
          let old := cohRead s a
          drainStores cl en es (storeMarks (homeWrite s a e.word)
            { core := coreOf e.ctx, ctx := e.ctx, part := e.part, log := e.log, card := e.card } old)
      else
        match dataPort s e.part (e.pa / 2 ^ 36) with
        | none => drainStores cl en es (routineFailed s e.ctx (getCtx s e.ctx).rq.op (statusFault 2 e.va .store) 2)
        | some port =>
          if 8 ≤ engineLines s cl en ∨ far.any (fun q => q.pa / 2 ^ 36 != e.pa / 2 ^ 36) ∨ sharedFree s cl = false then hold s
          else
            let ws := if e.bar then [e.word, Word.fixN e.va] else [e.word]
            drainStores cl en es (sendRemote s (if e.bar then 4 else 1) e.part cl e.ctx (.engine cl en) e.va e.pa port 0 ws ws)

/-! ## Results (R120, R185, R189) -/

/-- The limbs of a magnitude, least significant first. -/
def limbs : Nat → Nat → List Word
  | 0, _ => []
  | k + 1, n => ⟨tagRAW, BitVec.ofNat 64 (n % 2 ^ 64)⟩ :: limbs k (n / 2 ^ 64)

/-- The objects of an integer, laid from address a: the words, and the word that stands for it (R120, R189). -/
def buildInt (goodc a : Nat) (n : Int) : List Word × Word :=
  if inFix n then ([], fixInt n)
  else
    let k := limbsOf n
    let sign := flagBit (decide (n < 0)) (40 + Config.bigSignBit % 20)
    (⟨tagBIGH, sign ||| field k 0⟩ :: limbs k n.natAbs, auPointer tagBIG goodc 0 a)

/-- The objects of a number from address a on. -/
def buildNum (goodc a : Nat) : NumRes → List Word × Word
  | .int n => buildInt goodc a n
  | .flo w => ([], Word.flo w)
  | .rat q =>
    let (wn, n) := buildInt goodc a q.num
    let (wd, d) := buildInt goodc (a + wn.length) q.den
    let h : Word := ⟨tagRATH, field 2 0⟩
    (wn ++ wd ++ [h, n, d], auPointer tagRAT goodc 0 (a + wn.length + wd.length))

def buildNums (goodc a : Nat) : List NumRes → List Word × List Word
  | [] => ([], [])
  | n :: ns =>
    let (o, w) := buildNum goodc a n
    let (os, ws) := buildNums goodc (a + o.length) ns
    (o ++ os, w :: ws)

/-- Whether an object of a result exceeds 256 words. -/
def tooLarge : NumRes → Bool
  | .int n => !inFix n && decide (255 < limbsOf n)
  | .rat q => decide (255 < limbsOf q.num) || decide (255 < limbsOf q.den)
  | .flo _ => false

/-- The nursery's answer to a result: no object, a range of some words at an address, too large an object, or no room (R150, R189). -/
inductive Reserve where
  | nothing
  | range (a n : Nat)
  | large
  | limit

/-- The reservation of a numeric result (R185): the range that the request holds, or a new one at `NURPTR`. -/
def reserveRes (x : Ctx) (ns : List NumRes) : Reserve :=
  if ns.any tooLarge then .large
  else match x.rq.range with
    | some (a, n) => .range a n
    | none =>
      let a := x.regs.nurptr
      let n := (buildNums x.regs.goodc a ns).1.length
      if n = 0 then .nothing
      else if a + n ≤ x.regs.nurlim then .range a n else .limit

/-- `NURPTR` advanced at once over a new reservation (R185). -/
def takeRange (s : State) (c a n : Nat) : State :=
  modCtx s c fun x => if x.rq.range.isSome then x else
    { x with regs := { x.regs with nurptr := a + n }, rq := { x.rq with range := some (a, n) } }

/-! ## How a request ends -/

/-- The request's record and slot with its end (R192, R193, R197). -/
def endRequest (s : State) (c : Nat) (st : Nat) (res : OpResult) : State :=
  let s1 := setResult s c (getCtx s c).rq.op res
  modCtx s1 c fun x => { x with rq := { x.rq with state := st }, rqSuspended := false, rqEnd := none, rqFail := none }

/-- The engine free of its request; the stores that it has committed go on. -/
def releaseEngine (s : State) (cl en : Nat) : State :=
  modEngine s cl en fun g => { g with
    serving := none, job := none, run := 0, remBuf := [], heals := [], micro := none, micro0 := none }

/-- A routine's fault as its destinations carry it (R192): FINFO in the routine's layout, EXT and HIGH kept. -/
def routineFault (rq : RqRec) (f : FaultRec) : FaultRec :=
  { f with info := field rq.routine 24 ||| field (min rq.segs 0xFFFF) 8, deferred := true }

/-- R192: the segment abandoned, the record FAILED, the failed marks. -/
def failRequest (s : State) (r : Rt) (f : FaultRec) : State :=
  releaseEngine (endRequest (tellSealed (fillRange s r.c) r.c f) r.c 4 (.fault (routineFault r.rq f))) r.cl r.en

/-- R189: the nursery lacks room; the request suspended at its last commit, the fault at the context's next boundary. DEDUCED: the
routine does not fail, so DEFERRED stays 0; R189 gives the layout of FINFO [31:0] alone. -/
def nurseryLacks (s : State) (r : Rt) : State :=
  let f := { routineFault r.rq { cause := cNURSERY_FULL, faddr := BitVec.ofNat 64 r.rq.pc, ext := 1 } with deferred := false }
  let s1 := releaseEngine s r.cl r.en
  let s2 := modCtx s1 r.c fun x => { x with rq := { x.rq with state := 3 }, rqSuspended := false, nurseryFault := some f }
  freeSlot s2 r.c

/-- The results of a finished request delivered once its stores are visible (R184). -/
def completeRequest (s : State) (r : Rt) (ws : List Word) : State :=
  releaseEngine (endRequest s r.c 0 (.words ws)) r.cl r.en

/-! ## The queue of a cluster's engines (R182 to R184, R205) -/

/-- Whether a cluster's two engines are retired. -/
def bothRetired (s : State) (cl : Nat) : Bool := (engineOf s cl 0).retired && (engineOf s cl 1).retired

/-- The cluster whose engines serve a cluster's requests: its own, or the next on the same die with an engine left; for a
sealed partition a cluster of its own (R182, R388). -/
def servingCluster (s : State) (cl : Nat) (mine : Nat → Bool) : Option Nat :=
  if !bothRetired s cl then some cl
  else ((List.range 7).map fun i => cl / 8 * 8 + (cl + 1 + i) % 8).find? fun k => !bothRetired s k && mine k

/-- The partition that a request is made for. -/
def reqPart (s : State) (q : RoutineReq) : Nat := match q.coll with | some j => j.part | none => partOf s q.ctx

/-- The clusters that a request may be served by. -/
def mayServe (s : State) (q : RoutineReq) (k : Nat) : Bool :=
  !(getPart s (reqPart s q)).sealed || ((ctxsOf s (reqPart s q)).map clusterOf).contains k

/-- Whether an engine may take a request of a cluster: a Collector's while the other engine serves none (R182); a context's once its
earlier stores, and those that engines committed for its request, are visible and its cancellation packet is past (R88, R184); either after
an engine error on the other engine (R205). -/
def mayTake (s : State) (cl en src : Nat) (q : RoutineReq) : Bool :=
  servingCluster s src (mayServe s q) == some cl &&
    (match q.coll with
    | some j => (engineOf s cl (1 - en)).job.isNone && (j.lastEn != en + 1 || (engineOf s cl (1 - en)).retired)
    | none =>
      let x := getCtx s q.ctx
      (x.rq.restarts != en + 1 || (engineOf s cl (1 - en)).retired) && storesDone s q.ctx x.rqSeq && ctxStoresMade s q.ctx &&
        (decide (x.rqVis = 0) || decide (x.rqVis ≤ (if x.rq.priv then x.s else x.u).count + 1)))

/-- The older of two requests, by when they joined their queues. -/
def olderReq (a : Option (Nat × RoutineReq)) (b : Nat × RoutineReq) : Option (Nat × RoutineReq) :=
  match a with
  | some x => if b.2.stamp < x.2.stamp then some b else some x
  | none => some b

/-- The request that an engine takes next, with its cluster: the oldest that it may take of every cluster that it serves, but a Collector's
ahead of the others while its partition is marking (R182). -/
def nextRequest (s : State) (cl en : Nat) : Option (Nat × RoutineReq) :=
  let froms := cl :: ((List.range 7).map fun i => cl / 8 * 8 + (cl + 7 - i) % 8)
  let first (q : RoutineReq) : Bool := match q.coll with | some j => (getPart s j.part).marking | none => false
  let take (p : RoutineReq → Bool) : Option (Nat × RoutineReq) :=
    (froms.flatMap fun src => ((getCluster s src).reqQ.filter fun q => p q && mayTake s cl en src q).map fun q => (src, q)).foldl olderReq none
  match take first with
  | some q => some q
  | none => take fun _ => true

/-- A request put back at the tail of a cluster's queue, its engine free. -/
def requeue (s : State) (cl en home : Nat) (q : RoutineReq) : State :=
  queueRoutine (releaseEngine s cl en) home q

/-- A commit point (R182): a request that has committed 16 segments in a row while another one waited is set aside at the next. -/
def setAside (s : State) (cl en home : Nat) (q : RoutineReq) : State :=
  let waits := (nextRequest s cl en).isSome
  if 16 ≤ (engineOf s cl en).run ∧ waits = true then requeue s cl en home q
  else modEngine s cl en fun e => { e with run := if waits then e.run + 1 else 0 }

/-- A request taken by a free engine whose committed stores have been made; its working registers are cleared when the partition
changes (R183). -/
def routineTake (s : State) (cl en : Nat) : State :=
  let e := engineOf s cl en
  if e.serving.isSome || e.job.isSome || !e.stores.isEmpty || decide (engineLines s cl en ≠ 0) || e.retired || decide (2 ≤ en) ||
      (getCluster s cl).power == .off || (getCluster s cl).power == .retain then s
  else match nextRequest s cl en with
    | none => s
    | some (src, q) =>
      let p := reqPart s q
      let s1 := modCluster s src fun k => { k with reqQ := k.reqQ.erase q }
      modEngine s1 cl en fun e => { e with
        serving := if q.coll.isSome then none else some q.ctx, job := q.coll
        run := 0, remBuf := [], heals := [], micro := none, micro0 := none
        e := if e.lastPart = some p then e.e else [], e0 := if e.lastPart = some p then e.e else [], lastPart := some p }

def execRoutineRequestTaken (cluster engine : Nat) (s : State) : Host.Outcome State Fault Refusal :=
  .next (routineTake s cluster engine)

/-! ## Trace (R204, R490, R492) -/

/-- An entry of a die's trace buffer (R490): micro-address, engine and routine number, or the micro-address and the sealed flag
alone; bit 29 where a microword and the value it wrote follow. -/
def traceEntry (secret : Bool) (cl en routine addr : Nat) (more : Bool) : Word :=
  ⟨tagRAW, field (addr % 2 ^ 14) 0 |||
    (if secret then flagBit true 28 else field (cl * 2 + en) 14 ||| field (routine % 256) 20 ||| flagBit more 29)⟩

/-- An entry put into a buffer, `raw` where it holds a microword or a value. -/
def tracePut (b : TraceBuf) (raw : Bool) (e : Word) : TraceBuf :=
  if b.mode = 0 ∨ (b.mode = 1 ∧ 8192 ≤ b.pos) then b
  else
    let i := b.pos % 8192
    let others := b.extra.filter (· != i)
    { b with ents := tput b.ents i e, extra := if raw then i :: others else others, pos := b.pos + 1 }

/-- The bits of a microword that its trace entry holds: R490 gives the microword one entry of 72 bits. DESIGN CHOICE (log entry 19): its low
ones. -/
def traceBits (w : BitVec 168) : Word := ⟨BitVec.ofNat 8 (mwBits w 71 64), BitVec.ofNat 64 (mwBits w 63 0)⟩

/-- Whose microwords a trace entry names: the engine, whether a sealed partition is served, and the routine. -/
structure Traced where
  cl : Nat
  en : Nat
  secret : Bool
  routine : Nat

def Rt.traced (r : Rt) : Traced := { cl := r.cl, en := r.en, secret := r.p.sealed, routine := r.rq.routine }

/-- A microword executed, traced with the value that it wrote where its TRACE bit is 1; whether the buffer is busy is free. -/
def traceMicro (s : State) (t : Traced) (addr : Nat) (w : BitVec 168) (v : Word) : State :=
  let die := t.cl / 8
  let b := tget ({} : TraceBuf) s.dbg.trace die
  if b.mode = 0 then s
  else
    let (busy, s1) := drawBool s
    let m := w.getLsbD 163 && !t.secret
    let first := tracePut b false (traceEntry t.secret t.cl t.en t.routine addr m)
    let b1 := if busy then { b with dropped := b.dropped + 1 }
      else if m then tracePut (tracePut first true (traceBits w)) true v else first
    { s1 with dbg := { s1.dbg with trace := tput s1.dbg.trace die b1 } }

/-- A ROM microword traced: its content is the ROM's, the value that it wrote is free. -/
def traceRom (s : State) (t : Traced) (addr : Nat) : State :=
  let (v, s1) := drawWord s
  traceMicro s1 t addr (Config.romMicroword addr) v

/-- Whether any microword of an engine has an effect on the model: a match register is enabled, or its die traces. -/
def microSeen (s : State) (cl : Nat) : Bool :=
  (s.trust.matchRegs.any fun m => bit (BitVec.ofNat 64 m.2) 31) || (tget ({} : TraceBuf) s.dbg.trace (cl / 8)).mode != 0

/-! ## The sequencer in patch RAM (R198 to R200) -/

/-- The patch word that a match register puts in the place of a ROM address: the lowest-numbered enabled register's (R200). -/
def matchFor (s : State) (addr : Nat) : Option Nat :=
  let hit (m : Nat × Nat) : Bool := bit (BitVec.ofNat 64 m.2) 31 && m.2 / 2 ^ 16 % 2 ^ 14 == addr && decide (addr < 0x3000)
  let low (a : Option (Nat × Nat)) (m : Nat × Nat) : Option (Nat × Nat) :=
    if hit m && a.all (fun x => decide (m.1 < x.1)) then some m else a
  (s.trust.matchRegs.foldl low none).map fun m => m.2 % 256

/-- The ROM microwords that a segment runs from an address, or from its start, before a match register takes one's place, traced; with the
patch word (R188: at most 256 between commits). Which ones it runs is the ROM's, but for the address to which a patch has jumped (R200). -/
def romPath (s : State) (t : Traced) (start : Option Nat := none) : State × Option Nat :=
  if !microSeen s t.cl then (s, none)
  else
    let (n, s1) := drawNat s
    let path := start.toList ++ (List.range (n % 256 + 1)).map fun i => Config.romPath s.freeIx i % 0x3000
    let before := path.takeWhile fun a => (matchFor s a).isNone
    (before.foldl (fun s a => traceRom s t a) s1, (path.find? fun a => (matchFor s a).isSome).bind (matchFor s))

/-- A word of patch RAM. -/
def patchWord (s : State) (addr : Nat) : BitVec 168 := tget 0 s.trust.patch (addr - 0x3000)

/-- A free word within a segment. -/
def rtFree : RtM Word := do
  let s ← get
  let (w, s1) := drawWord s
  set s1
  return w

/-- What the memory port of a microword does (R198, R199): the memory data that it leaves, and the sequencer after it. Stores are held
for the commit. What the spec does not state of a compare-and-swap (its comparand) and of a queue send (its queue) is the model's. -/
def memPort (r : Rt) (d : Micro) (m : MicroState) (va : Nat) (data : Word) (size : Nat) : RtM MicroState := do
  let bar := decide (2 ≤ d.membar)
  let load (a : Nat) : RtM Word := if d.membar % 2 = 1 then rtSlot r a else rtRead r a
  let base := va / 8 * 8
  match d.memop with
  | 1 =>
    if d.line then
      let ws ← (List.range 8).mapM fun i => load (base + i)
      return { m with mdata := (ws[va % 8]?).getD Word.zero, line := ws, lbuf := tput m.lbuf d.lbuf ws, failed := false }
    else
      let w ← load va
      return { m with mdata := w, failed := false }
  | 2 =>
    let ws := tget [] m.lbuf d.lbuf
    return { m with stores := m.stores ++
      (if d.line then ((List.range 8).zip ws).map fun e => .store (base + e.1) e.2 bar else [.store va data bar]) }
  | 3 =>
    let w ← rtRead r va
    let f ← rtFree
    let ok := bit f.pay 0
    return { m with mdata := w, failed := !ok, stores := if ok then m.stores ++ [.store va data bar] else m.stores }
  | 5 => return { m with stores := m.stores ++ [.cardOr va data] }
  | 6 =>
    let s ← get
    let x := getCtx s r.c
    match x.rq.range with
    | some (a, _) => return { m with mdata := Word.fixN a }
    | none =>
      if x.regs.nurptr + size ≤ x.regs.nurlim then
        set (takeRange s r.c x.regs.nurptr size)
        return { m with mdata := Word.fixN x.regs.nurptr }
      else throw .limit
  | 7 => return { m with stores := m.stores ++ [.send data] }
  | 8 => return { m with mdata := ⟨tagRAW, tdtOf r.p (BitVec.ofNat 8 va)⟩ }
  | _ => return m

/-- The tag path of a microword on A (R199): the word that it makes, and the tag test. -/
def tagPath (r : Rt) (d : Micro) (a : Word) (test : Bool) : Word × Bool :=
  match d.tagop with
  | 1 => (⟨tagRAW, field a.tag.toNat 0⟩, test)
  | 2 => (⟨BitVec.ofNat 8 d.tagk, a.pay⟩, test)
  | 3 => (a, a.tag.toNat == d.tagk)
  | 4 => (⟨tagRAW, field (tdtField (tdtOf r.p a.tag) d.tagsel) 0⟩, test)
  | 5 => (a, classOf r.p a == d.tagk % 16)
  | 6 => (⟨tagRAW, field (ptrColour a) 0⟩, test)
  | 7 => (ptrWithColour a r.g.goodc, test)
  | _ => (a, test)

/-- The data path of one microword: the ALUs, the memory port, the tag path, the register write, the counter and the flags; with the value
written, for the trace. A result of an ALU, CONST and the counter have no tag in the spec: the tag of the register that they are written
to is free. -/
def microData (r : Rt) (d : Micro) (m : MicroState) : RtM (MicroState × Word) := do
  let s ← get
  let regs := (engineOf s r.cl r.en).e
  let a := tget Word.zero regs d.ra
  let b := tget Word.zero regs d.rb
  let f0 ← rtFree
  let f1 ← rtFree
  let cnt := BitVec.ofNat 64 m.counter
  let ((v0, c0), (v1, c1)) := alus f0.pay f1.pay d a.pay b.pay m.mdata.pay cnt m.c
  let va := (match d.maddr with
    | 0 => v0.toNat
    | 1 => a.pay.toNat
    | 2 => b.pay.toNat
    | _ => pgNat r 0 + d.const)
  let data : Word := match d.mdata with
    | 0 => b
    | 1 => ⟨f1.tag, v1⟩
    | 2 => ((tget [] m.lbuf d.lbuf)[va % 8]?).getD Word.zero
    | _ => ⟨BitVec.ofNat 8 d.tagk, b.pay⟩
  let m1 ← memPort r d m va data v0.toNat
  let (tw, test) := tagPath r d a m.test
  let out : Option Word := match d.wsrc with
    | 1 => some ⟨f0.tag, v0⟩
    | 2 => some ⟨f1.tag, v1⟩
    | 3 => some m1.mdata
    | 4 => some tw
    | 5 => some ⟨f0.tag, BitVec.ofNat 64 d.const⟩
    | 6 => some ⟨f0.tag, cnt⟩
    | _ => none
  match out with
  | some w => modify fun s => modEngine s r.cl r.en fun e => { e with e := tput e.e d.rw w }
  | none => pure ()
  let counter := (match d.cntop with
    | 1 => a.pay.toNat
    | 2 => d.const
    | 3 | 4 => (m.counter + 2 ^ 64 - 1) % 2 ^ 64
    | _ => m.counter)
  let fl (v : W64) (c : Bool) : MicroState := { m1 with z := v == 0, n := bit v 63, c }
  let m2 := match d.flags with
    | 1 => fl v0 c0
    | 2 => fl v1 c1
    | 3 => { m1 with z := false, n := false, c := false }
    | _ => m1
  return ({ m2 with counter, test, z := if d.cntop = 4 then counter == 0 else m2.z }, out.getD Word.zero)

/-- The 16-way dispatch index (R199). -/
def dispatchIx (r : Rt) (d : Micro) (a b : Word) (counter : Nat) : Nat :=
  match d.disp with
  | 0 => a.tag.toNat / 16
  | 1 => a.tag.toNat % 16
  | 2 => arithOf r.p a % 16
  | 3 => arithOf r.p b % 16
  | _ => counter % 16

/-- The next micro-address (R199), with the microstack of 4; a return from an empty microstack goes to a free address. -/
def microNext (r : Rt) (d : Micro) (m : MicroState) : RtM MicroState := do
  let s ← get
  let regs := (engineOf s r.cl r.en).e
  let next := (m.addr + 1) % 2 ^ 14
  let go (a : Nat) : MicroState := { m with addr := a % 2 ^ 14 }
  match d.nxt with
  | 1 => return go d.naddr
  | 2 => return go (if condHolds d.cond m.z m.n m.c m.counter m.test m.failed (r.rq.state == 2) then d.naddr else next)
  | 3 => return go (d.naddr + dispatchIx r d (tget Word.zero regs d.ra) (tget Word.zero regs d.rb) m.counter)
  | 4 => return { go d.naddr with stack := (next :: m.stack).take 4 }
  | 5 => match m.stack with
    | a :: as => return { go a with stack := as }
    | [] => do
      let f ← rtFree
      return go f.pay.toNat
  | _ => return go next

/-- Where a run of patch words stops: back in ROM, at a commit, at the END of the routine, at a safe point for a yield, or with its
words used up for now. -/
inductive MicroEnd where
  | rom
  | commit
  | finish (status : Nat)
  | pause

/-- Patch words run from the sequencer's address (R198 to R200). DESIGN CHOICE (log entry 49): a branch condition and a dispatch index are
evaluated with the flags and registers as the same microword's updates leave them (R199). A parity error, a reserved encoding and a transfer to 0x3100 to
0x3FFF are engine errors (R205). -/
def microRun (r : Rt) : Nat → MicroState → RtM (MicroState × MicroEnd)
  | 0, m => return (m, .pause)
  | n + 1, m => do
    if m.addr < 0x3000 then return (m, .rom)
    else if 0x3100 ≤ m.addr then throw .broken
    else
      let s ← get
      let w := patchWord s m.addr
      let d := microDecode w
      if microParityOk w = false ∨ d.reserved = true then throw .broken
      else if d.poll = true ∧ r.rq.state = 2 then return (m, .pause)
      else
        let (m1, v) ← microData r d m
        modify fun s => traceMicro s r.traced m.addr w v
        if d.nxt = 6 then return (m1, .finish d.status)
        else
          let m2 ← microNext r d { m1 with addr := m.addr }
          if d.commit then return (m2, .commit) else microRun r n m2

/-! ## ROUTINE_SEGMENT (R185) -/

/-- The request that an engine serves. -/
def rtOf (s : State) (cl en c : Nat) : Rt :=
  let x := getCtx s c
  let pn := partOf s c
  { cl, en, c, pn, p := getPart s pn, priv := x.rq.priv
    g := { agentOf s c with unit := .engine cl en, cluster := clusterOf c }, rq := x.rq }

/-- The heals that a segment holds, made at its commit: one that another device's slot needs waits in the store buffer for an access. -/
def commitHeals (s : State) (r : Rt) : State × List SegStore :=
  (engineOf s r.cl r.en).heals.foldl (fun a h =>
    match healEntry a.1 r.g h.1 with
    | some e =>
      if e.typ = 3 ∧ h.2.1 ≠ h.2.2 then
        (a.1, a.2 ++ [{ ctx := r.c, part := r.pn, va := h.1, pa := entPa e h.1, word := h.2.2, kind := .heal h.2.1 }])
      else (healSlot a.1 r.g r.c h.1 h.2.1 h.2.2, a.2)
    | none => (healSlot a.1 r.g r.c h.1 h.2.1 h.2.2, a.2)) (s, [])

/-- The stores and heals of a commit, and the working registers as they stand there (R185). -/
def commitStores (s : State) (r : Rt) (stores : List SegStore) : State :=
  let (s1, heals) := commitHeals s r
  let s2 := modEngine s1 r.cl r.en fun e => { e with remBuf := [], heals := [], e0 := e.e }
  drainStores r.cl r.en ((engineOf s2 r.cl r.en).stores ++ heals ++ stores) s2

/-- A commit (R185): the segment's stores, heals and objects in order, its progress, one segment more. A store into the range that the
request has reserved writes it. -/
def commitEffects (s : State) (r : Rt) (prog : List Word) (stores : List SegStore) : State :=
  let wrote (a n : Nat) : Bool := stores.any fun e => e.kind == .store && decide (a ≤ e.va) && decide (e.va < a + n)
  modCtx (commitStores s r stores) r.c fun x => { x with rq := { x.rq with
    segs := min 0xFFFF (x.rq.segs + 1), prog
    range := x.rq.range.bind fun g => if wrote g.1 g.2 then none else some g } }

/-- The results of a request that has committed its last segment: delivered, or kept until its stores are visible (R184). -/
def deliverEnd (s : State) (r : Rt) (ws : List Word) : State :=
  match (getCtx s r.c).rqFail with
  | some f => failRequest s r f
  | none => if ctxStoresMade s r.c then completeRequest s r ws else modCtx s r.c fun x => { x with rqEnd := some ws }

/-- The commit of a catalogue segment that met no fault: with the request's results, its reserved range is written. -/
def commitSegment (s : State) (r : Rt) (g : RtSeg) (stores : List SegStore) (ws : Option (List Word)) : State :=
  let prog := match (getCtx s r.c).rq.range with
    | some (a, _) => if r.rq.routine ≤ 6 ∨ r.rq.routine = 0x0B then g.prog.set 1 (Word.fixN a) else g.prog
    | none => g.prog
  let s1 := commitEffects s r prog stores
  match ws with
  | none => setAside s1 r.cl r.en (clusterOf r.c) { ctx := r.c }
  | some ws => deliverEnd (modCtx s1 r.c fun x => { x with rq := { x.rq with range := none } }) r ws

/-- The words of a result and the stores that lay its objects in the reserved range, which log nothing (R150, R167, R189). -/
def rtResult (r : Rt) (a n : Nat) (ns : List NumRes) : RtM (List Word × List SegStore) := do
  let s ← get
  let (os, ws) := buildNums (getCtx s r.c).regs.goodc a ns
  let st ← ((List.range n).zip os).mapM fun e => do
    let (pa, _) ← rtXlate r (a + e.1) .auWrite .cached
    return ({ ctx := r.c, part := r.pn, va := a + e.1, pa, word := e.2, log := false } : SegStore)
  return (ws, st)

/-- A request to another device for a word, or for a resolution: it waits while no shared entry is free (R22, R333). -/
def rtAsk (s : State) (r : Rt) (op pa va colour : Nat) : State :=
  match dataPort s r.pn (pa / 2 ^ 36) with
  | some port => if sharedFree s r.cl then sendRemote s op r.pn r.cl r.c (.engine r.cl r.en) va pa port colour [] [] else s
  | none => failRequest s r { cause := cNO_PATH, faddr := BitVec.ofNat 64 va }

/-- The end of a Collector's request that a second engine error has ended (R205). DESIGN CHOICE (log entry 19): what a scan has left is asked
for anew, so that the mark stays whole; a copy is given up, and becomes a FILLH. -/
def jobEnded (s : State) (cl : Nat) (j : CollJob) : State :=
  if j.copy then (agWrite s (collAgent s j.part cl) j.dst ⟨tagFILLH, BitVec.ofNat 64 (j.count - 1)⟩).1
  else askEngine s cl { j with src := j.src + j.done, count := j.count - j.done, done := 0, errs := 0, lastEn := 0 }

/-- An engine error (R205): the segment abandoned and the request run again from its last commit on the other engine, at the head of its
cluster's queue; a second one on a request ends it, a context's with POISON of SOURCE 5. DESIGN CHOICE (log entry 49): R205 names no
physical address, and PADDR of that word is 0. -/
def engineError (s : State) (cl en : Nat) : State :=
  let e := engineOf s cl en
  let s1 := releaseEngine s cl en
  let again (s : State) (home : Nat) (q : RoutineReq) : State := modCluster s home fun k => { k with reqQ := q :: k.reqQ }
  match e.job, e.serving with
  | some j, _ =>
    if j.errs = 0 then again s1 cl { ctx := noCtx, coll := some { j with errs := 1, lastEn := en + 1 } } else jobEnded s1 cl j
  | none, none => s
  | none, some c =>
    if (getCtx s c).rq.restarts = 0 then
      again (modCtx s1 c fun x => { x with rq := { x.rq with restarts := en + 1 } }) (clusterOf c) { ctx := c }
    else
      let w := poisonWord 5 0
      endRequest (fillRange s1 c) c 0 (.words [w, w])

/-- The working registers and the sequencer as they stood at the last commit, from which a segment runs again (R185). -/
def backToCommit (s : State) (cl en : Nat) : State :=
  modEngine s cl en fun e => { e with heals := [], micro := e.micro0, e := if e.micro.isSome || e.micro0.isSome then e.e0 else e.e }

/-- A segment stopped before its commit. What waits for a to-space region or for a copy lets another request be served; a word that another
device has to send is awaited, and the segment runs again from its last commit. -/
def stopSegment (s : State) (r : Rt) : RtStop → State
  | .fault f => failRequest s r f
  | .limit => nurseryLacks s r
  | .broken => engineError (report { s with freeIx := s.freeIx + 1 } 0x5003 (.engine (r.cl * 2 + r.en)) [Config.freeW64 s.freeIx]) r.cl r.en
  | .wait => requeue s r.cl r.en (clusterOf r.c) { ctx := r.c }
  | .remote pa va => rtAsk (backToCommit s r.cl r.en) r 0 pa va 0
  | .resolveAt pa va => rtAsk (backToCommit s r.cl r.en) r 3 pa va r.g.goodc

/-- The reservation that a segment makes (R185); a result too large or without room stops it. -/
def rtReserve (r : Rt) (ns : List NumRes) : RtM Unit := do
  let s ← get
  match reserveRes (getCtx s r.c) ns with
  | .nothing => return ()
  | .range a n => set (takeRange s r.c a n)
  | .large => rtBad r cNURSERY_FULL
  | .limit => throw .limit

/-- One catalogue segment to its commit: the work, the reservation, the checks of its stores, and at the end the result's words. -/
def rtWork (r : Rt) (extra : List MicroEff) : RtM (RtSeg × List SegStore × Option (List Word)) := do
  let g ← segment r
  rtReserve r g.later
  let st0 ← extra.mapM (rtEffect r)
  let st1 ← g.stores.mapM (rtPrepare r true)
  let st := st0 ++ st1
  match g.res with
  | none => return (g, st, none)
  | some (.words ws) => return (g, st, some ws)
  | some (.nums ns) =>
    let s ← get
    let (a, n) := ((getCtx s r.c).rq.range).getD (0, 0)
    let (ws, os) ← rtResult r a n ns
    return (g, st ++ os, some ws)

/-- A catalogue segment run and committed. -/
def runSegment (s : State) (r : Rt) (extra : List MicroEff) : State :=
  match (rtWork r extra).run s with
  | (.error e, s1) => stopSegment s1 r e
  | (.ok (g, st, ws), s1) => commitSegment s1 r g st ws

/-- The commit of patch words: what they held for it, and at END the request's end. A STATUS posts a fault; the results, which the spec
places in no register, are free. -/
def commitMicro (s : State) (r : Rt) (m : MicroState) (fin : Option Nat) : State :=
  match (m.stores.mapM (rtEffect r)).run s with
  | (.error e, s1) => stopSegment s1 r e
  | (.ok st, s1) =>
    match fin with
    | none =>
      let s2 := commitEffects s1 r r.rq.prog st
      let m1 : MicroState := { m with stores := [] }
      setAside (modEngine s2 r.cl r.en fun e => { e with micro := some m1, micro0 := some m1 }) r.cl r.en (clusterOf r.c) { ctx := r.c }
    | some 0 =>
      let (w0, s2) := drawWord s1
      let (w1, s3) := drawWord s2
      deliverEnd (fillRange (commitEffects s3 r r.rq.prog st) r.c) r [w0, w1]
    | some c => failRequest s1 r { cause := c, faddr := BitVec.ofNat 64 r.rq.pc }

/-- A segment of a context's request: the ROM's path, with the patch words that match registers put into it; back in ROM the catalogue's
segment goes on. A segment that has been redirected very often goes on in the next step. -/
def runMicro (r : Rt) (m : MicroState) : Nat → State → State
  | 0, s => modEngine s r.cl r.en fun e => { e with micro := some m }
  | fuel + 1, s =>
    match (microRun r 256 m).run s with
    | (.error e, s1) => stopSegment s1 r e
    | (.ok (m1, .pause), s1) => modEngine s1 r.cl r.en fun e => { e with micro := some m1 }
    | (.ok (m1, .commit), s1) => commitMicro s1 r m1 none
    | (.ok (m1, .finish st), s1) => commitMicro s1 r m1 (some st)
    | (.ok (m1, .rom), s1) =>
      let s2 := modEngine s1 r.cl r.en fun e => { e with micro := none, micro0 := none }
      match romPath s2 r.traced (some m1.addr) with
      | (s3, none) => runSegment s3 r m1.stores
      | (s3, some ix) => runMicro r { m1 with addr := 0x3000 + ix } fuel s3

/-- The registers E0 to E63 as ROM microwords leave them: free. -/
def scrambleRegs (s : State) (cl en : Nat) : State :=
  (List.range 64).foldl (fun s i =>
    let (w, s1) := drawWord s
    modEngine s1 cl en fun e => { e with e := tput e.e i w }) s

/-- One segment of a context's request. -/
def serveSegment (s : State) (r : Rt) : State :=
  let s1 := modEngine s r.cl r.en fun e => { e with heals := [] }
  match (engineOf s r.cl r.en).micro with
  | some m => runMicro r m 16 s1
  | none =>
    match romPath s1 r.traced with
    | (s2, none) => runSegment s2 r []
    | (s2, some ix) => runMicro r { addr := 0x3000 + ix } 16 (scrambleRegs s2 r.cl r.en)

/-! ## The Collector's requests (R164, R172, R181, R188) -/

/-- The agent of a Collector's request on the engine that serves it; a barrier's copy has the translation of its context (R507). -/
def jobAgent (s : State) (cl en : Nat) (j : CollJob) : Agent :=
  let g := { collAgent s j.part cl with unit := .engine cl en }
  match j.xlate with
  | some (asid, root) => { g with asid, root }
  | none => g

/-- A Collector's request with some words more done: its end, the next segment, or its place at the tail of the queue. -/
def jobOn (s : State) (cl en : Nat) (j : CollJob) (n : Nat) (wait : Bool) : State :=
  let j1 := { j with done := j.done + n }
  if wait then requeue s cl en cl { ctx := noCtx, coll := some j1 }
  else setAside (modEngine s cl en fun e => { e with job := some j1 }) cl en cl { ctx := noCtx, coll := some j1 }

/-- COL_SCAN: 32 body words traced. -/
def scanSegment (s : State) (cl en : Nat) (j : CollJob) : State :=
  let n := min 32 (j.count - j.done)
  match traceRun s (jobAgent s cl en j) (j.src + j.done) n with
  | (s1, .stop st, _) => abortCycle s1 j.part st
  | (s1, .wait, left) => jobOn s1 cl en j (n - left) true
  | (s1, .ok, _) => if j.count ≤ j.done + n then releaseEngine s1 cl en else jobOn s1 cl en j n false

/-- COL_COPY: 32 lines copied; after the last FORWARD is installed, and a copy that cannot be used becomes a FILLH. -/
def copySegment (s : State) (cl en : Nat) (j : CollJob) : State :=
  let g := jobAgent s cl en j
  let n := copyStep j.dst j.done j.count false
  let s1 := copyWords s g (j.src + j.done) (j.dst + j.done) n
  if j.count ≤ j.done + n then
    match installForward s1 g j.ptr j.first j.dst j.count j.gen with
    | (s2, .fault _) => releaseEngine (agWrite s2 g j.dst ⟨tagFILLH, BitVec.ofNat 64 (j.count - 1)⟩).1 cl en
    | (s2, _) => releaseEngine s2 cl en
  else jobOn s1 cl en j n false

/-- The catalogue's segment of a Collector's request. -/
def jobCatalogue (s : State) (cl en : Nat) (j : CollJob) : State :=
  if j.copy then copySegment s cl en j else scanSegment s cl en j

/-- A Collector's request as patch words see it: no context, its operands and the words done. -/
def jobRt (s : State) (cl en : Nat) (j : CollJob) : Rt :=
  { cl, en, c := noCtx, pn := j.part, p := getPart s j.part, priv := true, g := jobAgent s cl en j
    rq := { state := 1, routine := if j.copy then 0x21 else 0x20, priv := true, a := Word.fixN j.src, b := Word.fixN j.dst
            c := Word.fixN j.count, prog := [Word.fixN j.done] } }

/-- Patch words in a Collector's routine, as in a context's (R200). DESIGN CHOICE (log entry 19): what stops them, but an engine error, ends
the request as END does, since it has no destination and no nursery. -/
def runJobMicro (j : CollJob) (cl en : Nat) (m : MicroState) : Nat → State → State
  | 0, s => modEngine s cl en fun e => { e with micro := some m }
  | fuel + 1, s =>
    let r := jobRt s cl en j
    let commit (s : State) (m : MicroState) (next : State → State) : State :=
      match (m.stores.mapM (rtEffect r)).run s with
      | (.error _, s1) => releaseEngine s1 cl en
      | (.ok st, s1) => next (commitStores s1 r (st.map fun e => { e with log := false, card := none, bar := false }))
    match (microRun r 256 m).run s with
    | (.error .broken, s1) => stopSegment s1 r .broken
    | (.error .wait, s1) => requeue s1 cl en cl { ctx := noCtx, coll := some j }
    | (.error _, s1) => releaseEngine s1 cl en
    | (.ok (m1, .pause), s1) => modEngine s1 cl en fun e => { e with micro := some m1 }
    | (.ok (m1, .commit), s1) => commit s1 m1 fun s =>
        let m2 : MicroState := { m1 with stores := [] }
        setAside (modEngine s cl en fun e => { e with micro := some m2, micro0 := some m2 }) cl en cl { ctx := noCtx, coll := some j }
    | (.ok (m1, .finish _), s1) => commit s1 m1 fun s => releaseEngine s cl en
    | (.ok (m1, .rom), s1) =>
      let s2 := modEngine s1 cl en fun e => { e with micro := none, micro0 := none }
      match romPath s2 r.traced (some m1.addr) with
      | (s3, none) => commit s3 m1 fun s => jobCatalogue s cl en j
      | (s3, some ix) => runJobMicro j cl en { m1 with addr := 0x3000 + ix } fuel s3

/-- A segment of a Collector's request: the ROM's path, with the patch words put into it. -/
def jobSegment (s : State) (cl en : Nat) (j : CollJob) : State :=
  match (engineOf s cl en).micro with
  | some m => runJobMicro j cl en m 16 s
  | none =>
    match romPath s (jobRt s cl en j).traced with
    | (s1, none) => jobCatalogue s1 cl en j
    | (s1, some ix) => runJobMicro j cl en { addr := 0x3000 + ix } 16 (scrambleRegs s1 cl en)

/-- A segment of the engine's request, after the stores that it has committed: nothing while these or a request of its own wait for
another device, while its request is suspended, or while its traffic finds no shared entry of the miss-tracking table (R22). -/
def routineSegment (s : State) (cl en : Nat) : State :=
  let s0 := drainStores cl en (engineOf s cl en).stores s
  let e := engineOf s0 cl en
  if !sharedFree s0 cl then s0
  else match e.job, e.serving with
  | some j, _ => if reflPauses s0 j.part then s0 else jobSegment s0 cl en j
  | none, none => s0
  | none, some c =>
    let r := rtOf s0 cl en c
    if r.rq.state ≠ 1 ∧ r.rq.state ≠ 2 then s0
    else if (s0.remotes.any fun q => q.who == .engine cl en) || !e.stores.isEmpty || !ctxStoresMade s0 c then s0
    else match (getCtx s0 c).rqFail, (getCtx s0 c).rqEnd with
      | some f, _ => failRequest s0 r f
      | none, some ws => completeRequest s0 r ws
      | none, none => serveSegment s0 r

def execRoutineSegment (cluster engine : Nat) (s : State) : Host.Outcome State Fault Refusal :=
  .next (routineSegment s cluster engine)

/-! ## ROUTINE_YIELD_COMPLETE and ROUTINE_RESTART_ABANDON (R194) -/

/-- The slot that a suspended request held freed, its engine and its place in the queue left. -/
def leaveSlot (s : State) (c : Nat) : State :=
  let s1 := dropRequests s c
  let s2 := modCtx s1 c fun x => { x with rq := { x.rq with state := 3 }, rqSuspended := false }
  let s3 := freeSlot s2 c
  match (getCtx s3 c).park with
  | some (.pending rs) => touchPending s3 c rs
  | _ => s3

def slotIsRoutine (x : Ctx) : Bool := match x.slot with | some { kind := .routine, .. } => true | _ => false

/-- Whether an engine stands at a microword with POLL = 1: between two segments of the catalogue it does. -/
def atPoll (s : State) (e : Engine) : Bool :=
  match e.micro with
  | none => true
  | some m => (microDecode (patchWord s m.addr)).poll

/-- A yield reaches its safe point: no access of the engine that serves the request is outstanding. -/
def yieldComplete (s : State) (c : Nat) : State :=
  let x := getCtx s c
  let busy := s.clusters.any fun k => k.2.engines.any fun e =>
    e.2.serving == some c && (!e.2.stores.isEmpty || !atPoll s e.2 || s.remotes.any fun q => q.who == .engine k.1 e.1)
  if x.rqSuspended && x.rq.state == 2 && slotIsRoutine x && !busy then leaveSlot s c else s

def execRoutineYieldComplete (ctx : Nat) (s : State) : Host.Outcome State Fault Refusal := .next (yieldComplete s ctx)

/-- RESTART: the segment abandoned, the committed progress stands. -/
def restartAbandon (s : State) (c : Nat) : State :=
  let x := getCtx s c
  if x.rqSuspended && x.rq.state == 3 && slotIsRoutine x then leaveSlot s c else s

def execRoutineRestartAbandon (ctx : Nat) (s : State) : Host.Outcome State Fault Refusal := .next (restartAbandon s ctx)

end Sys2Proof.Machine
end

