-- ==== Sys2Proof/Machine/System.lean ====
section
/-!
DEFINITION. The units `MQ`, `RT`, `RPT`, `ST` and `SY` (R133 to R140, R282 to R284, R257, R279), and the choice of a
trigger's meaning by its port.
-/

namespace Sys2Proof.Machine
open Sys2Proof

/-! ## MQ (R133, R294, R299, R334) -/

/-- The verdicts (R294). -/
def vNO_PATH : Nat := 3
def vNO_FLOW : Nat := 4
def vNO_CREDIT : Nat := 5
def vOVERRATE : Nat := 6
def vBUSY : Nat := 7
def vNOT_OWNER : Nat := 8
def vNOT_LOCAL : Nat := 9
def vTOO_LONG : Nat := 10

/-- Every tag check in operand order, then every range check (R133). -/
def Trig.fixAll (t : Trig) (ws : List (Word × Nat × Nat)) : Chk Unit :=
  let ix := (List.range ws.length).zip ws
  match ix.find? fun e => e.2.1.tag != tagFIX with
  | some e => t.fail cOPERAND_TAG e.1
  | none =>
    match ix.find? fun e => decide (e.2.1.pay.toNat < e.2.2.1) || decide (e.2.2.2 < e.2.1.pay.toNat) with
    | some e => t.fail cOPERAND_RANGE e.1
    | none => .ok ()

/-- The flit count of a flow and the bits that its meter holds now (R334). -/
def Flow.flits (f : Flow) : Nat := if f.maxLen ≤ 7 then 1 else 2
def Flow.charge (f : Flow) : Nat := f.flits * 608
def Flow.bitsNow (f : Flow) (time : Nat) : Nat := min (f.burst * f.charge) (f.tokens + f.rate * (time - f.tokenTime))

/-- The admitted flow of a partition from a cluster to a queue (R294). -/
def flowFor (s : State) (p cl qid : Nat) : Option (Nat × Flow) :=
  s.flows.find? fun e => e.2.part == p && e.2.cluster == cl && e.2.qid == qid && e.2.admitted

/-- The outbox entries of a cluster's Shade messages (R294). -/
def shadeOut (s : State) (cl : Nat) : Nat :=
  (s.outbox.filter fun o => !o.msg.sun && o.msg.src == .cluster cl).length

/-- The verdict on a send (R294); 0 is OK. -/
def sendVerdict (s : State) (p cl qid n : Nat) (sun : Bool) : Nat :=
  let dev := qid / 65536
  if dev ≠ s.dev ∧ ((routePort s p dev).isNone ∨ s.unbound.contains (p, qid)) then vNO_PATH
  else if sun then
    match flowFor s p cl qid with
    | none => vNO_FLOW
    | some (_, f) =>
      if f.maxLen < n then vTOO_LONG
      else if f.credits = 0 then vNO_CREDIT
      else if f.bitsNow s.time < f.charge then vOVERRATE else 0
  else if 64 ≤ shadeOut s cl then vBUSY
  else if holdFull s p qid then vBUSY
  else 0

/-- A message taken into its cluster's outbox; a Sunlit one takes a credit and a token (R294). -/
def takeMsg (s : State) (m : Msg) (seq : Nat) : State :=
  let s1 := { s with outbox := s.outbox ++ [{ msg := m, seq }] }
  if m.sun then
    let f := tget ({} : Flow) s.flows m.flow
    { s1 with flows := tput s.flows m.flow { f with
        credits := f.credits - 1, tokens := f.bitsNow s.time - f.charge, tokenTime := s.time } }
  else s1

/-- `MQ.send` and `MQ.sun`. -/
def mqSend (t : Trig) (w : Word) (sun : Bool) : Chk (Chk Effect) := do
  let q := latchOf t.e.b 0x140
  let src := latchOf t.e.b 0x141
  t.fixAll [(w, 1, 8), (q, 0, 0xFFFFF), (src, 0, 63)]
  let n := w.pay.toNat
  let r := src.pay.toNat
  if 64 < r + n then t.fail cOPERAND_RANGE 2
  else
    let regs := (List.range n).map (r + ·)
    let check (i : Nat) : Option Stop := (t.distance (r + i)).or <|
      match gOf t.e.x (r + i) with
      | .pending _ => none
      | .failed f _ _ => some (.failed (r + i) f)
      | .word v =>
        if v.tag = tagPENDING then none
        else if v.tag = tagPOISON then some (.fault (poisonFault (BitVec.ofNat 64 t.e.pc) v))
        else if tagProtected t.e.priv v then some (portFault t.e cTAG_PROTECT (3 + i) t.slot 2 t.port)
        else none
    match (List.range n).findSome? check with
    | some st => .error st
    | none =>
      let words := regs.map fun k => match gOf t.e.x k with | .word v => v | _ => Word.zero
      let cl := clusterOf t.e.c
      let qid := q.pay.toNat
      let run (s : State) : State :=
        let v := sendVerdict s t.e.pn cl qid n sun
        let s1 := deliver t uMQ 2 1 [(.port portMQ, .word (Word.fixN v))] s
        if v ≠ 0 then s1
        else takeMsg s1 { src := .cluster cl, kind := .ctx, part := t.e.pn, ctx := t.e.c, srcDev := s.dev, qid, sun, words
                          flow := ((flowFor s t.e.pn cl qid).map Prod.fst).getD 0 } t.e.seq
      .ok (if regs.any (gPending t.e.x) then .error (.park (.message (regs.filter (gPending t.e.x)))) else .ok { run })

/-- `MQ.recv`: refused with a status, or a request that holds the miss slot. DESIGN CHOICE (log entry 49): of a poll that has no answer yet
only G[`MQ.dst`], which it writes whatever the answer, awaits a delivery for the distance checker (R108). -/
def mqRecv (t : Trig) (s : State) (w : Word) : Chk (Chk Effect) := do
  let q := latchOf t.e.b 0x140
  let d := latchOf t.e.b 0x142
  t.fixAll [(w, 0, 1), (q, 0, 0xFFFFF), (d, 0, 55)]
  let qid := q.pay.toNat
  let dst := d.pay.toNat
  let wait := w.pay == 1
  let regs := (List.range 9).map (dst + ·)
  let v := if qid / 65536 ≠ s.dev then vNOT_LOCAL
    else if !ownsQueue s t.e.pn (qid % 65536) then vNOT_OWNER else 0
  let status (s : State) : State := deliver t uMQ 2 1 [(.port portMQ, .word (Word.fixN v))] s
  if v ≠ 0 then pureEff status
  else .ok (slotEff t s fun s => startOp t uMQ 2 (.recv (qid % 65536) wait) regs (if wait then regs else [dst]) (status s))

/-! ## RT (R134, R188) -/

/-- The routines that `RT.go` may name. -/
def routineNamed (n : Nat) : Bool := (decide (1 ≤ n) && decide (n ≤ 0x0B)) || (decide (0x10 ≤ n) && decide (n ≤ 0x18))

/-- The routines with two results. -/
def routineTwo (n : Nat) : Bool := n == 0x0B || n == 0x14

/-- `RT.go` (R134, R140). DESIGN CHOICE (log entry 49): `AEMUCTL`.V completes every absent operation of its packet, each with `AEMU0`. -/
def rtGo (t : Trig) (s : State) (w : Word) : Chk (Chk Effect) := do
  if w.tag ≠ tagFIX then t.fail cOPERAND_TAG 0
  else if !routineNamed w.pay.toNat then t.fail cOPERAND_RANGE 0
  else
    let d := latchOf t.e.b 0x163
    let dst ← t.fixIn d 1 0 62
    let num := w.pay.toNat
    let a := latchOf t.e.b 0x160
    let b := latchOf t.e.b 0x161
    let c := latchOf t.e.b 0x162
    if routineServed s t.e num then
      .ok (routineEff t s fun s => startRoutine t uRT 2 num dst 15 (routineTwo num) a b c s)
    else if t.e.aemu then
      let two := if routineTwo num then [(Dest.greg (dst + 1), DVal.word t.e.x.regs.aemu1)] else []
      pureEff (deliver t uRT 2 1 ((.greg dst, .word t.e.x.regs.aemu0) :: two))
    else
      .error (.absent { cause := cABSENT_UNIT, faddr := BitVec.ofNat 64 t.e.pc, info := portInfo 15 15 t.slot 2 t.port }
        [w, d, a, b, c])

/-! ## RPT (R103, R105) -/

def rptCount (t : Trig) (w : Word) : Chk (Chk Effect) :=
  if w.tag ≠ tagFIX then t.fail cILLEGAL_REPEAT 0 1
  else if 65535 < w.pay.toNat then t.fail cILLEGAL_REPEAT 0 0
  else pureEff fun s => modCtx s t.e.c fun x => { x with rpt := .armed w.pay.toNat }

/-- `RPT.stop`: the current iteration is the last. -/
def rptStop (t : Trig) : Chk (Chk Effect) :=
  pureEff fun s => modCtx s t.e.c fun x => match x.rpt with
    | .active _ => { x with rpt := .active 1 }
    | _ => x

/-! ## ST (R135, R212, R256) -/

/-- One prefetch: nothing for a line that L1D holds, a fill that holds the slot otherwise, or a drop that `ST.cnt` counts. DESIGN CHOICE
(log entry 49): a prefetch of a word that the core's caches cannot hold is such a drop (R135). -/
def prefetchEff (t : Trig) (s : State) (va walk : Nat) : Chk Effect :=
  let drop : Effect := { run := fun s => modCtx s t.e.c fun x => countDrop x t.e.priv }
  match translate s t.e.c { va, acc := .load, priv := t.e.priv, row := .cached } with
  | .miss => .error (.park (.tlb [{ va, acc := .load, priv := t.e.priv, row := .cached }]))
  | .fault _ => .ok drop
  | .ok pa _ _ =>
    let line := pa % 2 ^ 36 / 8
    if cacheable s t.e.c pa = false then .ok drop
    else if l1Has (getCore s (coreOf t.e.c)) line = true ∧ walk = 0 then .ok { run := fun s => serveEvicted s (coreOf t.e.c) line }
    else
      slotEff t s fun s =>
        let beyond := (l2Sub (getCluster s (clusterOf t.e.c)) line).st == .i
        askFill (startOp t uST 0 (.prefetch pa va beyond walk) [] [] s) t.e.c line va .stream

/-- The address that a carrying `ST` operand names, if usable. -/
def stAddress (p : Partition) (w : Word) : Option Nat :=
  if w.tag = tagFIX then (if isVaddr w.pay then some w.pay.toNat else none)
  else if isPointer p w = true ∧ badPointer p w = false then some (ptrAddr w) else none

def stDrop (t : Trig) : Chk (Chk Effect) := pureEff fun s => modCtx s t.e.c fun x => countDrop x t.e.priv

def stPf (t : Trig) (s : State) (w : Word) : Chk (Chk Effect) :=
  match stAddress t.e.p w with
  | some a => .ok (prefetchEff t s a 0)
  | none => stDrop t

def stWalk (t : Trig) (s : State) (w : Word) : Chk (Chk Effect) :=
  let n := latchOf t.e.b 0x181
  if n.tag ≠ tagFIX then t.fail cOPERAND_TAG 1
  else
    let cells := (max 1 (min 64 (fixVal n.pay))).toNat
    if ptrSizeSrc t.e.p w = 1 ∧ badPointer t.e.p w = false then .ok (prefetchEff t s (ptrAddr w) (cells - 1))
    else stDrop t

def stHalt (t : Trig) : Chk (Chk Effect) :=
  pureEff fun s => modCtx s t.e.c fun x => { x with slot := x.slot.map fun m => match m.kind with
    | .prefetch pa va b _ => { m with kind := .prefetch pa va b 0 }
    | _ => m }

/-! ## SY -/

/-- A BAD_GATE or GATE_ARG fault (R277). -/
def gateFault (t : Trig) (cause gate reason arg cls : Nat) : Stop :=
  .fault { cause, faddr := BitVec.ofNat 64 t.e.pc
           info := field (gate % 65536) 0 ||| field reason 16 ||| field arg 20 ||| field cls 24 }

/-- A gate word (R281): a translation fault or POISON is BAD_GATE READ. -/
def gateWord (t : Trig) (s : State) (n va : Nat) : Chk Word :=
  match needWord s t.e.c { va := va % 2 ^ 48, acc := .load, priv := true, row := .cached } with
  | .error (.fault _) => .error (gateFault t cBAD_GATE n 1 0 0)
  | .ok w => if w.tag = tagPOISON then .error (gateFault t cBAD_GATE n 1 0 0) else .ok w
  | r => r

/-- The format of a gate (R281). -/
def gateFormatOk (w0 w1 : W64) : Bool :=
  let loader := bits w0 63 62 == 1
  decide (bits w0 63 62 < 2) && decide (bits w0 61 60 < 2) && bits w0 55 48 == 0 &&
    (if loader then bits w0 58 56 == 2 && bits w0 61 60 == 0 && bits w1 63 48 == 0
     else bits w0 58 56 != 7 && bits w1 63 24 == 0)

/-- An argument's class in its mask (R281, R282). -/
def argOk (p : Partition) (mask : W64) (i : Nat) (w : Word) : Bool :=
  match classOf p w with
  | 1 => bit mask (4 * i)
  | 2 => bit mask (4 * i + 1)
  | 3 => bit mask (4 * i + 2)
  | 4 => bit mask (4 * i + 3)
  | _ => false

/-- A register as an argument. -/
def gWord (x : Ctx) (r : Nat) : Word := match gOf x r with | .word w => w | _ => Word.zero

/-- Walks made at once for the frame of a gate's entry, then the entry (R271, R283). -/
def enterNow (s : State) (c : Nat) (e : EntryInfo) : State :=
  let x := getCtx s c
  match checkBase s c (entryBase x e) (latchOf x.s pDSlim) with
  | .walk reqs => takeEntry (reqs.foldl (fun s r => (walkFor (walkNow s c r) c r).1) s) c e
  | _ => takeEntry s c e

/-- The checks and the effect of `SY.gate` (R282 to R284). -/
def syGate (t : Trig) (s : State) (w : Word) : Chk (Chk Effect) := do
  if w.tag ≠ tagFIX then t.fail cOPERAND_TAG 0
  else if t.e.p.gtcnt.toNat ≤ w.pay.toNat then .error (gateFault t cBAD_GATE w.pay.toNat 0 0 0)
  else
    let n := w.pay.toNat
    let w0 ← gateWord t s n (t.e.p.gtbase.toNat + 2 * n)
    let w1 ← gateWord t s n (t.e.p.gtbase.toNat + 2 * n + 1)
    if w0.tag ≠ tagGATE ∨ w1.tag ≠ tagGATE then .error (gateFault t cBAD_GATE n 2 0 0)
    else if !gateFormatOk w0.pay w1.pay then .error (gateFault t cBAD_GATE n 3 0 0)
    else if !t.e.priv && !bit w0.pay 59 then .error (gateFault t cBAD_GATE n 4 0 0)
    else
      let argc := bits w0.pay 58 56
      let args := List.range argc
      let pend := args.filter (gPending t.e.x)
      let stop (r : Nat) : Option Stop := (t.distance r).or (match gOf t.e.x r with | .failed f _ _ => some (.failed r f) | _ => none)
      if !pend.isEmpty then .error (.argument pend)
      else match args.findSome? stop with
        | some st => .error st
        | none =>
          match args.find? fun r => (gWord t.e.x r).tag == tagPOISON with
          | some r => .error (.fault (poisonFault (BitVec.ofNat 64 t.e.pc) (gWord t.e.x r)))
          | none =>
            let target := bits w0.pay 47 0
            if bits w0.pay 63 62 = 0 then
              match args.find? fun r => !argOk t.e.p w1.pay r (gWord t.e.x r) with
              | some r => .error (gateFault t cGATE_ARG n 0 r (classOf t.e.p (gWord t.e.x r)))
              | none =>
                let info (x : Ctx) : EntryInfo :=
                  { kind := kGATE, cause := cGATE_CALL, faddr := BitVec.ofNat 64 t.e.pc, finfo := field (n % 65536) 0
                    resume := x.pc, target, fresh := bits w0.pay 61 60 == 1 }
                let ready : Chk Effect :=
                  match checkBase s t.e.c (entryBase t.e.x (info t.e.x)) (latchOf t.e.x.s pDSlim) with
                  | .walk reqs => .error (.park (.tlb reqs))
                  | _ => .ok { after := true, run := fun s => enterNow s t.e.c (info (getCtx s t.e.c)) }
                .ok ready
            else
              let g0 := gWord t.e.x 0
              let g1 := gWord t.e.x 1
              if g0.tag ≠ tagRAW then .error (gateFault t cGATE_ARG n 0 0 (classOf t.e.p g0))
              else if g1.tag ≠ tagFIX ∨ g1.pay.toNat < target ∨ bits w1.pay 47 0 ≤ g1.pay.toNat
                then .error (gateFault t cGATE_ARG n 0 1 (classOf t.e.p g1))
              else .ok do
                let a := g1.pay.toNat
                let (pa, typ, _) ← xlate s t.e.c { va := a, acc := .store, priv := t.e.priv, row := .cached }
                needStoreRoom s t.e.c 1
                needEpoch s t.e.c pa
                .ok { run := fun s => pushStore s (coreOf t.e.c) { ctx := t.e.c, va := a, pa, typ, word := ⟨tagCODE, g0.pay⟩ } }

/-- An `SY.eret` fault (R277, R279). -/
def eretFault (faddr : W64) (cause reason : Nat) (priv u : Bool) (tc : Nat) : Stop :=
  .fault { cause, faddr, info := field reason 0 ||| flagBit priv 4 ||| flagBit u 5 ||| field tc 8 }

/-- The ten frame words read (R279); a fault shows PRIV as word 0 has it, once that has been read. -/
def frameWords (s : State) (e : Env) (base : Nat) (priv : Bool) : List Nat → Chk (List Word)
  | [] => .ok []
  | i :: is =>
    match needWord s e.c { va := base + i, acc := .load, priv := true, row := .cached } with
    | .error (.fault f) => .error (eretFault (BitVec.ofNat 64 base) cERET_CORRUPT 4 priv false f.cause)
    | .error st => .error st
    | .ok w =>
      if w.tag = tagPOISON then .error (eretFault (BitVec.ofNat 64 base) cERET_CORRUPT 4 priv false cPOISON_USE)
      else do
        let ws ← frameWords s e base (if i = 0 then bit w.pay 48 else priv) is
        .ok (w :: ws)

/-- `SY.eret`: the checks of R279 and the return of R280. -/
def syEret (t : Trig) (s : State) : Chk (Chk Effect) := .ok do
  let sp := latchOf t.e.b pDSsp
  let base := sp.pay.toNat - 10
  let fa := sp.pay - 10
  if sp.tag ≠ tagFIX ∨ sp.pay.toNat < 10 ∨ 2 ^ 48 < sp.pay.toNat then .error (eretFault fa cERET_CORRUPT 3 (Config.eretPriv sp.pay) false 0)
  else
    let ws ← frameWords s t.e base (Config.eretPriv sp.pay) (List.range 10)
    let priv := bit (fpay ws 0) 48
    if ws.any fun w => w.tag != tagFRAME then .error (eretFault fa cERET_CORRUPT 0 priv false 0)
    else if !frameFieldsOk ws then .error (eretFault fa cERET_CORRUPT 2 priv false 0)
    else if bits (fpay ws 9) 63 48 ≠ sealOf ws base then .error (eretFault fa cERET_CORRUPT 1 priv false 0)
    else
      let v := frameView ws
      let pc64 := BitVec.ofNat 64 v.pc
      match translate s t.e.c { va := v.pc, acc := .resume, priv := v.priv, row := .fetch } with
      | .miss => .error (.park (.tlb [{ va := v.pc, acc := .resume, priv := v.priv, row := .fetch }]))
      | .fault f => .error (eretFault pc64 cERET_MISMATCH 1 priv false f.cause)
      | .ok _ _ ent =>
        if ent.u = v.priv then .error (eretFault pc64 cERET_MISMATCH 0 priv ent.u 0)
        else
          let back (s : State) : State := onEret (modCtx s t.e.c fun x => { eretRegs x v with walks := [] }) t.e.c v.priv
          .ok { after := true, run := back }

/-- The number in `SY.crn`, or its fault (R137). -/
def crNumber (t : Trig) : Chk Nat := do
  let crn := latchOf t.e.b 0x1A2
  if crn.tag ≠ tagFIX then t.fail cOPERAND_TAG 1
  else if 0x7FF < crn.pay.toNat ∨ crAssigned crn.pay.toNat = false then
    .error (.fault { cause := cBAD_CR, faddr := BitVec.ofNat 64 t.e.pc, info := portInfo 15 1 t.slot 2 t.port
                     high := crn.pay.toNat % 2048 })
  else .ok crn.pay.toNat

/-- `SY.crrd` (R137). DESIGN CHOICE (log entry 49): `XCNTU` and `XCNTS` give the count before the reading packet, and `XGVAL` of the context's
own register is not the distance checker's. -/
def syCrrd (t : Trig) (s : State) : Chk (Chk Effect) := do
  let n ← crNumber t
  if crSelectFault s t.e n false then t.fail cOPERAND_RANGE 15
  else if n = 0x120 ∧ t.e.x.regs.xgidx < 64 ∧ gPending (getCtx s t.e.x.regs.xsel) t.e.x.regs.xgidx = true then
    .ok (.error (.park (.ctxReg t.e.x.regs.xsel t.e.x.regs.xgidx)))
  else
    let w := crValue s t.e n
    pureEff fun s => deliver t uSY 2 1 [(.port portSY, .word w)] (crReadEffect t.e n s)

def syCrwr (t : Trig) (s : State) (w : Word) : Chk (Chk Effect) := do
  let n ← crNumber t
  if !crAnyTag n && w.tag != tagFIX then t.fail cOPERAND_TAG 0
  else if crSelectFault s t.e n true then t.fail cOPERAND_RANGE 15
  else match crWordFault s t.e n w with
    | some cause =>
      if cause = cPOISON_USE then .error (.fault (poisonFault (BitVec.ofNat 64 t.e.pc) w))
      else match t.fail cause 0 with
        | .error (.fault f) => .error (.fault { f with sealed := crSealed s t.e n w })
        | r => r
    | none =>
      if n = 0x193 ∧ s.part.full = false then
        if t.e.aemu then pureEff id
        else .error (.absent { cause := cABSENT_UNIT, faddr := BitVec.ofNat 64 t.e.pc
                               info := portInfo 15 15 t.slot 2 t.port }
          [w, latchOf t.e.b 0x1A2, Word.zero, Word.zero, Word.zero])
      else if n = 0x213 ∧ (if bits t.e.x.regs.rglen 31 0 = 0 then 8 ≤ rangeOwing s (clusterOf t.e.c)
          else 8 ≤ (getCluster s (clusterOf t.e.c)).rangeQ.length) then
        .ok (.error (.park .rangeQueue))
      else pureEff (crWriteEffect t.e n w)

/-- The units that hold translations (R258). -/
def transUnits (s : State) : List TransUnit :=
  (List.range (s.part.clusters * 16)).map TransUnit.core ++
    (List.range s.part.clusters).flatMap fun k => [.engine k 0, .engine k 1, .range k]

/-- An invalidation broadcast (R258). -/
def issueInval (t : Trig) (w : Word) (s : State) : State :=
  let us := transUnits s
  let v : Inval :=
    { id := s.nextInval, ctx := t.e.c, part := t.e.pn, kind := bits w.pay 63 60, asid := bits w.pay 59 48
      va := bits w.pay 47 0, seq := t.e.seq, toRemove := us, toAck := us }
  let s1 := { s with invals := s.invals ++ [v], nextInval := s.nextInval + 1 }
  modCtx s1 t.e.c fun x => { x with invOut := x.invOut ++ [v.id] }

/-- `SY.tlbi` (R257, R260). -/
def syTlbi (t : Trig) (w : Word) : Chk (Chk Effect) :=
  if w.tag ≠ tagFIX then t.fail cOPERAND_TAG 0
  else if 3 < bits w.pay 63 60 then t.fail cOPERAND_RANGE 0
  else .ok (
    if 16 ≤ t.e.x.invOut.length then .error (.park .inval)
    else .ok { run := issueInval t w })

def syTlbsync (t : Trig) : Chk (Chk Effect) :=
  pureEff fun s => modCtx s t.e.c fun x => { x with hold := if x.invOut.isEmpty then .none else .tlbsync x.invOut }

def syUdrain (t : Trig) : Chk (Chk Effect) := pureEff fun s => modCtx s t.e.c fun x => { x with hold := .udrain }

/-- `SY.tbrd`: the timebase in ns. -/
def syTbrd (t : Trig) : Chk (Chk Effect) :=
  pureEff fun s => deliver t uSY 2 1 [(.port portTB, .word (Word.fixN s.time))] s

/-! ## The meaning of a trigger port -/

/-- The checks of order 7 and the effect of a move to a trigger port, by its long address (R114). -/
def trigger (t : Trig) (s : State) (w : Word) : Chk (Chk Effect) :=
  match t.port with
  | 0x02 => alTrig t .add w
  | 0x03 => alTrig t .sub w
  | 0x04 => alTrig t .cmp w
  | 0x05 => alTrig t .and w
  | 0x06 => alTrig t .or w
  | 0x07 => alTrig t .xor w
  | 0x08 => alTrig t .shl w
  | 0x09 => alTrig t .shr w
  | 0x0A => alTrig t .sar w
  | 0x0E => gaTrig t s .add w
  | 0x0F => gaTrig t s .sub w
  | 0x10 => gaTrig t s .mul w
  | 0x11 => gaTrig t s .cmp w
  | 0x15 => fmTrig t false w
  | 0x18 => tgTrig t .tag w
  | 0x19 => tgTrig t .set w
  | 0x1A => tgTrig t .test w
  | 0x1F => lsLd t s w false
  | 0x20 => lsSt t s w
  | 0x21 => lsCar t s w 0
  | 0x22 => lsCar t s w 1
  | 0x23 => lsLdf t s w
  | 0x24 => lsStf t s w
  | 0x27 => auNew t s w
  | 0x28 => auCons t s w
  | 0x2A => pcJmp t w false
  | 0x2B => pcJmp t w true
  | 0x2C => pcCall t s w
  | 0x2D => pcRet t s
  | 0x2E => pcTdsp t s w
  | 0x2F => dsPush t s w
  | 0x30 => dsPop t s w
  | 0x31 => mqSend t w false
  | 0x32 => mqRecv t s w
  | 0x34 => rptCount t w
  | 0x35 => rptStop t
  | 0x36 => stPf t s w
  | 0x37 => lsCas t s w
  | 0x080 => gaTrig t s .div w
  | 0x081 => gaTrig t s .quo w
  | 0x082 => gaTrig t s .rem w
  | 0x083 => gaTrig t s .flo w
  | 0x084 => gaTrig t s .int w
  | 0x0A0 => fmTrig t true w
  | 0x0A1 => tgTrig t .pay w
  | 0x0A3 => tgTrig t .eq w
  | 0x0A4 => tgTrig t .same w
  | 0x0C0 => lsLd t s w true
  | 0x0C1 => lsFence t w
  | 0x125 => rsDrop t w
  | 0x126 => rsPush t s w
  | 0x143 => mqSend t w true
  | 0x164 => rtGo t s w
  | 0x182 => stWalk t s w
  | 0x183 => stHalt t
  | 0x1A0 => syGate t s w
  | 0x1A1 => syEret t s
  | 0x1A3 => syCrrd t s
  | 0x1A4 => syCrwr t s w
  | 0x1A6 => syTlbi t w
  | 0x1A7 => syTlbsync t
  | 0x1A8 => syUdrain t
  | _ => syTbrd t

end Sys2Proof.Machine
end

