-- ==== Sys2Proof/Machine/Fabric.lean ====
section
/-!
DEFINITION. The board fabric of this device: responses of other devices (R329, R330), Sunlit admission and withdrawal (R306,
R334 to R341), routes (R25, R44, R326, R357), the failure of a link (R342, R346) and the arrival of messages (R296, R345).
-/

namespace Sys2Proof.Machine
open Sys2Proof

/-! ## Responses (R329, R330, R333) -/

/-- The word that a response delivers: POISON takes SOURCE 3 and the access's address (R328). -/
def remoteWord (pa : Nat) (w : Word) : Word := if w.tag = tagPOISON then poisonWord 3 pa else w

/-- A failed store of a context: raised at its next packet boundary, or recorded when one waits already (R330). -/
def storeFailed (s : State) (c seq st va : Nat) : State :=
  if (getCtx s c).storeFaults.isEmpty && decide ((getCtx s c).born ≤ seq) then
    modCtx s c fun x => { x with storeFaults := [statusFault st va .store] }
  else report s 0x7007 (.context c) [BitVec.ofNat 64 st]

/-- The answer to a Collector's RESOLVE (R171, R172, R333): the traced slot healed, or the answer kept for a held context's registers, NIL
where the device refused. Where no path or no link carries it, the pass ends with NO_PATH (R24). -/
def collAnswered (s : State) (r : RemReq) (st : Nat) (w : Word) : State :=
  if st = 2 ∨ st = 3 then abortCycle s r.part 2
  else match r.who with
    | .collSlot p phys slot old =>
      if st = 0 ∧ (isPointer (getPart s p) w = true ∨ w.tag = tagNIL) then
        healTraced s (collAgent s p ((collCluster s p).getD 0)) phys slot old (ptrAnswered old w)
      else s
    | .collWord p slot =>
      match traceWord s (collAgent s p ((collCluster s p).getD 0)) false slot w false with
      | (s1, .ok) => s1
      | (s1, .stop st) => abortCycle s1 p st
      | (s1, .wait) => askScan s1 (collAgent s p ((collCluster s p).getD 0)) slot 1
    | .collReg p pa => modColl s p fun k => { k with answers := k.answers ++ [(pa, if st = 0 then w else Word.nil)] }
    | _ => s

/-- An outstanding request completed with a status and a word. A RESOLVE's answer takes the tag and USER bits of the word that was asked
about; what an engine no longer awaits is discarded. -/
def remoteDone (s0 : State) (r : RemReq) (st : Nat) (w0 : Word) : State :=
  let s : State := { s0 with remotes := s0.remotes.filter fun q => q.rtag != r.rtag }
  let w := if r.op = 3 ∧ w0.tag ≠ tagPOISON then ptrAnswered ((r.words[0]?).getD w0) w0 else remoteWord r.pa w0
  match r.who with
  | .ctxOp c op =>
    setResult s c op (if st = 0 then .words (w :: r.words.take 1 ++ if r.op = 3 then [Word.zero] else [])
      else .fault (statusFault st r.va (if r.op = 2 then .cas else .load)))
  | .ctxStore c q => if st = 0 then s else storeFailed s c q st r.va
  | .engine cl en =>
    let store := decide (r.op = 1 ∨ r.op = 4)
    if st ≠ 0 then
      if store || (engineOf s cl en).serving == some r.ctx then
        routineFailed s r.ctx r.req (statusFault st r.va (if store then .store else .load)) st
      else s
    else if (engineOf s cl en).serving ≠ some r.ctx then s
    else match r.op with
      | 0 => modEngine s cl en fun e => { e with remBuf := tput e.remBuf r.pa w }
      | 3 => modEngine s cl en fun e => { e with remBuf := tput e.remBuf (resolveKey r.pa) w0 }
      | _ => s
  | .collSlot .. => collAnswered s r st w0
  | .collReg .. => collAnswered s r st w0
  | .collWord .. => collAnswered s r st w
  | .heal .. =>
    if st = 0 ∧ (r.words[0]? = some w ∨ r.words[1]? = some w) then s
    else report s 0x1003 (.context r.ctx) [BitVec.ofNat 64 r.va]
  | .none => s

/-! ## Sunlit flows (R334 to R341) -/

def modFlow (s : State) (k : Nat) (f : Flow → Flow) : State := { s with flows := tput s.flows k (f (tget {} s.flows k)) }

/-- The reservable rate and queue of a link by its lanes (R335). -/
def linkLimits (p : Link) : Nat × Nat := if laneCount p.active ≤ 3 then (210, 240) else (280, 352)

/-- The admitted flows of this device to another. -/
def flowsTo (s : State) (dev : Nat) : List (Nat × Flow) := s.flows.filter fun e => e.2.admitted && e.2.qid / 65536 == dev

def sumNat (l : List Nat) : Nat := l.foldl (· + ·) 0

/-- L1 and L2 of a list of flows on a link. -/
def linkFits (p : Link) (fs : List Flow) : Option Nat :=
  if (linkLimits p).1 < sumNat (fs.map Flow.rate) then some 1
  else if (linkLimits p).2 < sumNat (fs.map fun f => f.burst * f.flits) + 8 then some 2 else none

/-- The first condition that a flow breaks at its source: L1 to L3 for another device, then S1. -/
def srcRefusal (s : State) (f : Flow) : Option Nat :=
  let dev := f.qid / 65536
  let p := getPort s (directPort s dev)
  let link := if dev = s.dev then none
    else match linkFits p (f :: (flowsTo s dev).map Prod.snd) with
      | some c => some c
      | none => if p.st = 2 ∧ p.flight = false ∧ s.tsync.lock = true then none else some 3
  match link with
  | some c => some c
  | none =>
    let mine := (s.flows.filter fun e => e.2.admitted && e.2.cluster == f.cluster).map fun e => e.2.burst
    if 128 < sumNat mine + f.burst then some 7 else none

/-- The message rate of a flow in 1,216ths of a message per µs (R334). -/
def flowLoad (rate flits : Nat) : Nat := rate * 1000 * (2 / flits)

/-- The first condition that a flow breaks at its destination on this device: D1 to D3. -/
def dstRefusal (s : State) (queue rate burst flits : Nat) : Option Nat :=
  let home := queueHome s queue
  let here := (flowsTo s s.dev).filter fun e => queueHome s (e.2.qid % 65536) == home
  let peers := s.inFlows.filter fun f => queueHome s f.queue == home
  let x := getQ s queue
  if 64 < sumNat (here.map fun e => e.2.burst) + sumNat (peers.map InFlow.burst) + burst then some 4
  else if 118 * 1216 < sumNat (here.map fun e => flowLoad e.2.rate e.2.flits) +
      sumNat (peers.map fun f => flowLoad f.rate f.flits) + flowLoad rate flits then some 5
  else if x.cap < x.sunres + burst then some 6 else none

/-- R403: a flow touches a mirrored partition and does not stay within the mirrored partitions of this device. -/
def mirrorRefuses (s : State) (f : Flow) : Bool :=
  let q := getQ s (f.qid % 65536)
  let dstMirrored := f.qid / 65536 == s.dev && q.owned && (getPart s q.owner).mirrored
  if (getPart s f.part).mirrored then !dstMirrored else dstMirrored

/-- A refusal recorded with its condition (R335). -/
def flowRefused (s : State) (f : Flow) (c : Nat) : State :=
  report s 0x7003 (.partition f.part) [BitVec.ofNat 64 c, BitVec.ofNat 64 f.qid]

/-- A condition code where R335 numbers none for the refusal: a free one. -/
def freeCondition (s : State) : Nat × State := let (n, s1) := drawNat s; (n % 7 + 1, s1)

/-- VCORE held at or above 0.80 V from the admission of a flow on (R338). -/
def holdVcore (s : State) : State := { s with power := { s.power with vcore := max 800 s.power.vcore } }

/-- A flow admitted: its credits and tokens full, and SUNRES of a queue here raised (R292, R304, R334). -/
def grantFlow (s : State) (k : Nat) : State :=
  let f : Flow := tget {} s.flows k
  let s1 := modFlow (holdVcore s) k fun f => { f with admitted := true, credits := f.burst, tokens := f.burst * f.charge, tokenTime := s.time }
  if f.qid / 65536 = s.dev then modQ s1 (f.qid % 65536) fun x => { x with sunres := x.sunres + f.burst } else s1

/-- The FLOW record of a flow (R358). -/
def flowRecord (f : Flow) : W64 :=
  field f.rate 32 ||| field f.maxLen 28 ||| field (f.burst - 1) 25 ||| field f.cluster 20 ||| field f.qid 0

/-- The control path tries a flow that is not admitted (R335): at once where its queue is here; otherwise the destination is
asked. None is tried while the temperature holds flows back (R458). -/
def tryFlow (s : State) (k : Nat) : State :=
  let f : Flow := tget {} s.flows k
  if f.admitted || s.power.nosun then s
  else if mirrorRefuses s f then
    let (c, s1) := freeCondition s
    flowRefused s1 f c
  else if f.qid / 65536 = s.dev then
    match dstRefusal s (f.qid % 65536) f.rate f.burst f.flits with
    | some c => flowRefused s f c
    | none => match srcRefusal s f with
      | some c => flowRefused s f c
      | none => grantFlow s k
  else match srcRefusal s f with
    | some c => flowRefused s f c
    | none => sendCtrl s (f.qid / 65536) 5 f.part [⟨tagRAW, flowRecord f⟩, Word.fixN (flowIxOf s k)] (k % 256)

/-- Every flow that a test picks tried in admission order. -/
def tryFlows (s : State) (which : Flow → Bool) : State :=
  ((s.flows.filter fun e => which e.2).map Prod.fst).foldl tryFlow s

/-- Flows entered from their records in order, after every flow that the device has (R341, R358). -/
def enterRecords (s : State) (rs : List FlowRec) : State :=
  rs.foldl
    (fun s r =>
      let k := (s.flows.getLast?.map fun e => e.1 + 1).getD 0
      let f : Flow := { part := r.part, cluster := r.srccl, qid := r.dst, rate := r.rate, burst := r.burst, maxLen := r.maxLen }
      { s with flows := tput s.flows k f }) s

/-- The flows of a partition entered from the image in force. -/
def enterFlows (s : State) (p : Nat) : State := enterRecords s (s.img.flows.filter fun r => r.part == p)

/-- SUNRES of a queue here lowered. -/
def lowerSunres (s : State) (queue burst : Nat) : State := modQ s queue fun x => { x with sunres := x.sunres - burst }

/-- A flow's hold on a queue of this device ended. -/
def endReservation (s : State) (k : Nat) : State :=
  let f : Flow := tget {} s.flows k
  let s1 := modFlow s k fun f => { f with admitted := false }
  if f.admitted && f.qid / 65536 == s.dev then lowerSunres s1 (f.qid % 65536) f.burst else s1

/-- The unacknowledged messages that a test picks leave the outbox and the data network, and are refused with a status. -/
def refuseOutbox (s : State) (which : OutEnt → Bool) (st : Nat) : State :=
  let gone := s.outbox.filter which
  let s1 : State := { s with
    outbox := s.outbox.filter fun o => !which o
    msgs := s.msgs.filter fun m => !(gone.any fun o => o.sent && decide (o.msg = m)) }
  gone.foldl (fun s o => refuseMsg s o.msg st) s1

/-- A flow withdrawn as for a failed link (R306). -/
def failFlow (s : State) (k : Nat) : State :=
  let f : Flow := tget {} s.flows k
  if f.admitted = false then s
  else ringDoorbell (refuseOutbox (endReservation s k) (fun o => o.msg.sun && o.msg.flow == k) stLINK_DOWN) f.part 51

/-- Whether what this device has issued on a path that a peer withdrew is still on its way (R25): a request without its response, a message
without its acknowledgement, or a flit that the port has not had acknowledged, among them those that it forwards. -/
def pathBusy (s : State) (e : Withdrawal) : Bool :=
  let far := if e.kind = 0 ∧ e.ix ≠ s.dev then e.ix else e.dev
  let flit (f : Flit) : Bool := f.part == e.part && decide (5 ≤ f.typ) && decide (f.typ ≤ 11) && (e.kind != 1 || f.vc == 1) &&
    (f.dst == far || (f.src == far && f.dst == e.dev))
  let msg (o : OutEnt) : Bool := o.sent && o.msg.part == e.part && (if e.kind = 2 then o.msg.qid == e.ix else o.msg.qid / 65536 == far)
  (s.ports.any fun p => p.2.waiting.any flit || p.2.replay.any flit) || (e.kind != 1 && s.outbox.any msg) ||
    (e.kind == 0 && s.remotes.any fun r => r.part == e.part && r.pa / 2 ^ 36 % 16 == far)

/-- Whether Sunlit messages of a flow that this device withdraws have no acknowledgement yet (R25). -/
def flowBusy (s : State) (e : Withdrawal) : Bool :=
  s.outbox.any fun o => o.msg.sun && o.msg.part == e.part && o.msg.qid / 65536 == e.dev &&
    outboxCluster o.msg == some (e.ix / 256 % 32)

/-- Withdrawals whose path is empty acknowledged (R25), and those that waited for the source's own messages told to the other device. -/
def settleWithdraw (s : State) : State :=
  let done := s.withdrawn.filter fun e => !pathBusy s e
  let s1 := done.foldl (fun s e => sendCtrl s e.dev 4 e.part [Word.fixN e.kind, Word.fixN e.ix] e.token)
    { s with withdrawn := s.withdrawn.filter (pathBusy s) }
  let due (e : Withdrawal) : Bool := !e.sent && (e.kind != 1 || !flowBusy s e)
  (s.withdrawing.filter due).foldl (fun s e => sendCtrl s e.dev 3 e.part [Word.fixN e.kind, Word.fixN e.ix])
    { s1 with withdrawing := s.withdrawing.map fun e => if due e then { e with sent := true } else e }

/-- A path that this device withdraws (R25): the other device is told once no Sunlit message of this device is on it, and the withdrawal
stands until it acknowledges. -/
def sendWithdraw (s : State) (kind p dev ix : Nat) : State :=
  settleWithdraw { s with withdrawing := s.withdrawing ++ [{ kind, part := p, dev, ix, token := 0, sent := false }] }

/-- A flow withdrawn by the control path (R25): no message is sent on it from now on, those on their way are delivered, and its destination
is told. -/
def withdrawFlow (s : State) (k : Nat) : State :=
  let f : Flow := tget {} s.flows k
  if f.admitted = false then s
  else
    let s1 := endReservation s k
    if f.qid / 65536 = s.dev then s1
    else sendWithdraw s1 1 f.part (f.qid / 65536) (f.cluster * 256 + flowIxOf s k)

/-- The flows of a partition withdrawn and removed. -/
def dropFlows (s : State) (p : Nat) : State :=
  let ks := (s.flows.filter fun e => e.2.part == p).map Prod.fst
  let s1 := ks.foldl withdrawFlow s
  { s1 with flows := s1.flows.filter fun e => e.2.part != p }

/-- A peer's flow admitted to a queue here (R336). -/
def addInFlow (s : State) (f : InFlow) : State :=
  modQ { holdVcore s with inFlows := s.inFlows ++ [f] } f.queue fun x => { x with sunres := x.sunres + f.burst }

/-- The peers' flows that a test picks ended here. -/
def endInFlows (s : State) (which : InFlow → Bool) : State :=
  let gone := s.inFlows.filter which
  gone.foldl (fun s f => lowerSunres s f.queue f.burst) { s with inFlows := s.inFlows.filter fun f => !which f }

/-- The flows of a link that changes to three lanes re-checked in admission order (R341). -/
def recheckLink (s : State) (dev : Nat) : State :=
  let p := getPort s (directPort s dev)
  let keep := (flowsTo s dev).foldl (fun (a : List (Nat × Flow)) e =>
    if (linkFits p (e.2 :: a.map Prod.snd)).isNone then a ++ [e] else a) []
  ((flowsTo s dev).filter fun e => !(keep.any fun k => k.1 == e.1)).foldl (fun s e => failFlow s e.1) s

/-! ## Routes (R25, R44, R326) -/

/-- The digest of a partition's TDT (R44). -/
def tdtDigest (p : Partition) : W64 :=
  sha512Low ((List.range 256).flatMap fun t => bytesBE (tdtOf p (BitVec.ofNat 8 t)))

/-- A data route set up, with the bindings of its queues, or taken away. -/
def setRoute (s : State) (p dev port : Nat) : State :=
  { s with
    routes := (s.routes.filter fun r => !(r.1 == p && r.2.1 == dev)) ++ [(p, dev, port)]
    unbound := s.unbound.filter fun b => !(b.1 == p && b.2 / 65536 == dev) }
def dropRoute (s : State) (p dev : Nat) : State := { s with routes := s.routes.filter fun r => !(r.1 == p && r.2.1 == dev) }

/-- The partitions that a data route can serve: defined and not sealed (R389). -/
def routable (s : State) : List Nat := (s.parts.filter fun e => e.2.defined && !e.2.sealed).map Prod.fst

/-- A route asked for: the digest, and how the route runs (R322); the token names the way too, so that the reply does. -/
def askRoute (s : State) (p dev via : Nat) : State :=
  sendCtrl s dev 1 p [⟨tagRAW, tdtDigest (getPart s p)⟩, Word.fixN via] via

/-- The devices that this one has a mesh link to. -/
def meshPeers (s : State) : List Nat := (s.ports.filter fun e => e.2.st == 2).map fun e => e.2.peerDev

/-- A forwarding of this device's image told to a source (R357). DEDUCED (log entry 24): the image of an intermediate device declares a
forwarding by a ROUTE record that names that device itself as the intermediate one. -/
def tellForward (s : State) (src : Nat) (r : Nat × Nat × Nat) : State := sendCtrl s src 7 0 [Word.fixN r.2.2, Word.fixN r.1]

/-- The forwardings of this device's own image. -/
def ownForwards (s : State) : List (Nat × Nat × Nat) := s.img.routes.filter fun r => r.2.1 == s.dev

/-- What the control path does when a port comes UP (R326, R357): the direct routes to the peer, and this device's own forwardings: those to
the peer told to the others, and those to the others told to the peer. -/
def openRoutes (s : State) (dev : Nat) : State :=
  let s1 := (routable s).foldl (fun s p => askRoute s p dev 0) s
  (ownForwards s).foldl (fun s r =>
    if r.1 = dev then ((meshPeers s).filter (· != dev)).foldl (fun s v => tellForward s v r) s
    else if (meshPeers s).contains r.1 then tellForward s dev r else s) s1

/-- The partitions of a mask. -/
def maskParts (mask : Nat) : List Nat := (List.range 32).filter fun p => mask / 2 ^ p % 2 == 1

/-- The device through which a partition's two-hop route to a device runs, while its direct link is not UP: the intermediate of a ROUTE record
that has declared the forwarding (R357), otherwise the one that relays its control traffic (R326). DEDUCED, log entry 24. -/
def routeMid (s : State) (p dev : Nat) : Option Nat :=
  let declared (r : Nat × Nat × Nat) : Bool :=
    r.1 == dev && r.2.2 / 2 ^ p % 2 == 1 && (getPort s r.2.1).st == 2 &&
      s.forwards.any fun f => f.1 == r.2.1 && f.2.1 == dev && f.2.2 / 2 ^ p % 2 == 1
  match s.img.routes.find? declared with
  | some r => some r.2.1
  | none => if (getPort s (ctrlPort s dev)).st = 2 ∧ ctrlPort s dev ≠ dev then some (ctrlPort s dev) else none

/-- After the failure of a direct link the control path sets up two-hop routes in the place of those that ran over it (R326). -/
def detour (s : State) (dev : Nat) : State :=
  (s.routes.filter fun r => r.2.1 == dev && r.2.2 == dev).foldl (fun s r =>
    match routeMid s r.1 dev with
    | some v => askRoute s r.1 dev (0x10 + v)
    | none => s) s

/-- A route of this device withdrawn (R25): its far device is told, and the intermediate of a two-hop route. -/
def withdrawRoute (s : State) (r : Nat × Nat × Nat) : State :=
  let s1 := sendWithdraw (dropRoute s r.1 r.2.1) 0 r.1 r.2.1 r.2.1
  if r.2.2 = r.2.1 then s1 else sendWithdraw s1 0 r.1 (getPort s r.2.2).peerDev r.2.1

/-- The routes of a partition withdrawn by the control path (R25). -/
def withdrawRoutes (s : State) (p : Nat) : State := (s.routes.filter fun r => r.1 == p).foldl withdrawRoute s

/-- With whom the timebase synchronises (R343, R344): the lowest-numbered device known to be present masters the board; another device goes
over its direct link to it, or, while that is down, through the lowest-numbered peer that does. The master's LOCK is 1 while REFCLK counts; a
device that begins to synchronise has it 0 until three good exchanges. DEDUCED (log entry 24): a device is known to be present once it has been
a peer, has sent a control message, or is the one with which a peer synchronises. -/
def resync (s : State) : State :=
  let t := s.tsync
  let ups := s.ports.filter fun e => e.2.st == 2
  let known (e : Nat × Link) : Nat := match e.2.peerSync with | some x => min e.2.peerDev x.1 | none => e.2.peerDev
  let root := ups.foldl (fun m e => min m (known e)) (min s.dev t.root)
  if root = s.dev then
    { s with tsync := { t with root, src := s.dev, master := true, via := false, lock := !s.power.refLost } }
  else
    let fit (e : Nat × Link) : Bool := e.2.peerDev != root && match e.2.peerSync with | some x => x.1 == root && !x.2 | none => true
    let (src, via) := if (getPort s root).st = 2 then (root, false) else match ups.find? fit with
      | some e => (e.2.peerDev, true)
      | none => (root, false)
    { s with tsync := { t with root, src, via, master := false, lock := t.lock && !t.master, good := if t.master then 0 else t.good } }

/-! ## Link failure (R342) -/

/-- Whether a port is claimed by Reflection (R400). -/
def isReflPort (s : State) (port : Nat) : Bool :=
  match s.img.reflect with
  | some r => r.portmask / 2 ^ port % 2 == 1
  | none => false

/-- A lane charged one error (R325). -/
def chargeLane (s : State) (port lane : Nat) : State :=
  report (modPort s port fun p => { p with lastLane := lane }) 0x7005 (.lane (port * 4 + lane))

/-- A LINK_CTRL flit: its items, filled up with NONE. -/
def linkCtrlFlit (items : List Word) : Flit :=
  { typ := 1, words := (items ++ List.replicate 8 (⟨tagRAW, 0⟩ : Word)).take 8 }

/-- The flit that tells the peer of a retraining, with the lane that is charged, or 0xF for none (R319). -/
def retrainFlit (lane : Option Nat) : Flit := linkCtrlFlit [⟨tagRAW, field 4 60 ||| field (lane.getD 0xF) 0⟩]

/-- The state of a port's link layer at the start of a training attempt. -/
def freshLink (p : Link) (time : Nat) : Link :=
  { reason := 0, st := 1, peerDev := p.peerDev, peerPort := p.peerPort, retrains := p.retrains, retired := p.retired
    viol := p.viol, violTimes := p.violTimes, attempts := p.attempts, lastLane := p.lastLane
    step := 1, stepTime := time, wire := p.wire, trained := p.trained, parting := p.parting }

/-- A training counted in RETRAINS, but for the first one since cold reset (R347). -/
def countTraining (p : Link) : Link :=
  { p with trained := true, retrains := if p.trained then min 0xFF (p.retrains + 1) else p.retrains }

/-- A port starts to train (R324). -/
def startTraining (s : State) (port : Nat) : State := modPort s port fun p => freshLink (countTraining p) s.time

/-- A port held down for a reason (R347). -/
def holdPort (s : State) (port reason : Nat) : State :=
  report (modPort s port fun p => { freshLink p s.time with st := 3, reason, step := 0, active := p.active, flight := p.flight })
    0x7001 (.port port) [BitVec.ofNat 64 reason]

/-- Messages whose route ran over a port (R297). -/
def sentOver (s : State) (port : Nat) (o : OutEnt) : Bool :=
  o.sent && o.msg.qid / 65536 != s.dev && routePort s o.msg.part (o.msg.qid / 65536) == some port

/-- What a Reflection port that fails had not had acknowledged (R415): its stream items go back to the front of the stream, and its
acknowledgements to another port in use. -/
def reflReturn (s : State) (p : Link) : State :=
  if p.st ≠ 5 then s
  else
    let s1 := { s with refl := { s.refl with outItems := p.reflSent.map Prod.fst ++ s.refl.outItems } }
    match s1.ports.find? fun e => e.2.st == 5 with
    | some (q, _) => ((p.replay ++ p.waiting).filter fun f => f.typ == 12 && f.vc == 4).foldl (fun s f => sendFlit s q f) s1
    | none => s1

/-- The two-hop routes through a mesh link withdrawn under R25 (R342): this device's own, told to their far ends, and those that it forwards,
told to the devices at their other end. -/
def dropTwoHop (s : State) (dev : Nat) : State :=
  let own := s.routes.filter fun r => r.2.2 == directPort s dev && r.2.1 != dev
  let mine := own.foldl (fun s r => sendWithdraw (dropRoute s r.1 r.2.1) 0 r.1 r.2.1 r.2.1) s
  let set := mine.relays.filter fun r => r.2.1 == dev || r.2.2 == dev
  let s1 := set.foldl (fun s r => sendWithdraw s 0 r.1 (if r.2.1 = dev then r.2.2 else r.2.1) dev)
    { mine with relays := mine.relays.filter fun r => r.2.1 != dev && r.2.2 != dev }
  let others := (meshPeers s).filter (· != dev)
  (ownForwards s).foldl (fun s r =>
    (maskParts r.2.2).foldl (fun s p =>
      if r.1 = dev then others.foldl (fun s v => sendWithdraw s 0 p v dev) s
      else if others.contains r.1 then sendWithdraw s 0 p r.1 dev else s) s) s1

/-- What a port carried given up (R342 steps 1 to 3): flows, requests, messages, and the two-hop routes through it, on which a request that
has not left completes as NO_PATH. A port that carries nothing, or Reflection traffic alone, gives up none of it. -/
def dropTraffic (s : State) (port : Nat) : State :=
  let dev := (getPort s port).peerDev
  let tagOf (f : Flit) : Option Nat :=
    if 5 ≤ f.typ ∧ f.typ ≤ 7 ∧ f.src = s.dev then f.words.head?.map fun w => bits w.pay 63 48 else none
  let unsent (r : RemReq) : Bool := (getPort s port).waiting.any fun f => tagOf f == some r.rtag
  let st (r : RemReq) : Nat := if unsent r && r.pa / 2 ^ 36 % 16 != dev then 2 else 3
  if isReflPort s port || (getPort s port).credits.isEmpty then s
  else
    let s1 := endInFlows ((flowsTo s dev).foldl (fun s e => failFlow s e.1) s) fun f => f.dev == dev
    let s2 := (s1.remotes.filter fun r => r.port == port).foldl (fun s r => remoteDone s r (st r) Word.zero) s1
    let s3 := refuseOutbox s2 (sentOver s2 port) stLINK_DOWN
    dropTwoHop s3 dev

/-- The steps of R342: flows, requests, routes, control traffic, and a new training; the cause counts as R447 numbers it. What the failing
port still sends is the Sunlit acknowledgements that it holds, LATE among them (R340), and the RETRAIN item; two-hop routes are set up in the
place of the direct ones (R326), and a withdrawal that no control path can carry any more is over, all that was on it having its error. -/
def linkFail (s : State) (port cause : Nat) : State :=
  let p := getPort s port
  if p.st ≠ 2 ∧ p.st ≠ 5 then s
  else
    let dev := p.peerDev
    let s5 := dropTraffic (report s 0x7004 (.port port) [BitVec.ofNat 64 cause]) port
    let q := getPort s5 port
    let ctrl := (q.replay ++ q.waiting).filter fun f => f.typ == 3
    let late := q.waiting.filter fun f => f.typ == 11 && f.vc == 1
    let lane := if cause ≤ 2 then q.faultLane else none
    let s6 := reflReturn (modPort (startTraining s5 port) port fun l => { l with parting := late ++ [retrainFlit lane] }) q
    let relay := ctrlPort s6 dev
    let s7 := if (getPort s6 relay).st = 2 then detour (ctrl.foldl (fun s f => sendFlit s relay f) s6) dev
      else { s6 with withdrawing := s6.withdrawing.filter fun e => e.dev != dev }
    let s8 := match lane with | some l => chargeLane s7 port l | none => s7
    settleWithdraw (resync (if cause = 6 then holdPort (modPort s8 port fun l => { l with parting := late }) port 3 else s8))

/-- The synchronisation looked at again (R343): where another device turns out to be the master, LOCK is lost, and with it every link but the
one to the partner (R342, R344). -/
def syncBoard (s : State) : State :=
  let s1 := resync s
  if s.tsync.master && s.tsync.lock && !s1.tsync.master then
    ((s1.ports.filter fun e => e.2.st == 2 && e.2.peerDev != s1.tsync.src).map Prod.fst).foldl (fun s p => linkFail s p 5) s1
  else s1

/-- A device shown to be present by a control message of its own (R343). -/
def notePresent (s : State) (dev : Nat) : State :=
  if dev < min s.dev s.tsync.root then syncBoard { s with tsync := { s.tsync with root := dev } } else s

/-! ## Violations (R345, R346) -/

/-- COUNT and WINDOW of a class, the window in ns (R362). -/
def threshOf (s : State) (cls : Nat) : Nat × Nat :=
  let d : Nat × Nat := match cls with
    | 1 => (4, 86400)
    | 2 => (3, 3600)
    | 3 => (16, 86400)
    | 4 => (2, 86400)
    | 5 => (3, 3600)
    | 6 => (64, 1)
    | _ => (3, 86400)
  let t := tget d s.img.thresh cls
  (t.1, t.2 * 10 ^ 9)

/-- A violation counted in `BPVIOL` and reported; the port is isolated once they are too many. -/
def countViolation (s : State) (port kind : Nat) : State :=
  let (count, window) := threshOf s 6
  let s1 := modPort s port fun p => { p with
    viol := if p.viol = 0xFFFFFFFF then p.viol else p.viol + 1
    violTimes := (p.violTimes ++ [s.time]).filter fun t => decide (s.time < t + window) }
  let s2 := report s1 0x7002 (.port port) [BitVec.ofNat 64 kind]
  if count ≤ (getPort s2 port).violTimes.length then linkFail s2 port 6 else s2

/-- A violation whose row of R345 the spec does not name: its kind is free. -/
def oddViolation (s : State) (port : Nat) : State :=
  let (n, s1) := drawNat s
  countViolation s1 port (n % 9 + 1)

/-! ## Retraining and retired lanes (R322, R325) -/

/-- A port in use retrained: what it has not had acknowledged is kept for after the training; `out` leaves before it. -/
def retrainPort (s : State) (port : Nat) (out : List Flit := []) : State :=
  modPort s port fun p => { countTraining p with
    st := 1, reason := 0, step := 1, stepTime := s.time, discarding := false, openItems := (0, 0), parting := out
    offered := false, echoSent := false, echoHeard := false, doneSent := false }

/-- A lane retired: recorded for good; its port retrains on the others, or is held down for good once two are (R325). -/
def retireLane (s : State) (port lane : Nat) : State :=
  let s1 := modPort s port fun p => { p with retired := Nat.lor p.retired (2 ^ lane), active := Nat.land p.active (15 - 2 ^ lane) }
  let s2 := report { s1 with life := { s1.life with lanes := tput s1.life.lanes port (Nat.lor (tget 0 s1.life.lanes port) (2 ^ lane)) } }
    0x7006 (.lane (port * 4 + lane))
  let p := getPort s2 port
  if 2 ≤ laneCount p.retired then holdPort (dropTraffic (linkFail s2 port 1) port) port 5
  else if p.st = 2 ∨ p.st = 5 then retrainPort s2 port [retrainFlit (some lane)] else s2

/-! ## Flits as they are laid out (R314) -/

/-- The low bits of a number as bits, most significant first. -/
def bitsMsb (n v : Nat) : List Bool := (List.range n).map fun i => v.testBit (n - 1 - i)

/-- The bits [639:16] of a flit, most significant first: TYPE, VC, SEQ, the transport word and eight 72-bit words. -/
def flitBody (f : Flit) : List Bool :=
  let words := (f.words ++ List.replicate 8 Word.zero).take 8
  bitsMsb 4 f.typ ++ bitsMsb 3 f.vc ++ bitsMsb 9 f.seq ++ bitsMsb 4 f.dst ++ bitsMsb 4 f.src ++ bitsMsb 5 f.part ++
    bitsMsb 3 (f.count - 1) ++ bitsMsb 16 0 ++ words.flatMap fun w => bitsMsb 8 w.tag.toNat ++ bitsMsb 64 w.pay.toNat

/-- One bit through the flit's CRC: polynomial 0x8BB7, no reflection. -/
def flitCrcBit (crc : Nat) (b : Bool) : Nat :=
  let out := crc.testBit 15 != b
  Nat.xor (crc * 2 % 65536) (if out then 0x8BB7 else 0)

/-- The CRC of a flit over [639:16], from 0xFFFF, with no final XOR. -/
def flitCrc (f : Flit) : Nat := (flitBody f).foldl flitCrcBit 0xFFFF

/-- The 640 bits of a flit, most significant first. -/
def flitBits (f : Flit) : List Bool := flitBody f ++ bitsMsb 16 (flitCrc f)

/-! ## Messages over a port -/

/-- A sequenced flit received in order (R323): the link's sequence advances, the buffer space is freed for a credit, and a replay that was
asked for has arrived. -/
def rxFlit (s : State) (port vc n : Nat) : State :=
  modPort s port fun p => { p with
    rxSeq := (p.rxSeq + n) % 512, rxSince := p.rxSince + n, freed := tput p.freed vc (tget 0 p.freed vc + n)
    discarding := false, openItems := (0, 0) }

/-- Whether a port delivers flits: UP or in use by Reflection. -/
def linkOpen (s : State) (port : Nat) : Bool := (getPort s port).st == 2 || (getPort s port).st == 5

/-- Whether an item belongs to the flit of its type that the port is receiving (R314, R315). -/
def moreItems (s : State) (port typ : Nat) : Bool := (getPort s port).openItems.1 == typ && (getPort s port).openItems.2 != 0

/-- Whether a port takes a flit: the next in sequence, the first of a replay among them. Any other is discarded (R323). -/
def inSeq (s : State) (port : Nat) (seq : Option Nat) : Bool := seq.all fun n => n == (getPort s port).rxSeq

/-- Whether a port takes an item of a flit. -/
def takesItem (s : State) (port typ : Nat) (x : XPort) : Bool := linkOpen s port && (moreItems s port typ || inSeq s port x.seq)

/-- One item of a flit received: its first item is the receipt of the flit (R315, R323). -/
def rxItem (s : State) (port typ vc : Nat) (x : XPort) : State :=
  if moreItems s port typ then modPort s port fun p => { p with openItems := (typ, p.openItems.2 - 1) }
  else modPort (rxFlit s port vc 1) port fun p => { p with openItems := (typ, x.count) }

/-- The mesh port to a device that is UP. -/
def meshPort (s : State) (dev : Nat) : Option Nat :=
  if (getPort s dev).st = 2 then some dev else none

/-- Whether this device forwards a partition's two-hop traffic between two devices, either way (R326, R357): by its own image, or by what the
control path set up. -/
def forwardsTo (s : State) (part a b : Nat) : Bool :=
  ((ownForwards s).any fun r => r.2.2 / 2 ^ part % 2 == 1 && (r.1 == a || r.1 == b)) ||
    s.relays.any fun r => r == (part, a, b) || r == (part, b, a)

/-- The admitted flow of a peer's Sunlit message (R336, R345). -/
def inFlowOf (s : State) (m : PeerMsg) : Option InFlow :=
  s.inFlows.find? fun f => f.dev == m.x.src && f.cluster == m.ctx / 512 && f.ix == m.flowix && f.queue == m.qid % 65536

/-- The deadline nearest this timebase whose low 15 bits are DLOW (R317). -/
def rebuildDeadline (time dlow : Nat) : Nat :=
  let base := time / 32768 * 32768 + dlow
  if base + 16384 < time then base + 32768 else if time + 16384 < base ∧ 32768 ≤ base then base - 32768 else base

/-- The queue of this device over whose binding a partition's mark requests come (R179). -/
def isMarkReq (s : State) (p : PeerMsg) : Bool := p.kind == 2 && !p.sun && p.qid % 65536 == Config.markBinding p.x.part s.dev % 65536

/-- A mark request of another device's Collector (R179, R308): its words are marked while the partition marks here; otherwise the request is
refused, and its sender retries. One that comes after this device has told that its part of the phase has ended takes that back first. -/
def takeMarkReq (s : State) (p : PeerMsg) : State × Nat :=
  match collCluster s p.x.part with
  | some cl =>
    if (routePort s p.x.part p.x.src).isNone then (s, stNO_PATH)
    else if (getPart s p.x.part).marking = false then (s, stFULL)
    else if (getPart s p.x.part).coll.told = phaseStamp (getPart s p.x.part) then (withdrawEnd s p.x.part, stFULL)
    else (p.words.foldl (fun s w => markLogged s (collAgent s p.x.part cl) w) s, 0)
  | none => (s, stNOT_BOUND)

/-- A peer's message judged at its home, and acknowledged (R296, R318, R336, R340); one without a route is a violation (R345); no
peer reaches a queue of a sealed partition (R394). -/
def judgePeer (s : State) (p : PeerMsg) (port : Nat) : State :=
  let q := p.qid % 65536
  let m : Msg :=
    { src := .port port, kind := if p.kind = 0 then .ctx else if p.kind = 1 then .host else .peer, part := p.x.part, ctx := p.ctx
      srcDev := p.x.src, qid := p.qid, sun := p.sun, words := p.words, deadline := rebuildDeadline s.time p.dlow }
  let ack (s : State) (outcome : Nat) : State :=
    sendAck s p.x.part p.x.src p.sun (ackWord p.qid (p.ctx / 512) (if p.sun then p.flowix else 0) outcome 1 p.base p.sun)
  if isMarkReq s p then
    let (s1, st) := takeMarkReq s p
    ack (if st = stNO_PATH then countViolation s1 port 6 else s1) st
  else if p.sun ∧ (inFlowOf s p).isNone = true then ack (countViolation s port 7) stNOT_BOUND
  else if p.sun ∧ m.deadline < s.time then linkFail (ack s 7) port 3
  else if (getPart s (getQ s q).owner).mirrored && (getQ s q).owned then ack s stNO_PATH
  else if (getPart s (getQ s q).owner).sealed && (getQ s q).owned then
    ack (sealedRefused s (getQ s q).owner 3 (.peer p.x.src)) stNO_PATH
  else match judge s m with
    | none => ack (placeMsg s m) 0
    | some st => ack (if st = stNO_PATH then countViolation s port 6 else s) st

/-- A peer's message for a third device sent on (R326): Shade only, over a declared forwarding whose link is UP; one for which no forwarding
is set up is a violation (R345) and has no path. Over a link that is down the message is to be bounced with LINK_DOWN: the acknowledgement
cannot carry that status (R318), so it carries LATE, which the source bounces with LINK_DOWN (DEDUCED, log entry 24). -/
def forwardMsg (s : State) (p : PeerMsg) (from' : Nat) : State :=
  let dst := p.qid / 65536
  let m : Msg := { src := .base, kind := .peer, part := p.x.part, ctx := p.ctx, srcDev := p.x.src, qid := p.qid, words := p.words }
  let desc : Word := ⟨tagRAW, field p.qid 44 ||| field p.words.length 40 ||| field p.kind 37 ||| field p.ctx 23 ||| flagBit p.base 22⟩
  let refuse (s : State) (outcome : Nat) : State := sendAck s p.x.part p.x.src p.sun (ackWord p.qid (p.ctx / 512) 0 outcome 1 p.base p.sun)
  if !forwardsTo s p.x.part p.x.src dst || p.sun then refuse (countViolation s from' 6) stNO_PATH
  else match meshPort s dst with
    | some port => sendMsgFlits s port 3 m desc
    | none => refuse s 7

/-- A message for a queue here wakes the cluster that homes it (R32). -/
def wakeQueue (s : State) (q : Nat) : State := clusterBack s (queueHome s q)

/-- Whether a message's descriptor breaks its layout (R317). -/
def badDescriptor (p : PeerMsg) : Bool :=
  p.words.isEmpty || decide (8 < p.words.length) || decide (2 < p.kind) || (p.kind == 1 && p.ctx != 0) ||
    (p.kind == 2 && p.ctx % 512 != 0) || (!p.sun && (p.flowix != 0 || p.dlow != 0))

/-- Of the messages on their way from a unit, the one that the queue engine takes (R289, R337): the oldest, unless Sunlit goes before a Shade
message to another queue, or before more than one to the same queue. -/
def nextArrival (s : State) (src : MsgFrom) : Option (Nat × Msg) :=
  match ((List.range s.msgs.length).zip s.msgs).filter fun e => e.2.src == src with
  | [] => none
  | e :: rest =>
    match (e :: rest).find? fun f => f.2.sun with
    | some f =>
      let ahead := (e :: rest).takeWhile fun g => !g.2.sun
      some (if e.2.qid = f.2.qid ∧ (ahead.filter fun g => g.2.qid == f.2.qid).length = 1 then e else f)
    | none => some e

/-- QUEUE_MESSAGE_ARRIVAL (R296): a message on its way from a source of this device, or a peer's; it waits for a shared miss-tracking entry
of its ring (R289). -/
def messageArrival (s0 : State) (src : MsgFrom) (m : Option PeerMsg) : State :=
  match src, m with
  | .port port, some p =>
    let s := if p.qid / 65536 = s0.dev then wakeQueue s0 (p.qid % 65536) else s0
    if !linkOpen s port || (getPort s port).st != 2 || !inSeq s port p.x.seq || (p.qid / 65536 == s.dev && !ringFree s (p.qid % 65536)) then s
    else
      let vc := if p.sun then 1 else if p.x.src = (getPort s port).peerDev then 2 else 3
      let s1 := rxFlit s port vc (if p.words.length = 8 then 2 else 1)
      if p.x.rsvd % 65536 ≠ 0 then countViolation s1 port 2
      else if badDescriptor p then oddViolation s1 port
      else if p.qid / 65536 = s.dev then judgePeer s1 p port else forwardMsg s1 p port
  | .port _, none => s0
  | _, _ =>
    match nextArrival s0 src with
    | some (i, m) =>
      let s := wakeQueue s0 (m.qid % 65536)
      if ringFree s (m.qid % 65536) then judgeLocal { s with msgs := s.msgs.eraseIdx i } m else s
    | none => s0

def execQueueMessageArrival (src : MsgFrom) (m : Option PeerMsg) (s : State) : Host.Outcome State Fault Refusal :=
  .next (messageArrival s src m)

end Sys2Proof.Machine
end

