-- ==== Sys2Proof/Machine/Afterglow.lean ====
section
/-!
DEFINITION. Afterglow (R421 to R442, R447, R506): subjects and witnesses, records, aggregation, rate limits, Penumbra
counting and retirement, the ring, the fallback bank and the drain.
-/

namespace Sys2Proof.Machine
open Sys2Proof

/-! ## Alerts (R438, R484) and event signals of the physical function (R477) -/

/-- Byte 1 of GET_STATUS: the causes of ALERT_N. -/
def alertBits (s : State) : Nat :=
  b2n (s.glow.alertFb || s.glow.alertSev || s.glow.alertRing) + b2n s.power.refAlert * 2 + b2n s.power.trip * 4 +
    b2n s.power.wdExpired * 8 + b2n s.cal.almFired * 16 + b2n (s.trust.stage == 0xA || s.trust.stage == 0xB) * 32

def alertN (s : State) : Bool := alertBits s != 0

/-- PF entry 1 signalled where a change of the state has asserted ALERT_N. -/
def withAlert (s0 s1 : State) : State := if !alertN s0 && alertN s1 then signalMsix s1 0 1 else s1

/-! ## The stream to the twin (R408) -/

/-- The descriptor of an item of the Reflection stream. -/
def itemDesc (kind epoch arg : Nat) : W64 := field kind 60 ||| field (epoch % 65536) 40 ||| field arg 0

/-- Whether this device is a Primary with a formed pair. -/
def shipping (s : State) : Bool := !s.refl.role && (s.refl.state == 2 || s.refl.state == 3)

/-- A word as the authenticated encryption takes it. -/
def gcmWord (w : Word) : Nat × W64 := (w.tag.toNat, w.pay)

/-- The words of an item in the stream. -/
def RefItem.all (i : RefItem) : List Word := ⟨tagRAW, i.desc⟩ :: i.words

/-- An item followed by its tag where the pair carries a sealed mirrored partition: each record holds one item (R395, R408). -/
def sealItem (s : State) (i : RefItem) : List RefItem × State :=
  if s.refl.authed then
    let n := s.refl.gcmCount
    let t := Config.gcmTag s.refl.gcmKey n (i.all.map gcmWord)
    ([i, { desc := itemDesc 8 (bits i.desc 55 40) (n % 2 ^ 32), words := [⟨tagRAW, t.1⟩, ⟨tagRAW, t.2⟩] }],
     { s with refl := { s.refl with gcmCount := n + 1 } })
  else ([i], s)

/-- An item queued for the Reflection ports. -/
def shipItem (s : State) (i : RefItem) : State :=
  let (is, s1) := sealItem s i
  { s1 with refl := { s1.refl with outItems := s1.refl.outItems ++ is } }

/-! ## Codes (R447) -/

/-- The severity of a code; none for a code that is never written. -/
def codeSev (c : Nat) : Option Nat :=
  match c with
  | 0x0001 => some 0 | 0x0002 => some 6 | 0x0003 => some 5 | 0x0004 => some 5 | 0x0005 => some 0 | 0x0006 => some 3
  | 0x0007 => some 5 | 0x0008 => some 1 | 0x1001 => some 3 | 0x1002 => some 5 | 0x1003 => some 0 | 0x2001 => some 2
  | 0x2002 => some 5 | 0x2003 => some 2 | 0x2004 => some 4 | 0x2005 => some 0 | 0x2006 => some 3 | 0x3001 => some 2
  | 0x3002 => some 5 | 0x3004 => some 4 | 0x3005 => some 5 | 0x4001 => some 2 | 0x5001 => some 0 | 0x5002 => some 3
  | 0x5003 => some 2 | 0x5004 => some 4 | 0x5005 => some 1 | 0x5006 => some 1 | 0x5007 => some 3 | 0x5008 => some 3
  | 0x6001 => some 3 | 0x6002 => some 3 | 0x6003 => some 3 | 0x7001 => some 3 | 0x7002 => some 3 | 0x7003 => some 1
  | 0x7004 => some 4 | 0x7005 => some 2 | 0x7006 => some 4 | 0x7007 => some 3 | 0x8001 => some 3 | 0x8002 => some 3
  | 0x8003 => some 4 | 0x9001 => some 1 | 0x9002 => some 6 | 0x9003 => some 3 | 0x9004 => some 6 | 0xA001 => some 1
  | 0xA002 => some 5 | 0xA003 => some 5 | 0xA004 => some 1 | 0xB001 => some 3 | 0xB002 => some 1 | 0xB003 => some 0
  | 0xB004 => some 0 | 0xB005 => some 5 | 0xB006 => some 6 | 0xB007 => some 1 | 0xC001 => some 0 | 0xC002 => some 1
  | 0xC003 => some 6 | 0xC004 => some 5 | 0xC005 => some 3 | 0xC006 => some 1 | 0xC007 => some 1 | 0xC008 => some 3
  | 0xC00F => some 0 | 0xD001 => some 0 | 0xD002 => some 5 | 0xD003 => some 1 | 0xD004 => some 1 | 0xD005 => some 3
  | 0xD006 => some 1 | _ => none

/-- The aggregable codes. -/
def codeAgg (c : Nat) : Bool :=
  [0x1001, 0x1003, 0x2001, 0x2002, 0x2003, 0x2005, 0x3001, 0x3002, 0x4001, 0x5005, 0x5006, 0x5007, 0x6003, 0x7002, 0x7007,
    0x8001, 0x8002, 0x9001, 0xA001, 0xA002, 0xB003, 0xB004].contains c

/-- The counting class of a code, and whether one report charges COUNT errors. -/
def codeClass (c : Nat) : Option (Nat × Bool) :=
  match c with
  | 0x2001 => some (3, false)
  | 0x2002 => some (4, false)
  | 0x2003 => some (2, false)
  | 0x3001 => some (1, false)
  | 0x3002 => some (1, true)
  | 0x5003 => some (7, false)
  | 0x7005 => some (5, false)
  | 0xA002 => some (1, true)
  | _ => none

/-- The codes whose first payload word is an address, and those where it is a register's value (R447). -/
def codeAddr (c : Nat) : Bool := [0x1003, 0x2001, 0x2002, 0x2005, 0x3001, 0x3002, 0x5005, 0x5006, 0x5007, 0xA002].contains c
def codeReg (c : Nat) : Bool := [0x2006, 0x6001].contains c

/-! ## Subjects and witnesses (R424, R433) -/

/-- A subject's word. -/
def subjWord (s : State) : Subject → W64
  | .none => 0
  | .device => field 11 60 ||| field s.dev 0
  | .peer n => field 11 60 ||| field n 0
  | .partition p => field 10 60 ||| flagBit true 59 ||| field p 54
  | .context c => field 1 60 ||| field c 0 ||| (if owned s c then flagBit true 59 ||| field (partOf s c) 54 else 0)
  | .core k => field 2 60 ||| field k 0
  | .cluster c => field 3 60 ||| field c 0
  | .cacheWay u kind way =>
    field 5 60 ||| field (if kind = 2 then u else u / 16) 11 ||| field (if kind = 2 then 0 else u % 16) 7 |||
      field kind 4 ||| field way 0
  | .dramRow n => field 4 60 ||| field n 0
  | .stack n => field 12 60 ||| field n 0
  | .engine n => field 9 60 ||| field n 0
  | .queue n =>
    field 8 60 ||| field n 0 |||
      (let q := getQ s (n % 65536)
       if n / 65536 = s.dev ∧ q.owned = true then flagBit true 59 ||| field q.owner 54 else 0)
  | .port n => field 7 60 ||| field n 0
  | .lane n => field 6 60 ||| field n 0

/-- The partition that a subject word names. -/
def subjPart (w : W64) : Option Nat := if bit w 59 then some (bits w 58 54) else none

/-- The witness of a report (R433): as its unit gave it, or as its code and subject fix it. -/
def witnessOf (s : State) (r : Report) : W64 :=
  match r.wit with
  | some w => subjWord s w
  | none =>
    match r.subj with
    | .context c => subjWord s (.core (coreOf c))
    | .core k => subjWord s (.core k)
    | .cacheWay u kind _ => subjWord s (if kind = 2 then .cluster u else .core u)
    | .cluster c => subjWord s (.cluster c)
    | .partition p => subjWord s (match collCluster s p with | some c => .cluster c | none => .device)
    | .port p => subjWord s (.peer (getPort s p).peerDev)
    | _ => subjWord s .device

/-! ## Records (R421 to R426) -/

/-- One byte of a reflected CRC-32C. -/
def crc32cByte (c : Nat) (b : BitVec 8) : Nat :=
  (List.range 8).foldl (fun c _ => if c % 2 = 1 then Nat.xor (c / 2) 0x82F63B78 else c / 2) (Nat.xor c b.toNat)

/-- CRC-32C with initial value and final XOR 0xFFFF_FFFF. -/
def crc32c (bs : List (BitVec 8)) : Nat := Nat.xor (bs.foldl crc32cByte 0xFFFFFFFF) 0xFFFFFFFF

/-- A record on its way to the ring or the bank: code, severity, flags, and its words between the header and the trailer. -/
structure Rec where
  code : Nat
  sev : Nat
  agg : Bool := false
  supp : Bool := false
  body : List Word
deriving DecidableEq, Repr

/-- A record of LENGTH 4 or more. -/
def mkRec (code sev time : Nat) (subj : W64) (pay : List Word) (agg supp : Bool := false) : Rec :=
  { code, sev, agg, supp, body := Word.fixN time :: ⟨tagRAW, subj⟩ :: pay }

/-- The header of a record (R422). -/
def recHeader (r : Rec) (seq : Nat) (fb : Bool) : Word :=
  ⟨tagRAW, field r.code 48 ||| field (r.body.length + 2) 40 ||| field r.sev 36 ||| flagBit r.agg 35 ||| flagBit r.supp 34 |||
    flagBit fb 33 ||| flagBit true 32 ||| field seq 0⟩

/-- The words of a record (R422, R423, R426). -/
def recWords (r : Rec) (seq : Nat) (fb crcv : Bool) : List Word :=
  let pre := recHeader r seq fb :: r.body
  let low : W64 := field (seq % 65536) 0 ||| flagBit crcv 16
  let crc := if crcv then crc32c ((pre ++ [(⟨tagRAW, low⟩ : Word)]).flatMap wordBytes) else 0
  pre ++ [⟨tagRAW, low ||| field crc 32⟩]

def putSlot (t : Tab Word) (base : Nat) (ws : List Word) : Tab Word :=
  ((List.range ws.length).zip ws).foldl (fun t e => tput t (base + e.1) e.2) t

def modGlow (s : State) (f : Afterglow → Afterglow) : State := { s with glow := f s.glow }

/-- Entries of the fallback bank: 32 kept, 32 as a ring (R437). -/
def fbIndex (n : Nat) : Nat := if n < 32 then n else 32 + (n - 32) % 32

/-- A record put into the bank under a sequence number. -/
def putBank (s : State) (r : Rec) (seq : Nat) : State :=
  let ws := recWords r seq true false
  let s1 := modGlow s fun g => { g with
    fb := putSlot g.fb (fbIndex g.fbCount * 32) ws, fbCount := g.fbCount + 1, alertFb := true }
  if shipping s1 then shipItem s1 { desc := itemDesc 7 s1.refl.current ws.length, words := ws } else s1

/-- The next sequence number taken. -/
def takeSeq (s : State) : Nat × State :=
  let n := s.glow.nextSeq
  (n, modGlow s fun g => { g with nextSeq := (n + 1) % 2 ^ 32 })

/-- Whether records go to the ring (R427). -/
def toRing (s : State) : Bool := s.glow.mode != 2 && !s.glow.ringFail

/-- Whether a record goes to the bank: every one while the ring is out of service, and some always (R437). -/
def toBank (s : State) (code : Nat) : Bool := !toRing s || code == 0x9002 || code == 0x9004 || code == 0xC004

/-- A record written under one sequence number, to the ring or to the bank by the mode (R427, R437); severity ERROR or FATAL
raises ALERT_SEV (R438). -/
def writeOne (s : State) (r : Rec) : State :=
  let (seq, s1) := takeSeq s
  let service := s.glow.mode == 1
  let s2 := if r.sev ≥ 5 then modGlow s1 fun g => { g with alertSev := true } else s1
  let s3 := if toRing s
    then modGlow s2 fun g => { g with ring := putSlot g.ring (seq % 16384 * 32) (recWords r seq false service) } else s2
  let s4 := if toBank s r.code then putBank s3 r seq else s3
  match toRing s, (r.body[1]?).bind fun w => subjPart w.pay with
  | true, some p =>
    if (getPart s4 p).mirrored && shipping s4 then
      let ws := recWords r seq false service
      shipItem s4 { desc := itemDesc 7 s4.refl.current ws.length, words := ws }
    else s4
  | _, _ => s4

/-- A record written, and after a wrap the record SEQ_WRAP of sequence 0 (R436). -/
def writeNext (s : State) (r : Rec) : State :=
  let s1 := writeOne s r
  if s.glow.nextSeq = 0xFFFFFFFF then writeOne s1 { code := 0xC00F, sev := 0, body := [] } else s1

/-- A record written; before the first that would overwrite entry 32 of the bank, FALLBACK_FULL (R437). -/
def writeRec (s : State) (r : Rec) : State :=
  let s1 := if toBank s r.code && s.glow.fbCount == 64 then writeNext s (mkRec 0xC004 5 s.time 0 []) else s
  withAlert s (writeNext s1 r)

/-! ## The rate limit (R431, R432) -/

/-- RATE and BURST of a code: the last RATELIM record that covers it (R361). -/
def rateOf (s : State) (code : Nat) : Nat × Nat :=
  s.img.rates.foldl (fun a r => if Nat.land code r.mask = Nat.land r.code r.mask then (r.rate, r.burst) else a) (1000, 64)

/-- A code's bucket now, in thousand-millionths of a token; at RATE 0 it lets no record through (R361). -/
def bucketLevel (s : State) (code : Nat) : Nat :=
  let (rate, burst) := rateOf s code
  if rate = 0 then 0
  else match s.glow.buckets.find? fun e => e.1 == code with
  | some (_, b) => min (burst * 10 ^ 9) (b.level + rate * (s.time - b.time))
  | none => burst * 10 ^ 9

/-- The SUPP record of a code, which takes no token (R432). -/
def writeSupp (s : State) (code : Nat) : State :=
  match s.glow.supps.find? fun e => e.1 == code with
  | none => s
  | some (_, x) =>
    writeRec (modGlow s fun g => { g with supps := tdel g.supps code })
      (mkRec code x.sev s.time x.subj [Word.fixN x.count, Word.fixN x.firstT, Word.fixN x.lastT] false true)

/-- A record that passes the rate limit, after its code's SUPP record, or is suppressed and counted. -/
def limited (s : State) (r : Rec) (time : Nat) (subj : W64) : State :=
  let level := bucketLevel s r.code
  if 10 ^ 9 ≤ level then
    let s1 := modGlow s fun g => { g with buckets := tput g.buckets r.code { level := level - 10 ^ 9, time := s.time } }
    writeRec (writeSupp s1 r.code) r
  else
    modGlow s fun g =>
      let b : Tab Bucket := tput g.buckets r.code { level, time := s.time }
      let x : Supp := match g.supps.find? fun e => e.1 == r.code with
        | some (_, x) => { x with sev := max x.sev r.sev, subj, count := x.count + 1, lastT := time }
        | none => { due := s.time + 10 ^ 9, sev := r.sev, subj, count := 1, firstT := time, lastT := time }
      { g with buckets := b, supps := tput g.supps r.code x }

/-! ## Aggregation (R433, R434) -/

def aggSpan : Nat := 10000000

/-- The record that closes an entry of more than one witness. -/
def aggRec (a : AggEnt) : Rec :=
  mkRec a.code ((codeSev a.code).getD 0) a.open' a.subj
    [Word.fixN a.count, ⟨tagRAW, a.first⟩, Word.fixN a.open', ⟨tagRAW, a.last⟩, Word.fixN a.lastT] true false

/-- An aggregation entry closed; `token` for a close that passes the rate limit. -/
def closeAgg (s : State) (ix : Nat) (token : Bool) : State :=
  match s.glow.agg.find? fun e => e.1 == ix with
  | none => s
  | some (_, a) =>
    let s1 := modGlow s fun g => { g with agg := tdel g.agg ix }
    if a.count ≤ 1 then s1
    else if token then limited s1 (aggRec a) a.open' a.subj else writeRec s1 (aggRec a)

/-- A report offered to its aggregation entry: whether it is absorbed. -/
def aggregate (s : State) (code : Nat) (subj wit : W64) (t : Nat) : Bool × State :=
  let s1 := match s.glow.agg.find? fun e => e.2.code == code && e.2.subj == subj && decide (e.2.open' + aggSpan ≤ t) with
    | some (ix, _) => closeAgg s ix true
    | none => s
  match s1.glow.agg.find? fun e => e.2.code == code && e.2.subj == subj with
  | some (ix, a) =>
    (true, modGlow s1 fun g => { g with agg := tput g.agg ix { a with count := a.count + 1, last := wit, lastT := t } })
  | none =>
    match (List.range 256).find? fun i => !thas s1.glow.agg i with
    | some i =>
      (false, modGlow s1 fun g => { g with agg := tput g.agg i { code, subj, open' := t, count := 1, first := wit, last := wit, lastT := t } })
    | none => (false, modGlow s1 fun g => { g with aggFull := min 0xFFF (g.aggFull + 1) })

/-! ## Retirement (R224, R325, R440, R441) -/

def modLife (s : State) (f : Lifetime → Lifetime) : State := { s with life := f s.life }

/-- Doorbell bit 49 of each partition that maps part of a cluster's scratchpad window (R224, R307). -/
def ringScratch (s : State) (cl : Nat) : State :=
  let base := 0x800000000 + cl * 0x40000
  ((s.parts.filter fun e => e.2.grants.any fun g => decide (g.1 < base + 0x40000) && decide (base < g.1 + g.2)).map Prod.fst).foldl
    (fun s p => ringDoorbell s p 49) s

/-- The words of a scratchpad way lost. -/
def loseScratch (s : State) (cl way : Nat) : State := ringScratch (clearScratch s cl (15 - way) (16 - way)) cl

/-- A locked way returned to the candidates, or else the lowest scratchpad way, while too few ordinary ways are left. -/
def giveBackWay (s : State) (cl : Nat) : State :=
  let k := getCluster s cl
  if enoughWays k then s
  else match (List.range 16).find? fun w => isLockedWay k w && !isDisWay k w with
    | some w => modCluster (flushWay s cl w) cl fun k => { k with lockMask := Nat.land k.lockMask (255 - 2 ^ (w - 8)) }
    | none =>
      match (List.range 16).find? fun w => isSpWay k w && !isDisWay k w with
      | some w => modCluster (loseScratch s cl w) cl fun k => { k with spWays := 15 - w }
      | none => s

/-- A cache way retired: cleaned, invalidated and never used again. -/
def retireWay (s : State) (unit kind way : Nat) : State :=
  match kind with
  | 2 =>
    let k := getCluster s unit
    let s1 := if isSpWay k way then loseScratch s unit way else flushWay s unit way
    let s2 := modCluster s1 unit fun k => { k with disWays := Nat.lor k.disWays (2 ^ way) }
    modLife (giveBackWay s2 unit) fun l => { l with l2Ways := tput l.l2Ways unit (Nat.lor (tget 0 l.l2Ways unit) (2 ^ way)) }
  | 1 =>
    let lines := ((getCore s unit).l1d.filter fun e => e.1 % 8 == way).flatMap fun e => e.2.subs.map fun b => e.2.tag * 4 + b.1
    let s1 := lines.foldl (fun s l => flushLine s l) s
    let s2 := modCore s1 unit fun k => { k with
      l1d := k.l1d.filter fun e => e.1 % 8 != way, wayDisD := Nat.lor k.wayDisD (2 ^ way) }
    modLife s2 fun l => { l with coreWays := tput l.coreWays unit (Nat.lor (tget 0 l.coreWays unit) (2 ^ way)) }
  | _ =>
    let s1 := modCore s unit fun k => { k with
      l1i := k.l1i.filter fun e => e.1 % 4 != way, wayDisI := Nat.lor k.wayDisI (2 ^ way) }
    modLife s1 fun l => { l with coreWays := tput l.coreWays unit (Nat.lor (tget 0 l.coreWays unit) (2 ^ (8 + way))) }

/-- A lasting resource retired; each retirement is followed by a lifetime page write (R440). DESIGN CHOICE (log entry 49): with 64 rows that
await hard repair, as many as the lifetime page holds, a further row finds no resource left (R441, R444). -/
def retire (s : State) (cls : Nat) (subj : W64) : State :=
  let id := bits subj 39 0
  let save (s : State) : State := modLife s fun l => { l with saveDue := true }
  match cls with
  | 1 =>
    let st := id / 2 ^ 37
    let (left, s1) := drawBool s
    if left && decide (s.life.pendRows.length < 64) then
      let n := tget 0 s1.life.rowsSpared st + 1
      save (report (modLife s1 fun l => { l with rowsSpared := tput l.rowsSpared st n, pendRows := l.pendRows ++ [id] })
        0x3004 (.dramRow id) [BitVec.ofNat 64 n])
    else report s1 0x3005 (.dramRow id)
  | 2 | 3 | 4 =>
    let kind := id / 16 % 4
    let unit := if kind = 2 then id / 2048 % 32 else id / 128 % 512
    save (report (retireWay s unit kind (id % 16)) 0x2004 (.cacheWay unit kind (id % 16)) [BitVec.ofNat 64 cls])
  | 5 => save (retireLane s (id / 4 % 16) (id % 4))
  | 7 =>
    let cl := id / 2 % 32
    let s1 := modEngine s cl (id % 2) fun e => { e with retired := true }
    save (report (modLife s1 fun l => { l with engines := Nat.lor l.engines (2 ^ (id % 64)) }) 0x5004 (.engine (id % 64)))
  | _ => s

/-! ## Penumbra (R439) -/

/-- `L2STAT`.PENWAYS of every cluster: its L2 ways in Penumbra (R224, R237). -/
def refreshPen (s : State) : State :=
  let ways (c : Nat) : Nat := s.glow.pen.foldl (fun m e =>
    if 2 ≤ e.2.cls ∧ e.2.cls ≤ 4 ∧ bits e.2.subj 5 4 = 2 ∧ bits e.2.subj 15 11 = c then Nat.lor m (2 ^ bits e.2.subj 3 0) else m) 0
  { s with clusters := s.clusters.map fun e => (e.1, { e.2 with penWays := ways e.1 }) }

def setPen (s : State) (f : Tab PenEnt → Tab PenEnt) : State := refreshPen (modGlow s fun g => { g with pen := f g.pen })

/-- The entry that a new resource takes from a full table: the lowest count, then the oldest window. -/
def penVictim (t : Tab PenEnt) : Option (Nat × PenEnt) :=
  t.foldl (fun a e => match a with
    | none => some e
    | some b => if e.2.count < b.2.count ∨ (e.2.count = b.2.count ∧ e.2.start < b.2.start) then some e else a) none

/-- One report charged to its resource. -/
def charge (s : State) (cls : Nat) (full : Bool) (subj : W64) (t : Nat) : State :=
  let (count, window) := threshOf s cls
  let n := if full then count else 1
  let live (e : Nat × PenEnt) : Bool := e.2.cls == cls && e.2.subj == subj && decide (t < e.2.start + window)
  let stale (e : Nat × PenEnt) : Bool := e.2.cls == cls && e.2.subj == subj && decide (e.2.start + window ≤ t)
  let s1 := if s.glow.pen.any stale then setPen s fun p => p.filter fun e => !stale e else s
  match s1.glow.pen.find? live with
  | some (i, e) =>
    if count ≤ e.count + n then retire (setPen s1 fun p => tdel p i) cls subj
    else setPen s1 fun p => tput p i { e with count := e.count + n }
  | none =>
    if count ≤ n then retire s1 cls subj
    else
      let ent : PenEnt := { cls, subj, count := n, start := t }
      match (List.range 2048).find? fun i => !thas s1.glow.pen i with
      | some i => setPen s1 fun p => tput p i ent
      | none =>
        match penVictim s1.glow.pen with
        | none => s1
        | some (i, v) =>
          let s2 := setPen (modGlow s1 fun g => { g with penEvict := min 0xFFF (g.penEvict + 1) }) fun p => tput p i ent
          limited s2 (mkRec 0xC006 1 s2.time v.subj [Word.fixN v.cls, Word.fixN v.count]) s2.time v.subj

/-! ## The stages of a report (R428) -/

/-- The sealed partition that a report concerns: the one that its subject names, that holds the address it gives, or that owns its cluster
(R388). -/
def sealedOf (s : State) (r : Report) : Option Nat :=
  let hidden (p : Nat) : Option Nat := if (getPart s p).sealed then some p else none
  match subjPart (subjWord s r.subj) with
  | some p => hidden p
  | none =>
    let a := ((r.pay[0]?).getD 0).toNat % 2 ^ 36
    let byAddr := s.parts.find? fun e => e.2.sealed && e.2.grants.any fun g => decide (g.1 ≤ a) && decide (a < g.1 + g.2)
    match r.subj with
    | .cluster c => if codeAddr r.code then byAddr.map Prod.fst else ((s.owner.find? fun e => e.1 / 512 == c).map Prod.snd).bind hidden
    | _ => if codeAddr r.code then byAddr.map Prod.fst else none

/-- A report's subject and payload as its record shows them: that of a sealed partition carries the partition's number, and FIX 0 where an
address or a register's value would stand (R388). -/
def shownOf (s : State) (r : Report) : W64 × List W64 :=
  let subj := subjWord s r.subj
  match sealedOf s r with
  | none => (subj, r.pay)
  | some p =>
    (if bit subj 59 then subj else subj ||| flagBit true 59 ||| field p 54,
      if codeAddr r.code || codeReg r.code then (r.pay.take 1).map (fun _ => 0) ++ r.pay.drop 1 else r.pay)

/-- A report through aggregation, counting, the rate limit and the writer. -/
def recordReport (s : State) (r : Report) : State :=
  match codeSev r.code with
  | none => s
  | some sev =>
    let shown := shownOf s r
    let subj := shown.1
    let pay := shown.2.map Word.fix
    let wit := witnessOf s r
    let (absorbed, s1) := if codeAgg r.code then aggregate s r.code subj wit r.time else (false, s)
    if absorbed then s1
    else
      let s2 := match codeClass r.code with
        | some (cls, full) => charge s1 cls full (subjWord s r.subj) r.time
        | none => s1
      limited s2 (mkRec r.code sev r.time subj (if codeAgg r.code then ⟨tagRAW, wit⟩ :: pay else pay)) r.time subj

/-- The REPORTS_LOST record once room returns (R428). -/
def tellLost (s : State) : State :=
  if s.glow.lostNow = 0 then s
  else
    let n := s.glow.lostNow
    limited (modGlow s fun g => { g with lostNow := 0 }) (mkRec 0xC008 3 s.time 0 [Word.fixN n]) s.time 0

/-! ## Ring failure (R435) -/

/-- The ring fails at a word: RING_FAILED to the bank, FALLBACK, and the alert. -/
def ringFailed (s : State) (addr : Nat) : State :=
  if s.glow.ringFail then s
  else
    let s1 := modGlow s fun g => { g with ringFail := true, alertRing := true, mode := 2 }
    withAlert s (limited s1 (mkRec 0xC003 6 s1.time 0 [Word.fixN addr]) s1.time 0)

/-! ## Errors that a unit meets (R39 to R41, R57, R205, R222) -/

/-- The words of a line become POISON at a place. -/
def poisonMem (s : State) (source pa n : Nat) : State :=
  (List.range n).foldl (fun s i => writeWord s (pa + i) (poisonWord source (s.dev * 2 ^ 36 + pa + i))) s

/-- What an error report of the environment stands for: a line lost in DRAM, a failed MAC, a word lost in a cache, an engine
error, the regulator, a stack or a cluster that a boot stage finds bad, or a failed word of the ring. -/
def unitError (s : State) (r : Report) : State :=
  let pa := ((r.pay[0]?).getD 0).toNat % 2 ^ 36
  match r.code, r.subj with
  | 0x3002, _ => poisonMem s 0 (pa / 8 * 8) 8
  | 0xA002, _ => poisonMem s 4 (pa / 8 * 8) 8
  | 0x2002, .cacheWay u 1 _ =>
    let k := getCore s u
    match l1Slot? k (pa / 8), l1Sub? k (pa / 8) with
    | some i, some b => setCore s u (setL1Sub k i (pa / 8) { b with
        data := setWordOf b.data pa (poisonWord 2 (s.dev * 2 ^ 36 + pa)) })
    | _, _ => s
  | 0x2002, .cacheWay u 2 _ =>
    if !dramLine s (pa / 8) then poisonMem s 1 pa 1 else
    modCluster s u fun k => modL2Sub k (pa / 8) fun b =>
      { b with data := setWordOf b.data pa (poisonWord 1 (s.dev * 2 ^ 36 + pa)) }
  | 0x5003, .engine n => engineError s (n / 2) (n % 2)
  | 0x0002, .none => { s with power := { s.power with regulator := false } }
  | 0x0002, .stack _ | 0x0002, .cluster _ => { s with trust := { s.trust with bootBad := true } }
  | _, _ => s

/-- AFTERGLOW_REPORT (R428): a report of the environment arrives, with the loss that it reports; a correction of more symbols than the
line's code corrects is none (R40, R41). Or the recorder takes the
oldest report that it holds. -/
def afterglowReport (s : State) : Option Report → State
  | some r =>
    if r.code = 0xC003 then ringFailed s ((r.pay[0]?).getD 0).toNat
    else if (codeSev r.code).isNone then s
    else if r.code = 0x3001 ∧ correctable s (((r.pay[0]?).getD 0).toNat % 2 ^ 36 / 8) ((r.pay[1]?).getD 0).toNat = false then s
    else enterReport (unitError s r) { r with time := s.time }
  | none =>
    match s.reports with
    | [] => s
    | r :: rest => tellLost (recordReport { s with reports := rest } r)

def execAfterglowReport (r : Option Report) (s : State) : Host.Outcome State Fault Refusal := .next (afterglowReport s r)

/-- AGG_ENTRY_CLOSE (R433): an entry closes 10 ms after it opened. -/
def aggEntryClose (s : State) (ix : Nat) : State :=
  match s.glow.agg.find? fun e => e.1 == ix with
  | some (_, a) => if a.open' + aggSpan ≤ s.time then closeAgg s ix true else s
  | none => s

def execAggEntryClose (ix : Nat) (s : State) : Host.Outcome State Fault Refusal := .next (aggEntryClose s ix)

/-- SUPP_RECORD_TIMEOUT (R432): 1 s after the first suppression; `ix` is the code. -/
def suppTimeout (s : State) (code : Nat) : State :=
  match s.glow.supps.find? fun e => e.1 == code with
  | some (_, x) => if x.due ≤ s.time then writeSupp s code else s
  | none => s

def execSuppRecordTimeout (ix : Nat) (s : State) : Host.Outcome State Fault Refusal := .next (suppTimeout s ix)

/-! ## The drain (R430) -/

/-- Records between the drain's place and the next sequence number. -/
def drainBehind (s : State) : Nat := (s.glow.nextSeq + 2 ^ 32 - s.glow.drainSeq) % 2 ^ 32

/-- The drain moved past records that the ring has overwritten. -/
def drainGap (s : State) : State :=
  let b := drainBehind s
  if b ≤ 16384 then s
  else
    let n := b - 16384
    let s1 := modGlow s fun g => { g with
      drainSeq := (g.nextSeq + 2 ^ 32 - 16384) % 2 ^ 32, drainLost := min 0xFFFFFF (g.drainLost + n) }
    let subj := subjWord s1 (.queue s1.img.agq)
    limited s1 (mkRec 0xC005 3 s1.time subj [Word.fixN n]) s1.time subj

/-- The message of the next record written in SERVICE mode; the others are passed over. -/
def drainStep (s : State) : Nat → State
  | 0 => s
  | n + 1 =>
    if drainBehind s = 0 then s
    else
      let base := s.glow.drainSeq % 16384 * 32
      let h := tget Word.zero s.glow.ring base
      let len := bits h.pay 47 40
      let trailer := tget Word.zero s.glow.ring (base + len - 1)
      let ok := h.tag == tagRAW && bit h.pay 32 && bits h.pay 31 0 == s.glow.drainSeq && bit trailer.pay 16
      if !ok then drainStep (modGlow s fun g => { g with drainSeq := (g.drainSeq + 1) % 2 ^ 32 }) n
      else
        let w1 := if len < 3 then Word.zero else tget Word.zero s.glow.ring (base + 1)
        let w2 : Word := if len < 4 then ⟨tagRAW, 0⟩ else tget Word.zero s.glow.ring (base + 2)
        sendHw (modGlow s fun g => { g with drainSent := true, drainRetry := none }) (.drain s.glow.drainSeq)
          (getQ s (s.img.agq % 65536)).owner s.img.agq [h, w1, w2, Word.fixN (0xC00100000 + base)]

/-- AFTERGLOW_DRAIN (R430). -/
def afterglowDrain (s : State) : State :=
  if s.glow.mode ≠ 1 ∨ s.img.agen = false ∨ s.glow.drainSent ∨ s.glow.drainRetry.isSome then s
  else drainStep (drainGap s) 16384

def execAfterglowDrain (s : State) : Host.Outcome State Fault Refusal := .next (afterglowDrain s)

/-- AFTERGLOW_DRAIN_RETRY (R430): a refused message sent again 100 µs later. -/
def drainRetry (s : State) : State :=
  match s.glow.drainRetry with
  | some t =>
    if t ≤ s.time ∧ s.glow.mode = 1 ∧ s.img.agen = true then
      drainStep (drainGap (modGlow s fun g => { g with drainRetry := none, drainSent := false })) 16384
    else s
  | none => s

def execAfterglowDrainRetry (s : State) : Host.Outcome State Fault Refusal := .next (drainRetry s)

/-- RING_SCRUB (R435): the words read; the first with an uncorrectable error fails the ring. DESIGN CHOICE (log entry 49): R58 names no
source for the ring, and its POISON carries SOURCE 0x0 with the word's address in device control space. -/
def ringScrub (s : State) (bad : List Nat) : State :=
  match bad.filter fun i => decide (i < 0x80000) with
  | [] => s
  | i :: rest =>
    let lose (t : Tab Word) (j : Nat) : Tab Word := tput t j (poisonWord 0 (s.dev * 2 ^ 36 + 0xC00100000 + j))
    ringFailed (modGlow s fun g => { g with ring := (i :: rest).foldl lose g.ring, ringBad := i :: rest }) (0xC00100000 + i)

def execRingScrub (bad : List Nat) (s : State) : Host.Outcome State Fault Refusal := .next (ringScrub s bad)

/-- PENUMBRA_WINDOW_EXPIRY (R439): the window passes with the count below COUNT. -/
def penExpiry (s : State) (ix : Nat) : State :=
  match s.glow.pen.find? fun e => e.1 == ix with
  | some (_, e) => if e.start + (threshOf s e.cls).2 ≤ s.time then setPen s fun p => tdel p ix else s
  | none => s

def execPenumbraWindowExpiry (ix : Nat) (s : State) : Host.Outcome State Fault Refusal := .next (penExpiry s ix)

/-! ## `AGCMD` (R437, R448) -/

/-- Every aggregation entry closed in turn. -/
def closeAll (s : State) (token : Bool) : State := (s.glow.agg.map Prod.fst).foldl (fun s i => closeAgg s i token) s

def agClearFb (s : State) : State := modGlow s fun g => { g with fb := [], fbCount := 0 }
def execAgcmdClearFb (s : State) : Host.Outcome State Fault Refusal := .next (agClearFb s)
def execAgcmdFlushAgg (s : State) : Host.Outcome State Fault Refusal := .next (closeAll s true)

/-- A write of `AGCMD`: a reserved value is discarded and recorded. -/
def agcmdWrite (s : State) (v : W64) : State :=
  match bits v 3 0 with
  | 0 => s
  | 1 => agClearFb s
  | 2 => closeAll s true
  | n => report s 0xC007 .none [BitVec.ofNat 64 n]

/-- R506: at the start of a reset with VAON present every entry and count is written out, no record taking a token. -/
def flushAfterglow (s : State) : State :=
  let s1 := modGlow s fun g => { g with mode := if g.ringFail then 2 else 0 }
  let s2 := closeAll s1 false
  (s2.glow.supps.map Prod.fst).foldl writeSupp s2

/-- `AGSTAT`, `AGDRAIN`, `AGCOUNT` and `PENCNT` (R448). -/
def agstatReg (s : State) : W64 :=
  field s.glow.nextSeq 32 ||| field s.glow.mode 26 ||| field (min 64 s.glow.fbCount) 12 ||| flagBit s.glow.ringFail 7 |||
    flagBit s.glow.alertFb 2 ||| flagBit s.glow.alertSev 1 ||| flagBit s.glow.alertRing 0
def agdrainReg (s : State) : W64 := field s.glow.drainSeq 32 ||| field s.glow.refused 16 ||| flagBit s.img.agen 0
def agcountReg (s : State) : W64 :=
  field s.glow.drainLost 40 ||| field s.glow.repLost 24 ||| field s.glow.aggFull 12 ||| field s.glow.penEvict 0
def pencntReg (s : State) : W64 := field s.glow.pen.length 0

/-- Word n of the Penumbra window (R439). -/
def penWord (s : State) (n : Nat) : Word :=
  match s.glow.pen.find? fun e => e.1 == n / 2 with
  | none => ⟨tagRAW, 0⟩
  | some (_, e) =>
    if n % 2 = 0 then ⟨tagRAW, e.subj⟩
    else ⟨tagRAW, field e.cls 56 ||| field (min 0xFFFF e.count) 40 ||| field (e.start / 1000000 % 2 ^ 40) 0⟩

end Sys2Proof.Machine
end

