-- ==== Sys2Proof/Machine/Image.lean ====
section
/-!
DEFINITION. The Garaux configuration image (R348 to R365): its layout, and the validation in the order of R363 with the
reasons of R364.
-/

namespace Sys2Proof.Machine
open Sys2Proof

/-! ## Bytes -/

/-- A byte of the flash; an unlisted byte is erased (R485). -/
def flashByte (s : State) (off : Nat) : Nat := tget 0xFF s.flash.bytes off

/-- A little-endian number of n bytes. -/
def rdLE (f : Nat → Nat) (off n : Nat) : Nat := (List.range n).foldr (fun i a => a * 256 + f (off + i) % 256) 0

/-- Bytes as a list. -/
def rdBytes (f : Nat → Nat) (off n : Nat) : List (BitVec 8) := (List.range n).map fun i => BitVec.ofNat 8 (f (off + i))

/-- Word k of record r of a section. -/
def rdWord (f : Nat → Nat) (off size r k : Nat) : W64 := BitVec.ofNat 64 (rdLE f (off + r * size + 8 * k) 8)

/-- A rejection (R363): reason, directory index and record index. -/
structure ImgErr where
  reason : Nat
  sect : Nat := 0
  rec' : Nat := 0
deriving DecidableEq, Repr

abbrev ImgM (α : Type) := Except ImgErr α

def need (ok : Bool) (reason : Nat) (sect : Nat := 0) (r : Nat := 0) : ImgM Unit :=
  if ok then .ok () else .error { reason, sect, rec' := r }

/-! ## Header and directory (R348 to R350) -/

/-- A directory entry. -/
structure Sect where
  code : Nat
  inst : Nat
  off : Nat
  len : Nat
  count : Nat
  ix : Nat
deriving DecidableEq, Repr

/-- The bytes of a record of a section code. -/
def recSize (code : Nat) : Option Nat :=
  match code with
  | 0x01 => some 24
  | 0x02 => some 8
  | 0x03 => some 16
  | 0x04 => some 8
  | 0x05 => some 40
  | 0x06 => some 8
  | 0x07 => some 8
  | 0x08 => some 16
  | 0x09 => some 24
  | 0x0A => some 8
  | 0x0B => some 8
  | c => if 0xF0 ≤ c ∧ c ≤ 0xFF then some 1 else none

/-- Whether an INSTANCE is one that its code takes; a CACHE record for a cluster that the part lacks is ABSENT (R364). -/
def instOk (code inst : Nat) : Bool :=
  match code with
  | 0x02 | 0x03 | 0x05 | 0x07 => decide (inst < 32)
  | 0x01 | 0x06 | 0x08 | 0x09 | 0x0A | 0x0B => inst == 0
  | _ => true

/-- The header fields (step 1 of R363); the key is an uncompressed point, and TOTAL_LEN the end of the last section (R348), one that lies
beyond it being for step 4. -/
def headerOk (f : Nat → Nat) : Bool :=
  let n := rdLE f 0x16 2
  let total := rdLE f 0x18 4
  rdLE f 0 4 == 0x58415247 && rdLE f 4 2 == 1 && rdLE f 6 2 == 0 && decide (rdLE f 0x14 2 < 8) && decide (1 ≤ n) &&
    decide (n ≤ 512) && total % 8 == 0 && decide (0xA8 + 16 * n ≤ total) && rdLE f 0x1C 4 == 0 && rdLE f 0xA5 3 == 0 &&
    rdLE f 0x20 1 == 4 && decide (total ≤ rdLE f (0xA8 + 16 * (n - 1) + 4) 4 + rdLE f (0xA8 + 16 * (n - 1) + 8) 4)

/-- One directory entry, after those before it (R349). -/
def readSect (f : Nat → Nat) (total : Nat) (seen : List Sect) (i : Nat) : ImgM Sect := do
  let a := 0xA8 + 16 * i
  let x : Sect := { code := rdLE f a 1, inst := rdLE f (a + 2) 2, off := rdLE f (a + 4) 4, len := rdLE f (a + 8) 4
                    count := rdLE f (a + 12) 4, ix := i }
  let prev := match seen.getLast? with
    | some y => y.off + y.len
    | none => 0xA8 + 16 * rdLE f 0x16 2
  match recSize x.code with
  | none => .error { reason := 6, sect := i }
  | some size =>
    need (rdLE f (a + 1) 1 == 0) 8 i
    need (instOk x.code x.inst) 9 i
    need (x.off % 8 == 0 && decide (prev ≤ x.off) && decide (x.off + x.len ≤ total) && x.len == x.count * size) 5 i
    need ((x.code != 1 && x.code != 4 && x.code != 8 && x.code != 9) || x.count == 1) 5 i
    need (0xF0 ≤ x.code || !(seen.any fun y => y.code == x.code && y.inst == x.inst)) 7 i
    .ok x

def readDir (f : Nat → Nat) (total : Nat) : List Nat → List Sect → ImgM (List Sect)
  | [], acc => .ok acc
  | i :: is, acc => do
    let x ← readSect f total acc i
    readDir f total is (acc ++ [x])

/-! ## The contexts of a grant (R352) -/

/-- The contexts that a context-grant word names. -/
def grantCtxs (w : W64) : List Nat :=
  let cl := bits w 63 59
  ((List.range 16).filter fun k => bit w (43 + k)).flatMap fun k =>
    ((List.range 32).filter fun x => bit w (11 + x)).map fun x => cl * 512 + k * 32 + x

def ImgPart.ctxList (p : ImgPart) : List Nat := p.ctxs.flatMap grantCtxs

/-! ## TDT entries (R61 to R65, R354) -/

/-- The class that a tag's range admits beside UNASSIGNED (R42). -/
def rangeClass (t : Nat) : Nat := if t < 0x40 then 1 else if t < 0x80 then 2 else 3

/-- The class of a tag in the TDT as the image sets it. -/
def tabClass (t : Tab W64) (tag : Nat) : Nat := tdtClass (tget (fixedTdt tag) t tag)

/-- R63: the fields of a configurable entry agree with its class. -/
def entryAgrees (t : Tab W64) (tag : Nat) (e : W64) : Bool :=
  let cls := tdtClass e
  let scan := tdtScan e
  let size := tdtSizeSrc e
  let fixed := tdtFixedSize e
  let hdr := (tdtHdrTag e).toNat
  let init := (tdtInitTag e).toNat
  let softArith := tdtArith e == 0 || tdtArith e == 5
  let initOk := tabClass t init == 1
  (cls == 0 || cls == rangeClass tag) &&
    match cls with
    | 0 => bits e 63 4 == 0
    | 1 => scan == 0 && decide (tdtEqual e < 2) && tdtBarrier e == 0 && size == 0 && softArith && hdr == 0 && init == 0 && fixed == 0
    | 2 =>
      tdtEqual e == 2 && decide (tdtBarrier e < 3) && softArith &&
        ((size == 2 && scan == 0 && tabClass t hdr == 3 && init == 0 && fixed == 0) ||
          (size == 1 && decide (scan < 2) && hdr == 0 && initOk && (fixed == 2 || fixed == 4 || fixed == 8)))
    | 3 =>
      decide (scan < 4) && tdtEqual e == 0 && tdtBarrier e == 0 && tdtArith e == 0 && hdr == 0 && initOk &&
        ((size == 1 && decide (1 ≤ fixed)) || ((size == 3 || size == 4) && fixed == 0))
    | _ => false

/-- The value of a TDT record for a tag (R354). -/
def entryOk (t : Tab W64) (tag : Nat) (e : W64) : Bool :=
  bits e 47 40 == 0 && bits e 23 19 == 0 && !bit e 15 && !bit e 7 &&
    (if (0x40 ≤ tag ∧ tag ≤ 0x47) ∨ (0x80 ≤ tag ∧ tag ≤ 0x87) then setBits e 3 3 0 == fixedTdt tag
     else tdtConfigurable tag && entryAgrees t tag e)

/-! ## Sections (step 5 of R363) -/

/-- The sections written into the image as they are read, record by record. -/
def readDevice (t : Part) (f : Nat → Nat) (x : Sect) (m : Image) : ImgM Image := do
  let w (k : Nat) : W64 := rdWord f x.off 24 0 k
  need (bits (w 0) 63 40 == 0 && bits (w 0) 7 5 == 0 && bits (w 1) 63 21 == 0 && bits (w 2) 63 4 == 0) 8 x.ix
  need (decide (bits (w 2) 3 0 < t.mesh)) 9 x.ix
  .ok { m with
    portmask := bits (w 0) 23 8, lrmask := bits (w 0) 39 24, anyslot := bit (w 0) 4, slot := bits (w 0) 3 0
    agen := bit (w 1) 20, agq := bits (w 1) 19 0, mesh := bits (w 2) 3 0 }

/-- A partition of the image changed, or added in number order of appearance. -/
def setImgPart (m : Image) (n : Nat) (g : ImgPart → ImgPart) : Image :=
  if m.parts.any fun p => p.num == n then { m with parts := m.parts.map fun p => if p.num == n then g p else p }
  else { m with parts := m.parts ++ [g { num := n }] }

def sectBytes (f : Nat → Nat) (x : Sect) : List (BitVec 8) := rdBytes f x.off x.len

def readPartition (f : Nat → Nat) (x : Sect) (m : Image) : ImgM Image := do
  let w (k : Nat) : W64 := rdWord f x.off 8 k 0
  need (decide (6 ≤ x.count)) 9 x.ix
  need (bits (w 0) 63 5 == 0 && !bit (w 0) 1) 8 x.ix 0
  need (bits (w 1) 63 48 == 0) 8 x.ix 1
  need (!bit (w 2) 0) 9 x.ix 2
  need (bits (w 3) 51 40 == 0) 8 x.ix 3
  need (bits (w 3) 7 0 == 0) 9 x.ix 3
  need (bits (w 4) 63 48 == 0 && bits (w 4) 15 14 == 0) 8 x.ix 4
  let nmg := bits (w 4) 47 32
  let ncg := bits (w 4) 31 16
  need (decide (nmg ≤ 256) && decide (1 ≤ ncg) && decide (ncg ≤ 512) && x.count == 6 + ncg + 2 * nmg) 9 x.ix 4
  need (bits (w 5) 63 32 == 0) 8 x.ix 5
  (List.range ncg).forM fun i => need (bits (w (6 + i)) 10 0 == 0) 8 x.ix (6 + i)
  (List.range nmg).forM fun i => do
    let a := 6 + ncg + 2 * i
    need (bits (w a) 61 36 == 0) 8 x.ix a
    need (decide (bits (w a) 63 62 < 2) && bits (w a) 9 0 == 0) 9 x.ix a
    need (bits (w (a + 1)) 63 36 == 0) 8 x.ix (a + 1)
    need (bits (w (a + 1)) 35 0 != 0 && bits (w (a + 1)) 9 0 == 0) 9 x.ix (a + 1)
  .ok (setImgPart m x.inst fun p => { p with
    dchk := bit (w 0) 4, rimode := bit (w 0) 3, devacc := bit (w 0) 2, sealed := bit (w 0) 0
    evec := field (bits (w 1) 47 0) 0, gt := w 2, tbase := w 3
    bootctx := bits (w 4) 13 0, mqbounce := bits (w 5) 31 16, pdbq := bits (w 5) 15 0
    ctxs := (List.range ncg).map fun i => w (6 + i)
    grants := (List.range nmg).map fun i =>
      (bits (w (6 + ncg + 2 * i)) 63 62, bits (w (6 + ncg + 2 * i)) 35 0, bits (w (6 + ncg + 2 * i + 1)) 35 0) })

def readTdt (f : Nat → Nat) (x : Sect) (m : Image) : ImgM Image := do
  let recs := (List.range x.count).map fun r => (rdWord f x.off 16 r 0, rdWord f x.off 16 r 1)
  let tab : Tab W64 := recs.foldl (fun t e => tput t (bits e.1 7 0) e.2) []
  ((List.range x.count).zip recs).forM fun e => do
    need (bits e.2.1 63 8 == 0) 8 x.ix e.1
    need (entryOk tab (bits e.2.1 7 0) e.2.2) 10 x.ix e.1
    need (!((recs.take e.1).any fun y => bits y.1 7 0 == bits e.2.1 7 0)) 10 x.ix e.1
  .ok (setImgPart m x.inst fun p => { p with tdt := tab })

def readCache (f : Nat → Nat) (x : Sect) (m : Image) : ImgM Image := do
  let v := rdWord f x.off 8 0 0
  need (bits v 63 20 == 0 && bits v 18 16 == 0 && bits v 7 3 == 0) 8 x.ix
  need (decide (bits v 2 0 ≤ 4)) 9 x.ix
  need (!((List.range 8).any fun i => bit v (8 + i) && decide (16 - bits v 2 0 ≤ 8 + i))) 14 x.ix
  .ok { m with cache := tput m.cache x.inst v }

def readQueues (f : Nat → Nat) (x : Sect) (m : Image) : ImgM Image := do
  let w (r k : Nat) : W64 := rdWord f x.off 40 r k
  (List.range x.count).forM fun r => do
    need (bits (w r 0) 63 17 == 0 && bits (w r 1) 63 58 == 0 && bits (w r 1) 51 40 == 0 && bits (w r 2) 60 48 == 0 &&
      bits (w r 2) 40 32 == 0 && bits (w r 2) 15 14 == 0 && bits (w r 3) 63 32 == 0 && bits (w r 4) 63 53 == 0 &&
      bits (w r 4) 31 21 == 0) 8 x.ix r
    need (decide (4 ≤ bits (w r 1) 56 52) && decide (bits (w r 1) 56 52 ≤ 20) && decide (bits (w r 2) 47 42 < 48)) 9 x.ix r
  .ok (setImgPart m x.inst fun p => { p with queues := (List.range x.count).map fun r =>
    ({ num := bits (w r 0) 15 0, en := bit (w r 0) 16, qring := w r 1, qbind := w r 2, qsend := w r 3, qwm := w r 4 } : QueueRec) })

def readRoutes (f : Nat → Nat) (x : Sect) (m : Image) : ImgM Image := do
  let w (r : Nat) : W64 := rdWord f x.off 8 r 0
  (List.range x.count).forM fun r => need (bits (w r) 63 40 == 0) 8 x.ix r
  .ok { m with routes := (List.range x.count).map fun r => (bits (w r) 3 0, bits (w r) 7 4, bits (w r) 39 8) }

def readFlows (f : Nat → Nat) (x : Sect) (m : Image) : ImgM Image := do
  let w (r : Nat) : W64 := rdWord f x.off 8 r 0
  (List.range x.count).forM fun r => do
    need (bits (w r) 63 41 == 0) 8 x.ix r
    need (decide (1 ≤ bits (w r) 40 32) && decide (bits (w r) 40 32 ≤ 280) && decide (1 ≤ bits (w r) 31 28) &&
      decide (bits (w r) 31 28 ≤ 8)) 21 x.ix r
  .ok { m with flows := m.flows ++ (List.range x.count).map fun r =>
    ({ part := x.inst, rate := bits (w r) 40 32, maxLen := bits (w r) 31 28, burst := bits (w r) 27 25 + 1,
       srccl := bits (w r) 24 20, dst := bits (w r) 19 0 } : FlowRec) }

def readReflect (f : Nat → Nat) (x : Sect) (m : Image) : ImgM Image := do
  let w (k : Nat) : W64 := rdWord f x.off 16 0 k
  need (bits (w 0) 63 21 == 0 && bits (w 1) 63 32 == 0) 8 x.ix
  let r : ReflectRec := { portmask := bits (w 0) 15 0, twin := bits (w 0) 19 16, primary := bit (w 0) 20, mirrored := bits (w 1) 31 0 }
  .ok { m with reflect := some r }

def readPower (f : Nat → Nat) (x : Sect) (m : Image) : ImgM Image := do
  let w (k : Nat) : W64 := rdWord f x.off 24 0 k
  need (bits (w 0) 63 32 == 0 && bits (w 1) 63 18 == 0 && bits (w 2) 63 26 == 0 && bits (w 2) 15 10 == 0) 8 x.ix
  let vmax := bits (w 2) 25 16
  let vmin := bits (w 2) 9 0
  need (decide (600 ≤ vmax) && decide (vmax ≤ 950) && decide (600 ≤ vmin) && decide (vmin ≤ vmax)) 9 x.ix
  .ok { m with cloff := bits (w 0) 31 0, sealoff := bit (w 1) 17, pcieoff := bit (w 1) 16, portoff := bits (w 1) 15 0, vmax, vmin }

def readRates (f : Nat → Nat) (x : Sect) (m : Image) : ImgM Image := do
  let w (r : Nat) : W64 := rdWord f x.off 8 r 0
  (List.range x.count).forM fun r => do
    need (bits (w r) 63 56 == 0) 8 x.ix r
    need (decide (1 ≤ bits (w r) 55 48)) 9 x.ix r
  .ok { m with rates := (List.range x.count).map fun r =>
    ({ burst := bits (w r) 55 48, rate := bits (w r) 47 32, mask := bits (w r) 31 16, code := bits (w r) 15 0 } : RateRec) }

def readThresh (f : Nat → Nat) (x : Sect) (m : Image) : ImgM Image := do
  let w (r : Nat) : W64 := rdWord f x.off 8 r 0
  (List.range x.count).forM fun r => do
    need (bits (w r) 15 8 == 0 && bits (w r) 63 56 == 0) 8 x.ix r
    need (decide (1 ≤ bits (w r) 7 0) && decide (bits (w r) 7 0 ≤ 7) && decide (1 ≤ bits (w r) 31 16) &&
      decide (1 ≤ bits (w r) 55 32)) 9 x.ix r
  .ok { m with thresh := (List.range x.count).foldl (fun t r => tput t (bits (w r) 7 0) (bits (w r) 31 16, bits (w r) 55 32)) m.thresh }

def readSection (t : Part) (f : Nat → Nat) (m : Image) (x : Sect) : ImgM Image := do
  let m1 ← match x.code with
    | 0x01 => readDevice t f x m
    | 0x02 => readPartition f x m
    | 0x03 => readTdt f x m
    | 0x04 => readCache f x m
    | 0x05 => readQueues f x m
    | 0x06 => readRoutes f x m
    | 0x07 => readFlows f x m
    | 0x08 => readReflect f x m
    | 0x09 => readPower f x m
    | 0x0A => readRates f x m
    | 0x0B => readThresh f x m
    | _ => .ok m
  if x.code = 2 ∨ x.code = 3 ∨ x.code = 5 ∨ x.code = 7
  then .ok (setImgPart m1 x.inst fun p => { p with bytes := p.bytes ++ sectBytes f x })
  else .ok m1

/-! ## The rules that relate sections (step 6 of R363) -/

/-- The directory index of a section. -/
def sectOf (ds : List Sect) (code inst : Nat) : Nat :=
  ((ds.find? fun x => x.code == code && x.inst == inst).map Sect.ix).getD 0

/-- The scratchpad ways of a cluster in an image (R355). -/
def imgSpWays (m : Image) (cl : Nat) : Nat := bits (tget 0x80000 m.cache cl) 2 0

/-- Whether a grant lies in memory that exists (R34, R355): in DRAM, or in scratchpad windows, each as far as its cluster's ways go. -/
def grantExists (t : Part) (m : Image) (base len : Nat) : Bool :=
  let top := base + len
  decide (top ≤ t.dramTop) ||
    (decide (0x800000000 ≤ base) && decide (top ≤ 0x800000000 + t.clusters * 0x40000) && (List.range t.clusters).all fun c =>
      let lo := 0x800000000 + c * 0x40000
      decide (top ≤ lo) || decide (lo + 0x40000 ≤ base) || decide (min top (lo + 0x40000) ≤ lo + imgSpWays m c * 0x10000))

/-- Two ranges share a word. -/
def overlaps (a la b lb : Nat) : Bool := decide (a < b + lb) && decide (b < a + la)

/-- The bits of ports that a part lacks. -/
def lacksPorts (t : Part) (mask : Nat) : Bool := decide (2 ^ t.ports ≤ mask)

/-- All grants with their partition and index. -/
def allGrants (m : Image) : List (Nat × Nat × Nat × Nat × Nat) :=
  m.parts.flatMap fun p => ((List.range p.grants.length).zip p.grants).map fun e => (p.num, e.1, e.2.1, e.2.2.1, e.2.2.2)

/-- All queue records with their partition and index. -/
def allQueues (m : Image) : List (Nat × Nat × QueueRec) :=
  m.parts.flatMap fun p => ((List.range p.queues.length).zip p.queues).map fun e => (p.num, e.1, e.2)

def hasSect (ds : List Sect) (code inst : Nat) : Bool := ds.any fun x => x.code == code && x.inst == inst

/-- The flows of an image, each with its record index within its partition's section (R363). -/
def flowRecs (m : Image) : List (Nat × FlowRec) :=
  ((List.range m.flows.length).zip m.flows).map fun e => (((m.flows.take e.1).filter fun f => f.part == e.2.part).length, e.2)

/-- 11 ABSENT. -/
def relAbsent (t : Part) (ds : List Sect) (m : Image) : ImgM Unit := do
  need (!lacksPorts t m.portmask && !lacksPorts t m.lrmask) 11 (sectOf ds 1 0)
  need (!lacksPorts t m.portoff && decide (m.cloff < 2 ^ t.clusters)) 11 (sectOf ds 9 0)
  m.parts.forM fun p => ((List.range p.ctxs.length).zip p.ctxs).forM fun e =>
    need (decide (bits e.2 63 59 < t.clusters)) 11 (sectOf ds 2 p.num) (6 + e.1)
  m.cache.forM fun e => need (decide (e.1 < t.clusters)) 11 (sectOf ds 4 e.1)
  (flowRecs m).forM fun e =>
    need (decide (e.2.srccl < t.clusters) && decide (e.2.dst / 65536 ≤ m.mesh)) 11 (sectOf ds 7 e.2.part) e.1
  need (m.reflect.isNone || t.hasReflect) 11 (sectOf ds 8 0)

/-- 12 CONTEXT. -/
def relContext (ds : List Sect) (m : Image) : ImgM Unit := do
  ((List.range m.parts.length).zip m.parts).forM fun e => do
    let p := e.2
    need (hasSect ds 2 p.num) 12 (((ds.find? fun x => x.inst == p.num && (x.code == 3 || x.code == 5 || x.code == 7)).map Sect.ix).getD 0)
    ((List.range p.ctxs.length).zip p.ctxs).forM fun g =>
      need (!((grantCtxs g.2).any fun c =>
        (m.parts.take e.1).any (fun q => q.ctxList.contains c))) 12 (sectOf ds 2 p.num) (6 + g.1)
    need (p.ctxList.contains p.bootctx) 12 (sectOf ds 2 p.num) 4

/-- 13 MEMORY: of two grants that overlap, the later one is the record concerned; a grant's record is its BASE word. -/
def relMemory (t : Part) (ds : List Sect) (m : Image) : ImgM Unit := do
  let gs := allGrants m
  ((List.range gs.length).zip gs).forM fun e => do
    let g := e.2
    let bad := (gs.take e.1).any fun h => (g.2.2.1 == 0 || h.2.2.1 == 0) &&
      overlaps g.2.2.2.1 g.2.2.2.2 h.2.2.2.1 h.2.2.2.2
    let ncg := ((m.parts.find? fun p => p.num == g.1).map fun p => p.ctxs.length).getD 0
    need (!bad && grantExists t m g.2.2.2.1 g.2.2.2.2) 13 (sectOf ds 2 g.1) (6 + ncg + 2 * g.2.1)

/-- The words of a queue's ring. -/
def ringLen (q : QueueRec) : Nat := 2 ^ bits q.qring 56 52 * (if bit q.qring 57 then 16 else 8)

/-- 15 QUEUE. -/
def relQueue (dev : Nat) (ds : List Sect) (m : Image) : ImgM Unit := do
  let qs := allQueues m
  ((List.range qs.length).zip qs).forM fun r => do
    let e := r.2
    let q := e.2.2
    let p := (m.parts.find? fun p => p.num == e.1).getD { num := e.1 }
    let base := bits q.qring 35 3 * 8
    let twice := (qs.take r.1).any fun x => x.2.2.num == q.num
    let ctxBad := bits q.qbind 63 62 == 1 && !(p.ctxList.contains (bits q.qbind 13 0))
    let inGrant := bits q.qring 39 36 == dev && p.grants.any fun g =>
      decide (g.2.1 ≤ base) && decide (base + ringLen q ≤ g.2.1 + g.2.2)
    let enOk := !q.en || (bits q.qbind 63 62 != 0 && (!bit q.qbind 41 || decide (bits q.qwm 20 0 < bits q.qwm 52 32)))
    need (!twice && !ctxBad && inGrant && enOk) 15 (sectOf ds 5 e.1) e.2.1
  m.parts.forM fun p =>
    need ((p.queues.any fun q => q.num == p.pdbq) && p.queues.any fun q => q.num == p.mqbounce) 15 (sectOf ds 2 p.num) 5
  need (m.agq / 65536 != dev || qs.any fun e => e.2.2.num == m.agq % 65536) 15 (sectOf ds 1 0)

/-- 16 SEALING (R365). -/
def relSealing (ds : List Sect) (m : Image) : ImgM Unit :=
  m.parts.forM fun p =>
    let cls := p.ctxList.map (· / 512)
    let whole := cls.all fun c => (List.range 512).all fun x => p.ctxList.contains (c * 512 + x)
    let alone := m.mesh == 0 || (match m.reflect with | some r => r.mirrored / 2 ^ p.num % 2 == 1 | none => false)
    need (!p.sealed || (alone && whole && p.grants.all fun g => g.1 == 0)) 16 (sectOf ds 2 p.num)

/-- 17 PORT (R351, R357, R359, R400). A ROUTE record that names this device as the intermediate one declares its forwarding (DEDUCED, log
entry 24): its port is then the one to the destination. -/
def relPort (t : Part) (dev : Nat) (ds : List Sect) (m : Image) : ImgM Unit := do
  need (m.portmask / 2 ^ dev % 2 == 0) 17 (sectOf ds 1 0)
  ((List.range m.routes.length).zip m.routes).forM fun e =>
    let mid := e.2.2.1
    let port := if mid = dev then e.2.1 else mid
    need (mid != e.2.1 && m.portmask / 2 ^ port % 2 == 1) 17 (sectOf ds 6 0) e.1
  match m.reflect with
  | none => .ok ()
  | some r =>
    let count := ((List.range 16).filter fun i => r.portmask / 2 ^ i % 2 == 1).length
    need (r.portmask / 2 ^ t.anchor % 2 == 1 && decide (count ≤ 8) && !lacksPorts t r.portmask &&
      Nat.land r.portmask m.portmask == 0) 17 (sectOf ds 8 0)

/-- 18 POWER (R360). -/
def relPower (t : Part) (dev : Nat) (ds : List Sect) (m : Image) : ImgM Unit :=
  let refl := match m.reflect with | some r => r.portmask | none => 0
  let off (c : Nat) : Bool := m.cloff / 2 ^ c % 2 == 1
  let bad := (m.sealoff && (m.reflect.isSome || m.parts.any fun p => p.sealed)) ||
    Nat.land m.portoff (Nat.lor m.portmask refl) != 0 || (m.parts.any fun p => off (p.bootctx / 512)) ||
    m.flows.any fun f => off f.srccl || (f.dst / 65536 == dev && off (f.dst % 65536 % t.clusters))
  need (!bad) 18 (sectOf ds 9 0)

/-- 19 SLOT and 21 FLOW. -/
def relSlotFlow (dev : Nat) (ds : List Sect) (m : Image) : ImgM Unit := do
  need (m.anyslot || m.slot == dev) 19 (sectOf ds 1 0)
  (flowRecs m).forM fun e =>
    need (m.parts.any fun p => p.num == e.2.part && p.ctxList.any fun c => c / 512 == e.2.srccl) 21 (sectOf ds 7 e.2.part) e.1

/-- Step 6. -/
def relate (t : Part) (dev : Nat) (ds : List Sect) (m : Image) : ImgM Unit := do
  relAbsent t ds m
  relContext ds m
  relMemory t ds m
  relQueue dev ds m
  relSealing ds m
  relPort t dev ds m
  relPower t dev ds m
  relSlotFlow dev ds m

/-! ## The current owner (R373, R376) and the whole check -/

/-- The current owner slot: the lowest-numbered programmed and not revoked. -/
def currentOwner (s : State) : Option (Nat × OwnerSlot) :=
  (List.range 4).findSome? fun i => match s.trust.owners.find? fun e => e.1 == i with
    | some (_, o) => if o.revoked then none else some (i, o)
    | none => none

/-- The minimum image SVN of the current owner (R348, R381). -/
def imgSvnMin (s : State) : Nat :=
  match currentOwner s with
  | some (i, _) => tget 0 s.trust.imgSvnMin i
  | none => 0

/-- The signature of an image (R348, R376). -/
def imgSigned (s : State) (f : Nat → Nat) : Bool :=
  let key := rdBytes f 0x20 133
  let total := rdLE f 0x18 4
  match currentOwner s with
  | some (_, o) => decide (sha512 key = o.hash) && Config.ecdsaVerify key (sha512 (rdBytes f 0 total)) (rdBytes f total 132)
  | none => false

/-- The bit of PART_MASK for a part. -/
def partBit : Part → Nat
  | .ah9512 => 0
  | .ah9256 => 1
  | .ah9128L => 2

/-- Steps 1 to 4 of R363: the directory of an acceptable image. -/
def openImage (s : State) (f : Nat → Nat) (reform : Bool) : ImgM (List Sect) := do
  need (headerOk f) 1
  need (imgSigned s f) 2
  need (rdLE f 0x14 2 / 2 ^ partBit s.part % 2 == 1) 3
  need (decide (imgSvnMin s ≤ rdLE f 0x10 4)) 4
  let ds ← readDir f (rdLE f 0x18 4) (List.range (rdLE f 0x16 2)) []
  need (reform || hasSect ds 1 0) 7
  .ok ds

/-- The header's own fields. -/
def imgHeader (f : Nat → Nat) (m : Image) : Image :=
  { m with
    id := BitVec.ofNat 64 (rdLE f 8 8), svn := rdLE f 0x10 4, partMask := rdLE f 0x14 2
    digest := sha512 (rdBytes f 0 (rdLE f 0x18 4)), owner := rdBytes f 0x20 133 }

/-- A whole image validated (R363). -/
def validate (s : State) (f : Nat → Nat) : ImgM Image := do
  let ds ← openImage s f false
  let m ← ds.foldlM (readSection s.part f) (imgHeader f {})
  relate s.part s.dev ds m
  .ok { m with inForce := true }

/-- A re-forming image of partition p, judged beside the rest of the image in force (R369): it may hold the partition's own
sections, and CACHE records for clusters that the partition alone occupies. -/
def validateReform (s : State) (f : Nat → Nat) (p : Nat) : ImgM Image := do
  let ds ← openImage s f true
  let mine (c : Nat) : Bool := (s.owner.any fun e => e.1 / 512 == c) && s.owner.all fun e => e.1 / 512 != c || e.2 == p
  ds.forM fun x => do
    need (x.code == 2 || x.code == 3 || x.code == 4 || x.code == 5 || x.code == 7 || decide (0xF0 ≤ x.code)) 6 x.ix
    need (decide (0xF0 ≤ x.code) || (if x.code = 4 then mine x.inst else x.inst == p)) 9 x.ix
  need (hasSect ds 2 p) 12
  let m0 := s.img
  let m1 : Image := { m0 with parts := m0.parts.filter fun q => q.num != p, flows := m0.flows.filter fun g => g.part != p }
  let m ← ds.foldlM (readSection s.part f) m1
  let others : List Sect := m1.parts.map fun q => { code := 2, inst := q.num, off := 0, len := 0, count := 0, ix := 0 }
  relate s.part s.dev (ds ++ others) m
  .ok m

end Sys2Proof.Machine
end

