-- ==== Sys2Proof/Machine/Lifetime.lean ====
section
/-!
DEFINITION. The lifetime block and its flash pages (R443 to R445), the bytes of the flash (R485, R486), the calendar (R446)
and its alarm (R462).
-/

namespace Sys2Proof.Machine
open Sys2Proof

/-! ## Flash bytes (R486) -/

/-- A flash byte stored; an erased byte is not listed. -/
def flashPut (t : Tab Nat) (off v : Nat) : Tab Nat := if v = 0xFF then tdel t off else tput t off v

/-- Programming sets bits from 1 to 0 only. -/
def flashProgram (t : Tab Nat) (off : Nat) : List (BitVec 8) → Tab Nat
  | [] => t
  | b :: bs => flashProgram (flashPut t off (Nat.land (tget 0xFF t off) b.toNat)) (off + 1) bs

/-- The 64 KiB sector that holds an offset erased. -/
def flashErase (t : Tab Nat) (off : Nat) : Tab Nat := t.filter fun e => e.1 / 0x10000 != off / 0x10000

/-! ## Lifetime pages (R444) -/

/-- A little-endian field of n bytes. -/
def le (n v : Nat) : List (BitVec 8) := (natBytesBE n v).reverse

def zeros (n : Nat) : List (BitVec 8) := List.replicate n 0

def histBytes (h : HistEnt) : List (BitVec 8) := le 4 h.typ ++ le 4 h.svn ++ le 8 h.id.toNat ++ le 8 h.cal ++ zeros 8

/-- The page's bytes but its CRC. -/
def pageBody (s : State) (gen : Nat) : List (BitVec 8) :=
  let l := s.life
  le 4 0x5446494C ++ le 2 1 ++ zeros 2 ++ le 8 gen ++ le 8 s.cal.sec ++ le 8 l.powerOnS ++ le 4 l.coldBoots ++ le 4 l.warmBoots ++
    le 4 l.thermExc ++ le 4 l.thermTrips ++ le 8 l.thermS ++ ((List.range 32).flatMap fun c => le 8 (tget 0 l.vtInt c)) ++
    ((List.range 8).flatMap fun i => le 4 (tget 0 l.rowsSpared i)) ++ ((List.range 16).flatMap fun i => le 1 (tget 0 l.lanes i)) ++
    ((List.range 32).flatMap fun c => le 2 (tget 0 l.l2Ways c)) ++ ((List.range 512).flatMap fun k => le 2 (tget 0 l.coreWays k)) ++
    le 8 l.engines ++ ((List.range 64).flatMap fun i => le 8 ((l.pendRows[i]?).getD 0)) ++ le 4 l.histCount ++ zeros 4 ++
    ((List.range 64).flatMap fun i => histBytes (tget { typ := 0, svn := 0, id := 0, cal := 0 } l.hist i)) ++ zeros 88

def pageBytes (s : State) (gen : Nat) : List (BitVec 8) := pageBody s gen ++ le 4 (crc32c (pageBody s gen))

/-- The flash offset of a lifetime sector (R485). -/
def lifeSector (n : Nat) : Nat := 0x10000 + n * 0x10000

def pageValid (s : State) (n : Nat) : Bool :=
  let f (i : Nat) : Nat := flashByte s (lifeSector n + i)
  rdLE f 0 4 == 0x5446494C && rdLE f 4 2 == 1 && rdLE f 0x1010 4 == crc32c (rdBytes f 0 0x1010)

def pageGen (s : State) (n : Nat) : Nat := rdLE (fun i => flashByte s (lifeSector n + i)) 8 8

/-- The sector of the current page (R445). -/
def currentPage (s : State) : Option Nat :=
  match pageValid s 0, pageValid s 1 with
  | false, false => none
  | true, false => some 0
  | false, true => some 1
  | true, true => some (if pageGen s 0 < pageGen s 1 then 1 else 0)

/-- The non-zero fields of an array. -/
def rdTab (f : Nat → Nat) (off n size : Nat) : Tab Nat :=
  (List.range n).filterMap fun i => if rdLE f (off + i * size) size = 0 then none else some (i, rdLE f (off + i * size) size)

/-- The lifetime block that a page holds. -/
def pageLife (s : State) (n : Nat) (l : Lifetime) : Lifetime :=
  let f (i : Nat) : Nat := flashByte s (lifeSector n + i)
  let ent (i : Nat) : Option (Nat × HistEnt) :=
    let a := 0x7B8 + i * 32
    if rdLE f a 4 = 0 then none
    else some (i, { typ := rdLE f a 4, svn := rdLE f (a + 4) 4, id := BitVec.ofNat 64 (rdLE f (a + 8) 8), cal := rdLE f (a + 16) 8 })
  { l with
    generation := rdLE f 8 8, powerOnS := rdLE f 0x18 8, coldBoots := rdLE f 0x20 4, warmBoots := rdLE f 0x24 4
    thermExc := rdLE f 0x28 4, thermTrips := rdLE f 0x2C 4, thermS := rdLE f 0x30 8, vtInt := rdTab f 0x38 32 8
    rowsSpared := rdTab f 0x138 8 4, lanes := rdTab f 0x158 16 1, l2Ways := rdTab f 0x168 32 2, coreWays := rdTab f 0x1A8 512 2
    engines := rdLE f 0x5A8 8, pendRows := (rdTab f 0x5B0 64 8).map Prod.snd, histCount := rdLE f 0x7B0 4
    hist := (List.range 64).filterMap ent, valid := true }

/-- Word k of the lifetime block's window (R443). -/
def lifeWord (s : State) (k : Nat) : Word :=
  let bs := pageBytes s s.life.generation
  ⟨tagRAW, BitVec.ofNat 64 (natOfBytesLE ((bs.drop (8 * k)).take 8))⟩

/-! ## History (R444) -/

/-- The newest history entry of a type. -/
def newestHist (l : Lifetime) (typ : Nat) : Option HistEnt :=
  (List.range (min 64 l.histCount)).findSome? fun k =>
    (l.hist.find? fun e => e.1 == (l.histCount - 1 - k) % 64 && e.2.typ == typ).map Prod.snd

/-- A history entry added; one of type 1, 2 or 3 only when its ID or SVN differs from the newest of its type. -/
def addHist (s : State) (typ svn : Nat) (id : W64) : State :=
  let same := match newestHist s.life typ with
    | some h => h.svn == svn && h.id == id
    | none => false
  if typ ≤ 3 ∧ same = true then s
  else modLife s fun l => { l with
    hist := tput l.hist (l.histCount % 64) { typ, svn, id, cal := s.cal.sec }, histCount := (l.histCount + 1) % 2 ^ 32, saveDue := true }

/-! ## Restoring the block at boot (R443) -/

def restoreLife (s : State) : State :=
  match currentPage s with
  | some n =>
    if s.life.valid ∧ pageGen s n ≤ s.life.generation then s
    else report (modLife s fun l => pageLife s n l) 0xD003 .none [1]
  | none =>
    if s.life.valid then s
    else report (modLife s fun l => { valid := true, lastWrite := l.lastWrite }) 0xD003 .none [2]

/-! ## Page writes (R445) -/

/-- Whether a page write is due: a trigger since the last one, or an hour, and 60 s after a failure. -/
def pageDue (s : State) : Bool :=
  (s.life.saveDue || decide (s.life.lastWrite + 3600 * 10 ^ 9 ≤ s.time)) &&
    match s.life.failTime with
    | some t => decide (t + 60 * 10 ^ 9 ≤ s.time)
    | none => true

/-- LIFETIME_PAGE_WRITE (R445): the sector without the current page is erased and written, in its turn among the flash
operations (R486). Whether the read back agrees is free, and so is what a failed write leaves in the sector. -/
def lifetimePageWrite (s : State) : State :=
  if pageDue s = false ∨ s.flash.ops ≠ [] then s
  else
    let n := if currentPage s = some 0 then 1 else 0
    let (bad, s1) := drawBool s
    let blank := flashErase s1.flash.bytes (lifeSector n)
    let ended (s : State) : State := modLife s fun l => { l with saveDue := false, busy := false, lastWrite := s.time }
    if bad then
      let junk := (List.range 4116).map fun i => BitVec.ofNat 8 (Config.freeNat (s1.freeIx + i))
      let s2 : State := { s1 with
        flash := { s1.flash with bytes := flashProgram blank (lifeSector n) junk }, freeIx := s1.freeIx + 4116 }
      report (modLife (ended s2) fun l => { l with failTime := some s.time }) 0xD002 .none [BitVec.ofNat 64 n]
    else
      let g := s.life.generation + 1
      let s2 : State := { s1 with flash := { s1.flash with bytes := flashProgram blank (lifeSector n) (pageBytes s g) } }
      report (modLife (ended s2) fun l => { l with failTime := none, generation := g }) 0xD001 .none
        [BitVec.ofNat 64 g, BitVec.ofNat 64 n]

def execLifetimePageWrite (s : State) : Host.Outcome State Fault Refusal := .next (lifetimePageWrite s)

/-- LTCMD_SAVE (R448): a page write is asked for, and BUSY is 1 until it has ended. -/
def ltcmdSave (s : State) : State := modLife s fun l => { l with saveDue := true, busy := true }

def execLtcmdSave (s : State) : Host.Outcome State Fault Refusal := .next (ltcmdSave s)

/-! ## The calendar (R446) and its alarm (R462) -/

def modCal (s : State) (f : Calendar → Calendar) : State := { s with cal := f s.cal }

/-- TRIM, in 0.1 ppm. -/
def trimOf (c : Calendar) : Int := (c.trim.setWidth 16).toInt

/-- `CALALM` converted to a timebase deadline for comparator 1: the ns until its second, at the trimmed rate, rounded up. -/
def armAlarm (s : State) : State :=
  modCal s fun c =>
    if c.almEn = false then { c with almDue := none }
    else
      let ticks := (c.almSec * 32768 : Int) - (c.sec * 32768 + c.sub : Nat)
      let rate := 32768 * (10 ^ 7 + trimOf c)
      { c with almDue := some (s.time + ((ticks * 10 ^ 16 + rate - 1) / rate).toNat) }

/-- CALSEC_WRITE (R446): a word that is not FIX is discarded. -/
def calsecWrite (s : State) (w : Word) : State :=
  if w.tag ≠ tagFIX then s
  else
    let s1 := modCal s fun c => { c with sec := w.pay.toNat, sub := 0, valid := true }
    armAlarm (report s1 0xD004 .none [BitVec.ofNat 64 s.cal.sec, w.pay])

def execCalsecWrite (w : Word) (s : State) : Host.Outcome State Fault Refusal := .next (calsecWrite s w)

/-- CALTRIM_WRITE (R446). -/
def caltrimWrite (s : State) (w : Word) : State :=
  if w.tag ≠ tagFIX then s else armAlarm (modCal s fun c => { c with trim := field (bits w.pay 15 0) 0 })

def execCaltrimWrite (w : Word) (s : State) : Host.Outcome State Fault Refusal := .next (caltrimWrite s w)

/-- A write of `CALALM` (R467). -/
def calalmWrite (s : State) (v : W64) : State :=
  armAlarm (modCal s fun c => { c with almSec := bits v 39 0, almEn := bit v 40, almFired := c.almFired && !bit v 41 })

/-- CAL_OSC_FAIL (R446): the calendar holds its count. -/
def calOscFail (s : State) : State :=
  if s.cal.oscFail then s else report (modCal s fun c => { c with oscFail := true }) 0xD005 .none

def execCalOscFail (s : State) : Host.Outcome State Fault Refusal := .next (calOscFail s)

/-- CRYSTAL_TICK_RETURN (R446). -/
def execCrystalTickReturn (s : State) : Host.Outcome State Fault Refusal :=
  .next (modCal s fun c => { c with oscFail := false })

/-- VBAK_LOSS (R446): calendar, `CALTRIM` and lifetime block start from zero. -/
def execVbakLoss (s : State) : Host.Outcome State Fault Refusal :=
  .next (armAlarm { s with
    cal := { s.cal with sec := 0, sub := 0, trim := 0, valid := false, vbakLoss := true, phase := 0, trimAcc := 0 }
    life := {} })

/-- The calendar's registers (R448, R467). -/
def calsecReg (s : State) : W64 := BitVec.ofNat 64 s.cal.sec
def calsubReg (s : State) : W64 := field s.cal.sub 0
def calstatReg (s : State) : W64 := flagBit s.cal.oscFail 2 ||| flagBit s.cal.vbakLoss 1 ||| flagBit s.cal.valid 0
def calalmReg (s : State) : W64 := flagBit s.cal.almFired 41 ||| flagBit s.cal.almEn 40 ||| field s.cal.almSec 0
def ltcmdReg (s : State) : W64 := flagBit s.life.busy 1

end Sys2Proof.Machine
end

