-- ==== Sys2Proof/Machine/Reset.lean ====
section
/-!
DEFINITION. Zero-fills (R391 to R393), loading a partition and its queues from an image (R352, R356, R366), and partition
reset, warm reset and cold reset (R30, R463 to R465, R501).
-/

namespace Sys2Proof.Machine
open Sys2Proof

/-! ## Zero-fills -/

/-- The lines that any cache or buffer holds or has lost. -/
def cachedLines (s : State) : List Nat :=
  (s.cores.flatMap fun e =>
    (e.2.l1d.flatMap fun i => i.2.subs.map fun b => i.2.tag * 4 + b.1) ++ e.2.evict.map EvictEnt.line ++ e.2.lost) ++
  s.clusters.flatMap fun e =>
    (e.2.l2.flatMap fun i => match i.2.tag with
      | some t => i.2.subs.map fun b => t * 4 + b.1
      | none => []) ++ e.2.wb.map WbEnt.line ++ e.2.lost

/-- The words of a range made FIX 0, and every cached copy of its lines removed. -/
def zeroFill (s : State) (lo n : Nat) : State :=
  let inside (line : Nat) : Bool := decide (lo ≤ line * 8 + 7) && decide (line * 8 < lo + n)
  let s1 := ((cachedLines s).filter inside).foldl discardLine s
  { s1 with mem := s1.mem.filter fun e => !(decide (lo ≤ e.1) && decide (e.1 < lo + n)) }

def zeroGrants (s : State) (gs : List (Nat × Nat)) : State := gs.foldl (fun s g => zeroFill s g.1 g.2) s

/-! ## The sealed map (R393) -/

/-- A range merged with the ranges that touch it. -/
def mergeRange (m : List (Nat × Nat)) (lo n : Nat) : List (Nat × Nat) :=
  let touch (r : Nat × Nat) : Bool := decide (r.1 ≤ lo + n) && decide (lo ≤ r.1 + r.2)
  let all := (lo, n) :: m.filter touch
  let a := all.foldl (fun a r => min a r.1) lo
  let b := all.foldl (fun b r => max b (r.1 + r.2)) (lo + n)
  m.filter (fun r => !touch r) ++ [(a, b - a)]

def modTrust (s : State) (f : Trust → Trust) : State := { s with trust := f s.trust }

/-- The grants of a sealed partition entered in the map. -/
def mapSealed (s : State) (gs : List (Nat × Nat)) : State :=
  modTrust s fun t =>
    let m := gs.foldl (fun m g => mergeRange m g.1 g.2) t.sealedMap
    if 64 < m.length then { t with sealedOvf := true } else { t with sealedMap := m }

/-- A sealed partition's memory started under fresh keys (R385, R392): not while the random-number source or the Sealing unit
is out of service, or at debug level FULL (R379, R396). -/
def startSealed (s : State) (p : Nat) : State :=
  let q := getPart s p
  if q.sealed = false ∨ s.trust.rngOk = false ∨ s.power.sealOff = true ∨ s.trust.dbgLevel = 2 then s
  else
    let s1 := modTrust (zeroGrants s q.grants) fun t => { t with
      keys := tput t.keys p { data := Config.randomKey t.keyDraw, tweak := Config.randomKey (t.keyDraw + 1), mac := Config.randomKey (t.keyDraw + 2) }
      keyDraw := t.keyDraw + 3 }
    mapSealed s1 q.grants

/-- The memory of a sealed partition filled in ordinary form and its keys discarded. -/
def stopSealed (s : State) (p : Nat) : State :=
  let q := getPart s p
  if q.sealed then modTrust (zeroGrants s q.grants) fun t => { t with keys := tdel t.keys p } else s

/-! ## A partition from the image (R352, R366) -/

/-- A partition's section in the image in force. -/
def imgPart (s : State) (p : Nat) : Option ImgPart := s.img.parts.find? fun m => m.num == p

/-- A partition as the image sets it, quiesced. -/
def partOfImage (s : State) (m : ImgPart) : Partition :=
  { defined := true, quiesced := true, tdt := m.tdt, evec := m.evec, gtbase := field (bits m.gt 47 0) 0, gtcnt := field (bits m.gt 63 48) 0
    rimode := if m.rimode then 1 else 0, sealed := m.sealed, pdbq := field m.pdbq 0, mqbounce := field m.mqbounce 0
    tbaseDef := m.tbase, dchkDef := m.dchk, grants := m.grants.map fun g => (g.2.1, g.2.2), devacc := m.devacc
    mirrored := match s.img.reflect with | some r => r.mirrored / 2 ^ m.num % 2 == 1 | none => false
    reformed := (getPart s m.num).reformed, mrun := zeros 64 }

/-- A queue's descriptor loaded, then enabled when EN and the conditions of ENABLE hold (R311, R356). -/
def loadQueue (s : State) (p : Nat) (r : QueueRec) : State :=
  let s1 := modQ s r.num fun x => { x with
    owned := true, owner := p, slot16 := bit r.qring 57, log2 := bits r.qring 56 52, base := bits r.qring 39 0 / 8 * 8
    bind := bits r.qbind 63 62, wake := bit r.qbind 61, dbit := bits r.qbind 47 42, wmen := bit r.qbind 41
    vector := bits r.qbind 31 16, ctx := bits r.qbind 13 0, send := bits r.qsend 31 0, hiwm := bits r.qwm 52 32
    lowm := bits r.qwm 20 0, enabled := false, refused := false, high := false, waiters := [] }
  if r.en && enableOk s1 r.num then modQ s1 r.num fun x => { x with enabled := true } else s1

/-- The partition's contexts owned (R353). -/
def loadOwner (s : State) (m : ImgPart) : State :=
  { s with owner := m.ctxList.foldl (fun t c => tput t c m.num) (s.owner.filter fun e => e.2 != m.num) }

/-- The defaults of `TBASE` and `XCTL`.DCHK given to the partition's contexts (R109, R264, R366). -/
def loadDefaults (s : State) (m : ImgPart) : State :=
  m.ctxList.foldl (fun s c => modCtx s c fun x => { x with regs := resetRegs (getPart s m.num) x.regs }) s

/-- Orders 2, 4 and 5 of R366 for one partition. -/
def loadPart (s : State) (m : ImgPart) : State :=
  let s1 := loadDefaults (loadOwner (setPart s m.num (partOfImage s m)) m) m
  m.queues.foldl (fun s r => loadQueue s m.num r) s1

/-! ## Partition reset (R464) -/

/-- Every entry of a partition removed from every TLB (R250). -/
def dropTlbs (s : State) (p : Nat) : State :=
  let keep (t : Tab TlbEnt) : Tab TlbEnt := t.filter fun e => e.2.part != p
  { s with
    cores := s.cores.map fun e => (e.1, { e.2 with tlb := keep e.2.tlb })
    clusters := s.clusters.map fun e => (e.1, { e.2 with
      rangeTlb := keep e.2.rangeTlb, engines := e.2.engines.map fun g => (g.1, { g.2 with tlb := keep g.2.tlb }) }) }

/-- The range operations and held completions of a partition removed, and its logs, to-space regions and Collector work (R236, R464). -/
def dropEngineWork (s0 : State) (p : Nat) : State :=
  let s := dropJobs s0 p
  let collMsg (m : Msg) : Bool := m.part == p && match m.kind with
    | .satb _ _ | .weak | .markReq => true
    | _ => false
  let quit (r : RemReq) : RemReq := match r.who with
    | .collSlot .. | .collReg .. | .collWord .. => if r.part = p then { r with who := .none } else r
    | _ => r
  { s with
    remotes := s.remotes.map quit
    outbox := s.outbox.filter fun o => o.sent || !collMsg o.msg
    cores := s.cores.map fun e => (e.1, { e.2 with logbuf := e.2.logbuf.filter fun b => b.1 != p })
    clusters := s.clusters.map fun e => (e.1, { e.2 with
      rangeQ := e.2.rangeQ.filter fun o => o.part != p, rangeHeld := e.2.rangeHeld.filter fun o => o.part != p
      toSpace := e.2.toSpace.filter fun t => t.1 / 4 != p })
    msgs := s.msgs.filter fun m => !collMsg m }

/-- The queues that a partition owns. -/
def queuesOf (s : State) (p : Nat) : List Nat := (s.queues.filter fun e => e.2.owned && e.2.owner == p).map Prod.fst

/-- A partition reset: it ends with no context started. Its contexts are reset first, so that nothing that their resets count or ring
outlives the reset of `MQLOST` and `PDBELL` (R310). -/
def partitionReset (s : State) (p : Nat) : State :=
  match imgPart s p with
  | none => s
  | some m =>
    let s1 := dropEngineWork (stopSealed s p) p
    let cs := ctxsOf s p
    let s2 := (queuesOf s1 p).foldl flushQ (dropFlows s1 p)
    let s3 := cs.foldl (fun s c => modCtx (contextReset s c) c fun x => { x with em := [], emv := false }) s2
    let s4 := loadPart (dropTlbs s3 p) m
    tryFlows (enterFlows (startSealed s4 p) p) fun f => f.part == p

/-! ## Fuse changes (R380, R381) -/

/-- One fuse change blown: a bit that is blown stays so (R373). -/
def blow (t : Trust) : FuseBlow → Trust
  | .owner i h =>
    let o := tget { hash := zeros 64 } t.owners i
    { t with owners := tput t.owners i { o with hash := (o.hash.zip h).map fun b => b.1 ||| b.2 } }
  | .revoke i => { t with owners := t.owners.map fun e => if e.1 = i then (e.1, { e.2 with revoked := true }) else e }
  | .fwSvn n => { t with fwSvnMin := max t.fwSvnMin (min 64 n) }
  | .capSvn n => { t with capSvnMin := max t.capSvnMin (min 64 n) }
  | .imgSvn i n => { t with imgSvnMin := tput t.imgSvnMin i (max (tget 0 t.imgSvnMin i) (min 32 n)) }

/-! ## Warm and cold reset (R464, R465) -/

/-- Package power limit of the part (R505). -/
def packageLimit : Part → Nat
  | .ah9512 => 760
  | .ah9256 => 415
  | .ah9128L => 225

/-- The memory of sealed partitions whose keys a reset discards (R385, R386). -/
def staleNow (s : State) : List StaleSeal :=
  s.trust.keys.filterMap fun k =>
    let q := getPart s k.1
    if q.sealed then some { keys := k.2, grants := q.grants, window := (q.winBase, q.slwinl) } else none

/-- What both levels take away: contexts, work in flight, queues, flows, routes, configuration, keys, links, the host link and
the debug level. What lies in always-on memory, in fuses and in flash stays. -/
def resetCore (s : State) (warm : Bool) : State :=
  { part := s.part, dev := s.dev, boardSlot := s.boardSlot, freeIx := s.freeIx, nextOp := s.nextOp, nextInval := s.nextInval, nextSeq := s.nextSeq
    mem := s.mem, reports := s.reports, flash := { bytes := s.flash.bytes }, pending := s.pending
    staging := s.staging
    glow := { s.glow with
      mode := 0, drainSent := false, drainRetry := none, buckets := [], refused := 0, drainLost := 0, repLost := 0, aggFull := 0, penEvict := 0 }
    life := { s.life with lastWrite := 0, failTime := none, subNs := 0, busy := false }
    cal := { s.cal with almDue := none }
    trust := { s.trust.blows.foldl blow s.trust with
      blows := [], stale := s.trust.stale ++ staleNow s, stage := 0, mFw := [], fwSvn := 0, mCaps := [], capsules := [], idKey := false, rngOk := true, keys := []
      patch := [], matchRegs := []
      dbgLevel := 0, warm, writeback := warm, bootBad := false }
    power := { plimit := packageLimit s.part, wdExpired := warm && s.power.wdExpired
               trip := warm && s.power.trip, refLost := s.power.refLost, refAlert := s.power.refAlert
               vrqAlert := s.power.vrqAlert, railsLow := s.power.railsLow, heldReset := s.power.heldReset, vaon := s.power.vaon }
    ports := if warm then s.ports.map fun e => (e.1, { viol := e.2.viol, retrains := e.2.retrains, retired := e.2.retired, trained := e.2.trained }) else []
    hostIf := {}
    refl := { pinIn := s.refl.pinIn, pinOut := s.refl.pinOut, lastEdgeIn := s.refl.lastEdgeIn, lastEdgeOut := s.refl.lastEdgeOut }
    dbg := { draws := s.dbg.draws } }

/-- A warm reset starts (R465): cores stop, work in flight is abandoned; the caches wait for their writeback. The straps of BOARD_SLOT are
sampled (R495). What THERMTRIP has gated stays off (R459). -/
def warmReset (s : State) : State :=
  let s1 := flushAfterglow s
  let r := resetCore s1 true
  { r with
    dev := s1.boardSlot
    cores := s1.cores.map fun e => (e.1, { l1d := e.2.l1d, evict := e.2.evict, lost := e.2.lost })
    clusters := s1.clusters.map fun e => (e.1, {
      l2 := e.2.l2, wb := e.2.wb, lost := e.2.lost, power := if s.power.trip then .off else .active })
    power := { r.power with
      pcieOff := s.power.trip, stacksAsleep := if s.power.trip then s.power.stacksAsleep else [] } }

/-- WARM_RESET (R463): PERST_N, or a command of the host or of SMBus. -/
def execWarmReset (_cause : Nat) (s : State) : Host.Outcome State Fault Refusal := .next (warmReset s)

/-- The lines modified at a warm reset written back, a lost one as POISON, the scratchpads lost, and the stacks put into self-refresh, which
stage FIRMWARE ends (R465). -/
def warmWriteback (s : State) : State :=
  let s1 := ((cachedLines s).filter fun l => decide (l * 8 < s.part.dramTop)).foldl flushLine s
  { s1 with
    cores := [], clusters := [], dir := [], mem := s1.mem.filter fun e => decide (e.1 < s.part.dramTop)
    power := { s1.power with stacksAsleep := List.range s.part.stacks } }

/-- A cold reset (R464): what lies in the switched domains is lost; always-on memory is kept while VAON is present. -/
def coldReset (s : State) : State :=
  let s1 := if s.power.vaon then flushAfterglow s else s
  let r := resetCore s1 false
  { r with glow := { r.glow with pen := [], drainSeq := 0 }, cal := { r.cal with oscFail := false }, power := { r.power with trip := false } }

/-- COLD_RESET (R463): RESET_N, or VAON or VCORE first applied. BOARD_SLOT is sampled as RESET_N rises (R495). -/
def execColdReset (s : State) : Host.Outcome State Fault Refusal :=
  let r := coldReset s
  .next { r with
    dev := s.boardSlot
    trust := { r.trust with vaonNew := r.trust.vaonNew || !s.power.vaon }
    power := { r.power with vaon := true } }

/-! ## REFCLK (R30) and the rails (R501) -/

/-- REFCLK_LOSS (R30): recorded at once, and every switched domain held in cold reset; the timebase goes on. -/
def refclkLoss (s : State) : State :=
  if s.power.refLost then s
  else
    let s1 : State := { s with
      power := { s.power with refLost := true, refAlert := true, heldReset := true }, tsync := { s.tsync with lock := false } }
    let s2 := withAlert s (recordReport s1 { code := 0x9002, subj := .device, time := s.time })
    { coldReset s2 with time := s2.time }

def execRefclkLoss (s : State) : Host.Outcome State Fault Refusal := .next (refclkLoss s)

/-- REFCLK_RETURN (R30): the cold reset proceeds. -/
def execRefclkReturn (s : State) : Host.Outcome State Fault Refusal :=
  if s.power.refLost then
    .next { s with time := 0, power := { s.power with
      refLost := false, refAlert := false, heldReset := !s.power.railsLow.isEmpty } }
  else .next s

/-- RAIL_LOSS (R501): a switched rail below its minimum is a cold reset, held until it returns. -/
def execRailLoss (rail : Nat) (s : State) : Host.Outcome State Fault Refusal :=
  if s.power.railsLow.contains rail then .next s
  else
    let r := coldReset s
    .next { r with power := { r.power with railsLow := r.power.railsLow ++ [rail], heldReset := true } }

/-- RAIL_RETURN (R501): the last rail is back, and the reset ends. -/
def execRailReturn (s : State) : Host.Outcome State Fault Refusal :=
  .next { s with power := { s.power with railsLow := [], heldReset := s.power.refLost } }

/-- VAON_LOSS (R501): everything kept only while VAON is present is lost with the switched domains. -/
def execVaonLoss (s : State) : Host.Outcome State Fault Refusal :=
  let r := coldReset { s with power := { s.power with vaon := false } }
  .next { r with
    glow := {}, reports := [], staging := []
    cal := { r.cal with almSec := 0, almEn := false, almFired := false, almDue := none }
    trust := { r.trust with sealedMap := [], sealedOvf := false, vaonNew := true } }

end Sys2Proof.Machine
end

