-- ==== Sys2Proof/Machine/Boot.lean ====
section
/-!
DEFINITION. Boot (R374): the Lantern stage, firmware slots (R375), the ring at a reset (R436), Marigold capsules (R202, R203),
loading the image (R366), sealed starts (R379, R392) and the release of the host.
-/

namespace Sys2Proof.Machine
open Sys2Proof

/-! ## Stages -/

/-- A stage reached, and recorded. -/
def enterStage (s : State) (n : Nat) : State :=
  withAlert s (report (modTrust s fun t => { t with stage := n }) 0x0001 .device [BitVec.ofNat 64 n])

/-- A stage that fails writes one record; the number of the reason, where the spec names none, is free. -/
def stageFailed (s : State) (n : Nat) (subj : Subject) : State :=
  report { s with freeIx := s.freeIx + 1 } 0x0002 subj [BitVec.ofNat 64 n, Config.freeW64 s.freeIx]

/-- The writer goes into service at the release of the host (R427). -/
def serviceMode (s : State) : State := modGlow s fun g => { g with mode := if g.ringFail then 2 else 1 }

/-- The device released with no image in force (R368); it runs alone, and masters its own timebase (R344). -/
def releaseNoImage (s : State) : State := resync (serviceMode (enterStage s 9))

/-! ## LANTERN -/

/-- The ring at a reset (R436): kept when VAON was present and it has not failed; otherwise tested, and filled with FIX 0 when
it passes. Whether the test passes is free. -/
def ringAtReset (s : State) : State :=
  if s.trust.vaonNew = false ∧ s.glow.ringFail = false ∧ s.glow.ringBad = [] then s
  else
    let (pass, s1) := drawBool s
    let s2 := modTrust s1 fun t => { t with vaonNew := false }
    if pass then
      let s3 := modGlow s2 fun g => { g with ring := [], ringBad := [], ringFail := false, mode := 0, drainSeq := g.nextSeq }
      writeRec s3 { code := 0xC001, sev := 0, body := [Word.fixN s3.time] }
    else modGlow s2 fun g => { g with mode := 2, ringFail := true }

/-- The flash directory (R485): its MAGIC and CRC hold. -/
def dirValid (s : State) : Bool :=
  let f := flashByte s
  let n := rdLE f 8 4
  rdLE f 0 4 == 0x5249444C && decide (n ≤ 64) && rdLE f (12 + 8 * n) 4 == crc32c (rdBytes f 0 (12 + 8 * n))

/-- The Lantern stage: lifetime block, ring, alarm, fuses and directory. -/
def lanternStage (s : State) : State :=
  let s1 := modLife (restoreLife s) fun l => { l with
    coldBoots := if s.trust.warm then l.coldBoots else (l.coldBoots + 1) % 2 ^ 32
    warmBoots := if s.trust.warm then (l.warmBoots + 1) % 2 ^ 32 else l.warmBoots, saveDue := true }
  let s2 := armAlarm (ringAtReset s1)
  let s3 := if s.part.mesh ≤ s.dev then report s2 0x0006 .device [BitVec.ofNat 64 s.dev] else s2
  if s3.trust.fuseBad then enterStage (stageFailed s3 1 .none) 0xB
  else
    let ok := dirValid s3
    let s4 := if ok then s3
      else report { s3 with freeIx := s3.freeIx + 1 } 0x0003 .none [0xFF, Config.freeW64 s3.freeIx]
    enterStage (modTrust s4 fun t => { t with active := if ok && flashByte s4 6 == 1 then 1 else 0 }) 2

/-! ## FW_VERIFY (R375) -/

/-- The flash bytes of a firmware slot, counted from its start. -/
def slotBytes (s : State) (n : Nat) : Tab Nat :=
  let base := 0x400000 + n * 0x400000
  (s.flash.bytes.filter fun e => decide (base ≤ e.1) && decide (e.1 < base + 0x400000)).map fun e => (e.1 - base, e.2)

/-- The first check that a slot fails. -/
def slotCheck (s : State) (n : Nat) : Option Nat :=
  let b := slotBytes s n
  if sha512 (Config.fwKey b) ≠ Config.rootHash then some 1
  else if Config.ecdsaVerify (Config.fwKey b) (sha512 (Config.fwSigned b)) (Config.fwSig b) = false then some 2
  else if Config.fwSvn b < s.trust.fwSvnMin then some 3 else none

/-- A slot accepted: M_FW and the history (R375, R444). -/
def acceptSlot (s : State) (n : Nat) : State :=
  let b := slotBytes s n
  let s1 := modTrust s fun t => { t with mFw := sha512 (Config.fwSigned b), fwSvn := Config.fwSvn b }
  enterStage (addHist s1 3 (Config.fwSvn b) 0) 3

def rejectSlot (s : State) (n check : Nat) : State := report s 0x0003 .none [BitVec.ofNat 64 n, BitVec.ofNat 64 check]

def verifyStage (s : State) : State :=
  let a := s.trust.active
  match slotCheck s a with
  | none => acceptSlot s a
  | some c =>
    let s1 := rejectSlot s a c
    match slotCheck s1 (1 - a) with
    | none => acceptSlot s1 (1 - a)
    | some c' => enterStage (stageFailed (rejectSlot s1 (1 - a) c') 2 .none) 0xA

/-! ## FIRMWARE (R374, R442) -/

/-- Retired ways, engines and lanes applied again from the lifetime block, and the pending rows repaired (R441, R442). -/
def applyRetired (s : State) : State :=
  let l := s.life
  let s1 := l.l2Ways.foldl (fun s e => modCluster s e.1 fun k => { k with disWays := e.2 }) s
  let s2 := l.coreWays.foldl (fun s e => modCore s e.1 fun k => { k with wayDisD := e.2 % 256, wayDisI := e.2 / 256 % 16 }) s1
  let s3 := ((List.range 64).filter fun i => l.engines / 2 ^ i % 2 == 1).foldl
    (fun s i => modEngine s (i / 2) (i % 2) fun g => { g with retired := true }) s2
  let s4 := l.lanes.foldl (fun s e => modPort s e.1 fun p => { p with retired := e.2 % 16 }) s3
  modLife s4 fun l => { l with pendRows := [] }

/-- VCORE, stacks and PCI Express brought up; DRAM is zero-filled after a cold reset (R464). -/
def firmwareStage (s : State) : State :=
  if s.trust.bootBad then releaseNoImage s
  else
    let s1 := applyRetired s
    let s2 : State := if s.trust.warm then s1 else modTrust { s1 with mem := [] } fun t => { t with stale := [] }
    enterStage { s2 with power := { s2.power with stacksAsleep := [], vcore := 800 } } 4

/-! ## SCRUB (R393) -/

def scrubStage (s : State) : State :=
  if s.trust.bootBad then releaseNoImage s
  else
    let s1 := if s.trust.sealedOvf then zeroFill s 0 s.part.dramTop else zeroGrants s s.trust.sealedMap
    enterStage (modTrust s1 fun t => { t with sealedMap := [], sealedOvf := false, stale := [] }) 5

/-! ## Marigold capsules (R202, R203) -/

/-- A microword with its patch address relocated, and its parity made good. -/
def relocate (first : Nat) (w : BitVec 168) : BitVec 168 :=
  let naddr := w.toNat / 2 ^ 146 % 2 ^ 14
  if 0x3000 ≤ naddr ∧ naddr ≤ 0x30FF then
    let n := (naddr + first) % 2 ^ 14
    let low := w.toNat % 2 ^ 146
    let high := w.toNat / 2 ^ 160 % 2 ^ 6
    let body := BitVec.ofNat 168 (high * 2 ^ 160 + n * 2 ^ 146 + low)
    BitVec.ofNat 168 (microParity body * 2 ^ 166 + body.toNat)
  else w

/-- The format and header rules (step 2). -/
def capHeaderOk (s : State) (f : Nat → Nat) : Bool :=
  let nw := rdLE f 0x14 2
  let nm := rdLE f 0x16 2
  rdLE f 0 4 == 0x4447524D && rdLE f 4 2 == 1 && rdLE f 6 2 == 0 && decide (rdLE f 0xC 2 < 8) &&
    rdLE f 0xC 2 / 2 ^ partBit s.part % 2 == 1 && rdLE f 0xE 2 == bits Config.fusedRomId 15 0 &&
    decide (s.trust.capSvnMin ≤ rdLE f 0x10 4) && decide (1 ≤ nw) && decide (nw ≤ 256) && decide (nm ≤ 64) &&
    rdLE f 0x24 4 == nw * 21 + nm * 4

/-- The key of a capsule's payload: HKDF-SHA-512 of the family key, its information "MARIGOLD" and the ROM_ID (R202). -/
def capKey (romId : Nat) : List (BitVec 8) :=
  let info : List (BitVec 8) := [0x4D, 0x41, 0x52, 0x49, 0x47, 0x4F, 0x4C, 0x44].map (BitVec.ofNat 8) ++
    [BitVec.ofNat 8 romId, BitVec.ofNat 8 (romId / 256)]
  (List.range 32).map (Config.hkdfByte Config.familyKey [] info)

/-- One capsule at a flash offset: the step that rejects it, or the state with it accepted. -/
def takeCapsule (s : State) (off len : Nat) : State :=
  let f (i : Nat) : Nat := flashByte s (off + i)
  let id := rdLE f 8 4
  let svn := rdLE f 0x10 4
  let plen := rdLE f 0x24 4
  let nw := rdLE f 0x14 2
  let nm := rdLE f 0x16 2
  let refuse (n : Nat) : State := report s 0x5002 .none [BitVec.ofNat 64 id, BitVec.ofNat 64 n]
  let whole := rdBytes f 0 (0x38 + plen + 132)
  let key := capKey (rdLE f 0xE 2)
  let iv := rdBytes f 0x18 12
  let aad := whole.take 0x38
  let cipher := (whole.drop 0x38).take plen
  let plain (i : Nat) : Nat := (Config.gcmPlainByte key iv aad cipher i).toNat
  let words := (List.range nw).map fun i => BitVec.ofNat 168 (rdLE plain (21 * i) 21)
  let ents := (List.range nm).map fun i => rdLE plain (21 * nw + 4 * i) 4
  let addr (e : Nat) : Nat := e % 2 ^ 14
  let ix (e : Nat) : Nat := e / 2 ^ 16 % 256
  let first := s.trust.patch.length
  let firstM := s.trust.matchRegs.length
  if len < 0x38 + plen + 132 ∨ 0x4000000 < off + len ∨
      Config.ecdsaVerify Config.capsuleKey (sha512 (whole.take (0x38 + plen))) (whole.drop (0x38 + plen)) = false then refuse 1
  else if capHeaderOk s f = false then refuse 2
  else if Config.gcmOpens key iv aad cipher (rdBytes f 0x28 16) = false then refuse 3
  else if !(words.all microOk) then refuse 4
  else if !(ents.all fun e => decide (addr e < 0x3000) && decide (ix e < nw) && e == addr e + ix e * 2 ^ 16) then refuse 5
  else if 256 < first + nw ∨ 64 < firstM + nm then refuse 6
  else if !decide (ents.map addr).Nodup then refuse 5
  else if ents.any fun e => s.trust.matchRegs.any fun m => m.2 / 2 ^ 16 % 2 ^ 14 == addr e then refuse 7
  else
    let s1 := modTrust s fun t => { t with
      patch := t.patch ++ ((List.range nw).zip words).map fun e => (first + e.1, relocate first e.2)
      matchRegs := t.matchRegs ++ ((List.range nm).zip ents).map fun e =>
        (firstM + e.1, 2 ^ 31 + addr e.2 * 2 ^ 16 + (first + ix e.2) % 256)
      mCaps := sha512 (t.mCaps ++ sha512 whole), capsules := t.capsules ++ [(id, svn)] }
    report (addHist s1 1 svn (BitVec.ofNat 64 id)) 0x5001 .none [BitVec.ofNat 64 id, BitVec.ofNat 64 svn]

/-- The capsules of the flash directory in order. -/
def capsuleStage (s : State) : State :=
  let f := flashByte s
  let caps := if dirValid s then (List.range (rdLE f 8 4)).map fun i => (rdLE f (12 + 8 * i) 4, rdLE f (16 + 8 * i) 4) else []
  enterStage (caps.foldl (fun s c => takeCapsule s c.1 c.2) (modTrust s fun t => { t with mCaps := zeros 64 })) 6

/-! ## IMAGE (R363, R366) -/

/-- A byte of the image slot (R485). -/
def imageByte (s : State) (i : Nat) : Nat := flashByte s (0x1000000 + i)

/-- A cluster as the image in force sets it up (R355, R360): its L2 configuration, and whether it starts OFF. -/
def loadCluster (s : State) (c : Nat) : State :=
  modCluster s c fun k => { l2cfgFrom s c k with power := if s.img.cloff / 2 ^ c % 2 = 1 then .off else .active }

/-- The ports of a mask trained, or held down on a device whose slot lies beyond the mesh (R36, R324). -/
def loadPorts (s : State) : State :=
  let n := s.part.ports
  let mesh := (List.range n).filter fun p => s.img.portmask / 2 ^ p % 2 == 1 && p != s.dev
  let refl := match s.img.reflect with
    | some r => (List.range n).filter fun p => r.portmask / 2 ^ p % 2 == 1
    | none => []
  let up (s : State) (p : Nat) : State :=
    if 2 ≤ laneCount (getPort s p).retired then holdPort s p 5 else startTraining s p
  let s1 := if s.part.mesh ≤ s.dev then mesh.foldl (fun s p => holdPort s p 6) s else mesh.foldl up s
  refl.foldl up s1

/-- Orders 1 to 7 of R366; VCORE lies within VMIN and VMAX before a cluster starts (R360). -/
def loadImage (s : State) (m : Image) : State :=
  let s1 : State := { s with
    img := m, glow := { s.glow with buckets := [] }
    power := { s.power with sealOff := m.sealoff, pcieOff := m.pcieoff
                            portsOff := (List.range 16).filter fun p => m.portoff / 2 ^ p % 2 == 1
                            vcore := max m.vmin (min m.vmax s.power.vcore) } }
  let s2 := (List.range s.part.clusters).foldl loadCluster s1
  let s3 := m.parts.foldl loadPart s2
  let s4 : State := { s3 with img := { s3.img with lock := true } }
  let s5 := loadPorts s4
  let s6 := enterRecords s5 m.flows
  resync (tryFlows s6 fun f => f.qid / 65536 == s.dev)

def imageStage (s : State) : State :=
  match validate s (imageByte s) with
  | .error e =>
    releaseNoImage (report s 0x0004 .none [BitVec.ofNat 64 e.reason, BitVec.ofNat 64 e.sect, BitVec.ofNat 64 e.rec'])
  | .ok m =>
    let s1 := report (loadImage s m) 0x0005 .none [m.id, BitVec.ofNat 64 m.svn]
    enterStage (addHist s1 2 m.svn m.id) 7

/-! ## KEYS and RELEASED (R366, R379) -/

/-- BOOTCTX of a partition started, unless its memory could not be sealed, or its contexts wait for the pair (R401). -/
def startBoot (s : State) (m : ImgPart) : State :=
  let q := getPart s m.num
  if q.mirrored || (q.sealed && !thas s.trust.keys m.num) then s else startContext s m.bootctx

/-- The pair starts to form at the release of the host (R399, R401). -/
def startPair (s : State) : State :=
  match s.img.reflect with
  | some r =>
    if s.part.hasReflect then
      { s with refl := { s.refl with state := 1, role := !r.primary, releaseTime := some s.time, lastHb := none } }
    else s
  | none => s

/-- The identity key derived, or its failure recorded; sealed memory started; then the host is released. -/
def keysStage (s : State) : State :=
  let ok := s.trust.rngOk && !s.power.sealOff
  let s1 := if ok then modTrust s fun t => { t with idKey := true }
    else report { s with freeIx := s.freeIx + 1 } 0xA003 .none [Config.freeW64 s.freeIx]
  let s2 := (s1.img.parts.map ImgPart.num).foldl startSealed s1
  let s3 := serviceMode (enterStage s2 8)
  startPair (s3.img.parts.foldl startBoot s3)

/-! ## BOOT_STAGE_COMPLETE -/

/-- The warm-reset writeback, or the stage that runs, finishes its work; not on a device that is held in reset, or that THERMTRIP gates until
a cold reset (R459). -/
def bootStageComplete (s : State) : State :=
  if s.power.heldReset || !s.power.vaon || s.power.trip then s
  else if s.trust.writeback then enterStage (modTrust (warmWriteback s) fun t => { t with writeback := false }) 1
  else match s.trust.stage with
    | 0 => enterStage s 1
    | 1 => lanternStage s
    | 2 => verifyStage s
    | 3 => firmwareStage s
    | 4 => scrubStage s
    | 5 => capsuleStage s
    | 6 => imageStage s
    | 7 => keysStage s
    | _ => s

def execBootStageComplete (s : State) : Host.Outcome State Fault Refusal := .next (bootStageComplete s)

/-- RNG_HEALTH_FAIL (R379): no sealed partition starts from now on; before KEYS, no identity key is derived either. -/
def execRngHealthFail (s : State) : Host.Outcome State Fault Refusal :=
  if s.trust.rngOk then
    .next (report { modTrust s (fun t => { t with rngOk := false }) with freeIx := s.freeIx + 1 } 0xA003 .none
      [Config.freeW64 s.freeIx])
  else .next s

end Sys2Proof.Machine
end

