-- ==== Sys2Proof/Machine/Issue.lean ====
section
/-!
DEFINITION. The barrel schedule (R82 to R84), the fetch (R69, R256), the examination and commit of a packet (R78 to R81,
R103 to R108), interrupts and asynchronous entries (R189, R286, R330), walks, fences, drains and invalidations
(R102, R147, R251, R259, R260), and the commands of these events.
-/

namespace Sys2Proof.Machine
open Sys2Proof

/-! ## Fetch -/

/-- The L1I slots of a line at a virtual address: 4 ways of set [9:3] (R206). -/
def l1iKeys (va : Nat) : List Nat := (List.range 4).map fun w => (va / 8 % 128) * 4 + w

/-- The L1I line that holds a physical line. -/
def l1iFind (k : Core) (va line : Nat) : Option Nat :=
  (l1iKeys va).find? fun i => let x := tget ({} : L1ILine) k.l1i i; x.v && x.tag == line

/-- A fetched line placed in the L1I: an invalid way that is not retired, else one of the free choice (R206). -/
def l1iInstall (s : State) (core va line : Nat) (data : List Word) : State :=
  let k := getCore s core
  let cands := (l1iKeys va).filter fun i => (k.wayDisI / 2 ^ (i % 4)) % 2 = 0
  match cands.find? fun i => !(tget ({} : L1ILine) k.l1i i).v with
  | some i => setCore s core { k with l1i := tput k.l1i i { v := true, tag := line, data } }
  | none =>
    let (n, s1) := drawNat s
    match cands[n % max 1 cands.length]? with
    | some i => setCore s1 core { k with l1i := tput k.l1i i { v := true, tag := line, data } }
    | none => s1

/-- The fetch request of a context's next packet. -/
def fetchReq (x : Ctx) : WalkReq := { va := x.pc, acc := .fetch, priv := x.priv, row := .fetch }

/-- The packet at an address as a context fetches it: the state, and the word met or the fault, once it is there; an L1I miss that the
cluster's L2 cannot serve asks the home for the line and delays, and one that meets its line in the writeback buffer is served from there
(R220). -/
def fetchAt (s : State) (c pc pa : Nat) : State × Option Word :=
  let line := pa % 2 ^ 36 / 8
  let core := coreOf c
  let cl := clusterOf c
  match l1iFind (getCore s core) pc line with
  | some i => (s, some (wordOf (tget ({} : L1ILine) (getCore s core).l1i i).data pa))
  | none =>
    let dram := cacheable s c pa && localKind s (pa % 2 ^ 36) == .dram
    let s0 := if dram && (l2Sub (getCluster s cl) line).st == .i then reclaimWb s cl line else s
    if dram && (l2Sub (getCluster s0 cl) line).st == .i then (askFill s0 c line pc .fetch, none)
    else
      let s1 := if dram then mergeL1 (settleLost s0 cl line) cl line else s0
      let data := l2Data s1 cl line
      let missed := (getCore s1 core).fills.any fun f => f.line == line && f.why == .fetch && f.missed
      let s2 := modCore (if missed then s1 else touchL2 s1 cl line) core fun k =>
        { k with fills := k.fills.filter fun f => !(f.line == line && f.why == .fetch) }
      (l1iInstall s2 core pc line data, some (wordOf data pa))

/-- Whether a held packet is the one at an address. -/
def holdsPc (f : Option Fetched) (pc : Nat) : Bool := match f with | some f => f.pc == pc | none => false

/-- FETCH_PACKET: the next packet held with the word met or the fetch fault (R69); with that packet held, the one after it is fetched
ahead, through the TLB only, and a failure is held with it (R256). -/
def fetchStep (s : State) (c : Nat) : State :=
  let x := getCtx s c
  let next := (x.pc + 1) % 2 ^ 48
  let ready := holdsPc x.fetched x.pc
  if x.run ≠ .runnable ∨ (ready = true ∧ holdsPc x.ahead next = true) then s
  else
    let pc := if ready then next else x.pc
    let hold (s : State) (w : Word ⊕ FaultRec) : State := modCtx s c fun x =>
      if ready then { x with ahead := some { pc, word := w } } else { x with fetched := some { pc, word := w } }
    match translate s c { fetchReq x with va := pc } with
    | .miss => s
    | .fault f => hold s (.inr f)
    | .ok pa _ _ =>
      match fetchAt s c pc pa with
      | (s1, some w) => hold s1 (.inl w)
      | (s1, none) => s1

def execFetchPacket (ctx : Nat) (s : State) : Host.Outcome State Fault Refusal := .next (fetchStep s ctx)

/-! ## Readiness (R82, R92, R116) -/

/-- Whether the condition that a context is parked on has cleared; a PENDING that lands for the packet itself is awaited like one that
has landed (R91, R92). -/
def parkClear (s : State) (c : Nat) : Park → Bool
  | .pending regs => !(regs.any (gPending (deliverDue (getCtx s c))))
  | .message regs => !(regs.any (gPending (deliverDue (getCtx s c))))
  | .slot => slotFree s c
  | .tlb walks => walks.isEmpty
  | .line pa va => (peekHit s c pa).isSome ||
    (!((getCore s (coreOf c)).fills.any fun f => f.line == pa % 2 ^ 36 / 8 && f.why != .fetch) && (askShared s c (pa / 8) va).isSome)
  | .storeQueue => decide (sqUsed s c < 16)
  | .inval => decide ((getCtx s c).invOut.length < 16)
  | .rangeQueue => decide ((getCluster s (clusterOf c)).rangeQ.length < 8)
  | .reissue => (getCtx s c).rq.state != 3 && (getCtx s c).slot.isNone
  | .ctxReg c' r => !gPending (getCtx s c') r
  | .epoch line => !reflWaits s c (line * 8)

/-- Steps that must pass between two issues of a context: 4, or 8 under the distance checker (R82, R108). -/
def issueGap (x : Ctx) : Nat := if x.regs.dchk then 8 else 4

/-- Runnable, not held, not halted by the debug chain or by the end of an epoch (R406), and far enough from its last issue. -/
def mayIssue (s : State) (c : Nat) : Bool :=
  let x := getCtx s c
  x.run == .runnable && x.hold == .none && !x.held && (!x.dbgHalt || x.dbgStep) &&
    (match x.lastIssue with | none => true | some l => decide (l + issueGap x ≤ (getCore s (coreOf c)).step)) &&
    (getCluster s (clusterOf c)).power == .active && !(s.refl.ending && (ctxPart s c).mirrored)

/-- An interrupt that the context takes at its next choice (R286). -/
def takesInterrupt (x : Ctx) : Bool := Nat.land x.regs.ipend x.regs.ien != 0 && (!x.priv || x.regs.ie)

/-- A fault that waits for the next packet boundary (R189, R330). -/
def entryWaits (x : Ctx) : Bool := x.nurseryFault.isSome || !x.storeFaults.isEmpty

/-- A packet that the core can examine: fetched, or waiting for a walk of its fetch (R96, R256). -/
def packetAtHand (s : State) (c : Nat) : Bool :=
  let x := getCtx s c
  holdsPc x.fetched x.pc || (match translate s c (fetchReq x) with | .miss => true | _ => false)

/-- A ready context (R82). -/
def readyCtx (s : State) (c : Nat) : Bool :=
  let x := getCtx s c
  mayIssue s c && !entryWaits x &&
    (takesInterrupt x || ((match x.park with | none => true | some p => parkClear s c p) && packetAtHand s c))

/-- The first ready context from the pointer upward, wrapping (R83). -/
def chooseCtx (s : State) (core : Nat) : Option Nat :=
  let k := getCore s core
  ((List.range 32).map fun i => core * 32 + (k.ptr + i) % 32).find? (readyCtx s)

/-- Whether step i of every 8 is one of the k that issue: exactly k are, and which they are is free (R84, R452). -/
def issuesOf8 (k i : Nat) : Bool :=
  let key (j : Nat) : Nat := Config.throttleOrder k j * 8 + j
  decide (((List.range 8).filter fun j => decide (key j < key i)).length < k)

/-- Whether the step issues at all while the core is throttled (R84, R452). -/
def stepIssues (s : State) (core : Nat) : Bool :=
  let t := (getCluster s (clusterOfCore core)).throttle
  decide (8 ≤ t) || issuesOf8 t ((getCore s core).step % 8)

/-- Whether a cluster is IDLE after a step: no context of it is ready (R453). -/
def noteIdle (s : State) (cl : Nat) : State :=
  let idle := !(s.ctxs.any fun e => clusterOf e.1 == cl && readyCtx s e.1)
  modCluster s cl fun k => { k with idle }

/-- The step counted; the pointer and the interval of the context that issued (R83). -/
def countStep (s : State) (core : Nat) : State :=
  noteIdle (modCore s core fun k => { k with step := k.step + 1 }) (clusterOfCore core)
def issuedBy (s : State) (core c : Nat) : State :=
  let at0 := (getCore s core).step
  let s1 := modCluster s (clusterOfCore core) fun k => { k with idle := false }
  modCtx (modCore s1 core fun k => { k with ptr := (c % 32 + 1) % 32, step := k.step + 1 }) c fun x =>
    { x with lastIssue := some at0, dbgStep := false }

/-! ## Examination (R78) -/

/-- A move, whether its guard passes, and what its source reads. -/
structure LiveMove where
  m : Move
  on : Bool
  val : Chk GReg

/-- The value of a source at step 2 of R80; `RS.top` can stop for its line or fault. -/
def sourceValue (s : State) (e : Env) (slot : Nat) (m : MoveSrc) : Chk GReg :=
  match m with
  | .imm w => .ok (.word w)
  | .make w => .ok (.word w)
  | .port a =>
    let p := portAt a
    if p.kind = .greg then .ok (gOf e.x (a - 0x40))
    else if a = 0x100 then .ok (.word (Word.fixN e.pc))
    else if a = 0x124 then
      let sp := latchOf (curBank e.x) pRSsp
      if sp.tag ≠ tagFIX ∨ sp.pay.toNat = 0 ∨ 2 ^ 48 < sp.pay.toNat then .ok (.word (rsTopValue s e sp))
      else do
        let w ← rsTopWord s e sp (portFault e cBAD_ADDRESS 15 slot 0 a)
        .ok (.word w)
    else if a = 0x180 then .ok (.word (Word.fixN (repeatLeft e.x)))
    else if a = 0x1AB then .ok (.word (Word.fix (syId s.dev e.pn e.c)))
    else if p.kind = .latch ∨ p.kind = .result then .ok (.word (latchOf (curBank e.x) a))
    else .ok (.word Word.zero)

/-- The register that a source port names. -/
def srcReg (m : MoveSrc) : Option Nat :=
  match m with
  | .port a => if (portAt a).kind = .greg then some (a - 0x40) else none
  | _ => none

/-- Order 6: two enabled triggers of one unit, what a repeated packet may not hold, and a gate or return while a transfer
is in flight. -/
def structureFault (e : Env) (ms : List Move) : Option Stop :=
  let trigs := ms.filter fun m => (portAt m.dest).kind == .trigger
  let second := (List.range trigs.length).findSome? fun i =>
    match trigs[i]? with
    | some m => if (trigs.take i).any fun k => (portAt k.dest).unit == (portAt m.dest).unit then some m else none
    | none => none
  match second with
  | some m => some (portFault e cDOUBLE_TRIGGER 15 m.slot 2 m.dest)
  | none =>
    let rep := match e.x.rpt with | .active _ => true | _ => false
    let bad (m : Move) : Option Nat :=
      if m.dest = 0x34 then some 2
      else if (portAt m.dest).unit = uPC ∨ m.dest = 0x1A0 ∨ m.dest = 0x1A1 then some 3 else none
    match if rep then trigs.findSome? fun m => (bad m).map fun x => (m, x) else none with
    | some (m, x) => some (portFault e cILLEGAL_REPEAT 15 m.slot 2 m.dest x)
    | none =>
      if e.x.xfers.isEmpty then none
      else (trigs.find? fun m => m.dest == 0x1A0 || m.dest == 0x1A1).map fun m =>
        portFault e cDOUBLE_TRIGGER 15 m.slot 2 m.dest

/-- The result port of the unit that will deliver a flag (R108). -/
def flagPort (u : Nat) : Nat := if u = uAL then portAL else if u = uGA then portGA else portTG

/-- The distance checker on a guard, a source and a destination (R108). -/
def guardDistance (e : Env) (m : Move) : Option Stop :=
  if !e.x.regs.dchk then none
  else
    ((curBank e.x).inflight.find? fun v => (guardFlags m.guard).any (fun f => v.dest == .flag f) && decide (e.n < v.vis)).map
      fun v => portFault e cDISTANCE 15 m.slot 0 (flagPort v.unit) (min 15 (v.vis - e.n))

def sourceDistance (e : Env) (m : Move) : Option Stop :=
  if !e.x.regs.dchk then none
  else match m.src with
    | .port a =>
      let d := match srcReg m.src with | some r => Dest.greg r | none => Dest.port a
      (waitFor e d).map fun k => portFault e cDISTANCE 15 m.slot 0 a (min 15 k)
    | _ => none

def destDistance (e : Env) (m : Move) : Option Stop :=
  if !e.x.regs.dchk then none
  else
    let p := portAt m.dest
    if p.kind = .greg then (waitFor e (.greg (m.dest - 0x40))).map fun k => portFault e cDISTANCE 15 m.slot 1 m.dest (min 15 k)
    else if p.kind = .trigger then
      let k := cancelLeft (curBank e.x) p.unit e.n
      if k = 0 then none else some (portFault e cDISTANCE 15 m.slot 2 m.dest (min 15 k))
    else none

/-- The position of the trigger operand in its unit's operand order (R117, R119, R124). -/
def operandPos (port : Nat) : Nat :=
  let u := (portAt port).unit
  if u = uAL ∨ u = uGA then 1 else if u = uFM then 2 else 0

/-- DIR of a fault that concerns a move's destination: 2 for a trigger, 1 for a latch or register (R139). -/
def destDir (port : Nat) : Nat := if (portAt port).kind = .trigger then 2 else 1

/-- What stops a trigger, by its place in R78: a fault is order 7, and so comes before what any later move meets, as does the park of
a gate's PENDING arguments (R282); a walk, a wait, a held slot or a region-table fault (R507) is order 8. -/
def byOrder : Chk (Chk Effect) → Chk (Chk Effect)
  | .ok (.error (.fault f)) => .error (.fault f)
  | .ok (.error (.absent f ops)) => .error (.absent f ops)
  | .ok (.error (.failed r f)) => .error (.failed r f)
  | .ok (.error (.argument rs)) => .error (.argument rs)
  | .error (.late f) => .ok (.error (.late f))
  | .error (.park q) => .ok (.error (.park q))
  | .error (.evac w gen) => .ok (.error (.evac w gen))
  | .error (.far w pa) => .ok (.error (.far w pa))
  | r => r

/-- Order 7 for one move: its word, and what order 8 examines, for a trigger or a source that waits for its walk or line.
DESIGN CHOICE (log entry 49): the distance check of the guard comes first of the move and is made of a disabled move too (R108), and a
read of a failed mark (R95) faults after the source's checks and before the destination's. -/
def examineMove (s : State) (e : Env) (lm : LiveMove) : Chk (Word × Option (Chk Effect)) := do
  let m := lm.m
  let none' (o : Option Stop) : Chk Unit := match o with | some st => .error st | none => .ok ()
  none' (guardDistance e m)
  if !lm.on then return (Word.zero, none)
  match m.src with
  | .port a => none' ((sourceFault a e.priv).map fun c => portFault e c 15 m.slot 0 a)
  | .make w => none' ((creationFault e.p e.priv w).map fun c => portFault e c 15 m.slot (destDir m.dest) m.dest)
  | .imm _ => .ok ()
  none' (sourceDistance e m)
  let p := portAt m.dest
  match lm.val with
  | .error (.park q) =>
    none' ((destFault m.dest e.priv).map fun c => portFault e c 15 m.slot (destDir m.dest) m.dest)
    none' (destDistance e m)
    .ok (Word.zero, some (.error (.park q)))
  | .error st => .error st
  | .ok (.failed f _ _) => .error (.failed ((srcReg m.src).getD 0) f)
  | .ok (.pending _) => .error (.park (.pending []))
  | .ok (.word w) =>
    if w.tag = tagPENDING then .error (.argument []) else
    match operandFault e.p p.op w with
    | some c =>
      if c = cPOISON_USE then .error (.fault (poisonFault (BitVec.ofNat 64 e.pc) w))
      else if p.kind = .trigger then .error (portFault e c (operandPos m.dest) m.slot 2 m.dest)
      else .error (portFault e c 15 m.slot 1 m.dest)
    | none =>
      none' ((destFault m.dest e.priv).map fun c => portFault e c 15 m.slot (destDir m.dest) m.dest)
      none' (destDistance e m)
      if (m.dest = pDSsp ∨ m.dest = pDSlim) ∧ (w.tag ≠ tagFIX ∨ isVaddr w.pay = false) then
        .error (portFault e cBAD_ADDRESS 15 m.slot 1 m.dest)
      else if p.kind = .trigger then
        let eff ← byOrder (trigger { e, slot := m.slot, port := m.dest } s w)
        .ok (w, some eff)
      else .ok (w, none)

/-- Order 7 for every move in move order. -/
def examineAll (s : State) (e : Env) : List LiveMove → Chk (List (Word × Option (Chk Effect)))
  | [] => .ok []
  | lm :: rest => do
    let r ← examineMove s e lm
    let rs ← examineAll s e rest
    .ok (r :: rs)

/-- Order 8: the effects of the triggers in move order; every TLB miss of the packet is walked (R96, R251). -/
def collectEffects : List (Chk Effect) → List WalkReq → List Effect → Chk (List Effect)
  | [], [], es => .ok es.reverse
  | [], ws, _ => .error (.park (.tlb ws))
  | .ok ef :: rest, ws, es => collectEffects rest ws (ef :: es)
  | .error (.park (.tlb w)) :: rest, ws, es => collectEffects rest (ws ++ w) es
  | .error st :: _, [], _ => .error st
  | .error _ :: _, ws, _ => .error (.park (.tlb ws))

/-- The resources of the whole packet: one miss slot, and room for all its stores. DESIGN CHOICE (log entry 49): a packet of which two
moves need the slot is parked for it and issued again, for as long as both need it (R90). -/
def packetRoom (s : State) (c : Nat) (es : List Effect) : Chk (List Effect) :=
  if 1 < (es.filter Effect.slot).length then .error (.park .slot)
  else if 16 < sqUsed s c + (es.map Effect.stores).foldl (· + ·) 0 ∧
      0 < (es.map Effect.stores).foldl (· + ·) 0 then .error (.park .storeQueue)
  else .ok es

/-- The first iteration of an armed repeat is a repeated packet (R103). -/
def beginRepeat (x : Ctx) : Ctx := match x.rpt with | .armed n => { x with rpt := .active n } | _ => x

/-- What the checks see (R80). -/
def envOf (s : State) (c : Nat) (x : Ctx) : Env :=
  { c, x, b := curBank x, p := ctxPart s c, pn := partOf s c, priv := x.priv, pc := x.pc, n := (curBank x).count + 1
    seq := s.nextSeq, aemu := x.regs.aemuV && x.aemuPc == some (x.pc, x.priv) }

/-- The bank with the latches written by the packet, in move order (R80 step 3). -/
def latchMoves (b : Bank) (ms : List (Move × Word)) : Bank :=
  ms.foldl (fun b e => if (portAt e.1.dest).kind = .latch then setLatch b e.1.dest e.2 else b) b

/-- A packet that passed orders 1 to 8: what it writes and starts. -/
structure Ready where
  e : Env
  writes : List (Move × Word)
  effs : List Effect

/-- A move with what its source reads; a source that order 7 refuses, or of a disabled move, is not read. -/
def liveMove (s : State) (e : Env) (m : Move) : LiveMove :=
  let on := guardPasses m.guard (curBank e.x).flags
  let bad := match m.src with | .port a => (sourceFault a e.priv).isSome | _ => false
  { m, on, val := if bad || !on then .ok (.word Word.zero) else sourceValue s e m.slot m.src }

/-- The examination of a context's packet (R78). -/
def examine (s : State) (c : Nat) (word : Word) : Chk Ready :=
  let x := beginRepeat (deliverDue (getCtx s c))
  let e0 := envOf s c x
  let pcw := BitVec.ofNat 64 x.pc
  if word.tag = tagPOISON then .error (.fault (poisonFault pcw word))
  else if word.tag ≠ tagCODE then .error (.fault { cause := cFETCH_TAG, faddr := pcw, info := field word.tag.toNat 8 })
  else match decodePacket word.pay with
    | none => .error (.fault { cause := cILLEGAL_PACKET, faddr := pcw, info := field (bits word.pay 63 60) 0 })
    | some pk =>
      let moves := packetMoves pk
      match moves.findSome? fun m => m.bad.map fun x => (m, x) with
      | some (m, ext) => .error (.fault { cause := cILLEGAL_MOVE, faddr := pcw, info := portInfo 15 15 m.slot 1 m.dest, ext })
      | none => do
        let fl := (curBank x).flags
        let on := moves.filter fun m => guardPasses m.guard fl
        let pend := on.filterMap fun m => match srcReg m.src with | some r => if gPending x r then some r else none | none => none
        if !pend.isEmpty then .error (.park (.pending pend))
        else match structureFault e0 on with
          | some st => .error st
          | none => do
            let vals := moves.map (liveMove s e0)
            let words := (vals.filter LiveMove.on).filterMap fun lm => match lm.val with | .ok (.word w) => some (lm.m, w) | _ => none
            let e : Env := { e0 with b := latchMoves e0.b words }
            let rs ← examineAll s e vals
            let effs ← collectEffects (rs.filterMap Prod.snd) [] []
            let effs' ← packetRoom s c effs
            .ok { e, writes := words, effs := effs' }

/-! ## Commit (R80, R89, R103 to R106) -/

/-- The program counter turned to a packet: one fetched ahead of it is at hand, another is dropped (R256). -/
def turnTo (x : Ctx) (pc : Nat) : Ctx :=
  { x with pc, fetched := if holdsPc x.ahead pc then x.ahead else none, ahead := none }

/-- The program counter after a commit: transfers come one packet nearer, a repeat goes on or ends, and a transfer that is due takes the
place of the successor. DESIGN CHOICE (log entry 49): of two transfers that a repeat held until its end, or that are due with it, the
last takes effect (R106). -/
def advance (x : Ctx) : Ctx :=
  let xf := x.xfers.map fun t => { t with dist := t.dist - 1 }
  let go (rpt : Repeat) : Ctx :=
    match xf.filter fun t => t.dist == 0 with
    | [] => turnTo { x with rpt, xfers := xf } ((x.pc + 1) % 2 ^ 48)
    | t :: ts =>
      let last := ((t :: ts).getLast?).getD t
      turnTo { x with rpt, xfers := xf.filter fun t => t.dist != 0 } last.target
  match x.rpt with
  | .active n => if 1 < n then { x with rpt := .active (n - 1), xfers := xf } else go .none
  | r => go r

/-- A fetch-ahead failure that a control transfer replaces, counted in `PFDROP` (R237, R256). -/
def countAhead (s : State) (c : Nat) : State :=
  let x := getCtx s c
  match x.ahead with
  | some { pc, word := .inr _ } =>
    if (advance x).ahead = x.ahead ∨ (advance x).pc = pc then s
    else modCore s (coreOf c) fun k => { k with pfdrop := (k.pfdrop + 1) % 2 ^ 64 }
  | _ => s

/-- The failed mark of a register that a packet has read (R95), or that a delivery due at that packet brings it, is reported. -/
def tellFail (x : Ctx) (r : Nat) : Ctx :=
  let told (d : Delivery) : Delivery := match d.dest, d.val with
    | .greg q, .failed f op _ => if q = r ∧ d.vis ≤ (curBank x).count + 1 then { d with val := .failed f op true } else d
    | _, _ => d
  let x1 := match gOf x r with
    | .failed f op _ => setG x r (.failed f op true)
    | _ => x
  modCurBank x1 fun b => { b with inflight := b.inflight.map told }

/-- The commit of a packet (R80). -/
def commit (s : State) (c : Nat) (r : Ready) : State :=
  let x := r.e.x
  let x1 := modCurBank x fun _ => { r.e.b with count := r.e.n }
  let aemuV := x.regs.aemuV && !r.e.aemu
  let s1 := setCtx (lostFails s c x) c { x1 with
    park := none, walks := [], derefs := [], lastIssue := (getCtx s c).lastIssue, regs := { x1.regs with aemuV } }
  let s2 := r.writes.foldl (fun s e =>
    if (portAt e.1.dest).kind = .greg then writeG s c (e.1.dest - 0x40) e.2 else s) s1
  let s3 := (r.effs.filter fun f => !f.after).foldl (fun s f => f.run s) s2
  let s4 := modCtx (countAhead s3 c) c advance
  let s5 := (r.effs.filter fun f => f.after).foldl (fun s f => f.run s) s4
  if (getCtx s5 c).run = .resetting then contextReset s5 c else s5

/-- A packet refused for an operation of its own that holds the miss slot (R148): the operation begins when the slot is free. -/
def takeSlot (s : State) (c : Nat) (kind : OpKind) (result : Option OpResult) : State :=
  let s1 := modCtx s c fun x => { x with park := some .slot, walks := [] }
  if slotFree s c then
    let (id, s2) := freshOp (yieldPrefetch s1 c)
    modCtx s2 c fun x => { x with
      slot := some { id, kind, dsts := [], pc := x.pc, priv := x.priv, seq := s2.nextSeq, result } }
  else onPark s1 c .slot

/-- What stops a packet: a fault entry, a park, or the start of an evacuation or of a dereference at another device (R78, R148). -/
def stopPacket (s : State) (c : Nat) : Stop → State
  | .fault f => faultEntry (modCtx (tellSealed s c f) c fun x => { x with park := none, derefs := [] }) c f
  | .late f => faultEntry (modCtx (tellSealed s c f) c fun x => { x with park := none, derefs := [] }) c f
  | .failed r f => faultEntry (modCtx (tellSealed s c f) c fun x => { tellFail x r with park := none, derefs := [] }) c { f with deferred := true }
  | .argument regs => onPark (modCtx s c fun x => { x with park := some (.pending regs), walks := [] }) c (.pending regs)
  | .absent f ops =>
    faultEntry (modCtx s c fun x => { x with
      park := none, regs := { x.regs with aemuOps := ops } }) c f
  | .park p =>
    let keep := match p with | .tlb _ => true | _ => false
    let s1 := modCtx s c fun x => { x with park := some p, walks := if keep then x.walks else [] }
    match p with
    | .tlb (req :: _) => walkBegin s1 c req
    | p => onPark s1 c p
  | .evac w gen => takeSlot s c (.evacuate (ptrAddr w)) (some (.words [w, Word.fixN gen]))
  | .far w pa => takeSlot s c (.derefFar pa (ptrAddr w) w) none

/-- A colour that software wrote to `BARCTL` on an AH-9128L reaches the context at its next packet (R159). -/
def takeColour (x : Ctx) : Ctx := { x with regs := { x.regs with goodc := x.regs.goodcDue.getD x.regs.goodc, goodcDue := none } }

/-- A context's issue: the packet at its program counter, or the skip of R103. DESIGN CHOICE (log entry 49): the skip of a repeat of
count 0 uses the issue step and drops whatever was fetched for the packet, a fault too. -/
def issueCtx (s : State) (c : Nat) : State :=
  let s := modCtx s c takeColour
  let x := getCtx s c
  match x.fetched with
    | none => stopPacket s c (.park (.tlb [fetchReq x]))
    | some f =>
      if f.pc ≠ x.pc then stopPacket s c (.park (.tlb [fetchReq x]))
      else if x.rpt = .armed 0 then
        setCtx s c (turnTo { x with rpt := .none, park := none, walks := [] } ((x.pc + 1) % 2 ^ 48))
      else match f.word with
        | .inr fault => stopPacket s c (.fault fault)
        | .inl w =>
          match examine s c w with
          | .ok r => commit s c r
          | .error st => stopPacket s c st

/-! ## Parity errors that the packet's accesses meet (R222, R223, R249) -/

/-- A tag or entry lost, with its report; dirty data under it is lost with its address (R223). -/
def parityLoss (s : State) (core : Nat) : ParityLoss → State
  | .l1d i =>
    let x := tget ({} : L1Slot) (getCore s core).l1d i
    let dirty := (x.subs.filter fun e => e.2.v && e.2.d).map fun e => x.tag * 4 + e.1
    report (modCore s core fun k => { k with l1d := tdel k.l1d i, lost := k.lost ++ dirty }) 0x2003
      (.cacheWay core 1 (i % 8)) [BitVec.ofNat 64 (i / 8)]
  | .l2 i =>
    let cl := clusterOfCore core
    let x := tget ({} : L2Slot) (getCluster s cl).l2 i
    let t := x.tag.getD 0
    let own := fun (j : Nat) => (coresOf cl).any fun k => match l1Sub? (getCore s k) (t * 4 + j) with | some b => b.d | none => false
    let dirty := (x.subs.filter fun e => e.2.st == .m || own e.1).map fun e => t * 4 + e.1
    let lose (k : Core) : Core := (List.range 4).foldl (fun k j => dropL1 k (t * 4 + j)) k
    let s1 := { s with cores := s.cores.map (fun e => if clusterOfCore e.1 = cl then (e.1, lose e.2) else e) }
    report (modCluster s1 cl fun k => { k with l2 := tdel k.l2 i, lost := k.lost ++ dirty }) 0x2003
      (.cacheWay cl 2 (i % 16)) [BitVec.ofNat 64 (i / 16)] (some (.core core))
  | .l1i i =>
    report (modCore s core fun k => { k with l1i := tdel k.l1i i }) 0x2003 (.cacheWay core 0 (i % 4)) [BitVec.ofNat 64 (i / 4)]
  | .engineTlb en i => report (modEngine s (clusterOfCore core) en fun e => { e with tlb := tdel e.tlb i }) 0x4001 (.core core)
    [BitVec.ofNat 64 i]
  | .rangeTlb i => report (modCluster s (clusterOfCore core) fun k => { k with rangeTlb := tdel k.rangeTlb i }) 0x4001 (.core core)
    [BitVec.ofNat 64 i]
  | .reg j r => modCtx s (core * 32 + j % 32) fun x =>
    match gOf x r with
    | .word _ => setG x r (.word (poisonWord 6 0))
    | _ => x
  | .tlb i => report (modCore s core fun k => { k with tlb := tdel k.tlb i }) 0x4001 (.core core) [BitVec.ofNat 64 i]
    (some (match chooseCtx s core with | some c => .context c | none => .core core))

/-- PACKET_ISSUE: one step of a core. A chosen context that takes an interrupt is left to INTERRUPT_TAKEN. -/
def packetIssue (s : State) (core : Nat) (loss : Option ParityLoss) : State :=
  let s0 := match loss with | some l => parityLoss s core l | none => s
  if !stepIssues s0 core then countStep s0 core
  else match chooseCtx s0 core with
    | none => countStep s0 core
    | some c => if takesInterrupt (getCtx s0 c) then s0 else issueCtx (issuedBy s0 core c) c

def execPacketIssue (core : Nat) (loss : Option ParityLoss) (s : State) : Host.Outcome State Fault Refusal :=
  .next (packetIssue s core loss)

/-- INTERRUPT_TAKEN (R286): the entry in place of the packet of the context that the schedule chooses. -/
def interruptTaken (s : State) (core : Nat) : State :=
  if !stepIssues s core then s
  else match chooseCtx s core with
    | none => s
    | some c =>
      if takesInterrupt (getCtx s c)
      then interruptEntry (modCtx (issuedBy s core c) c fun x => { x with park := none }) c else s

def execInterruptTaken (core : Nat) (s : State) : Host.Outcome State Fault Refusal := .next (interruptTaken s core)

/-! ## Other entries -/

/-- Whether an entry can be made at the context's packet boundary (R189). -/
def boundaryOpen (x : Ctx) : Bool := x.run == .runnable && x.hold == .none && !x.held && (!x.dbgHalt || x.dbgStep)

/-- An asynchronous entry with a fault's cause (R99, R189, R330). -/
def asyncEntry (s : State) (c : Nat) (f : FaultRec) : State :=
  let x := getCtx s c
  enterNow s c
    { kind := kFAULT, cause := f.cause, faddr := addr48 f.faddr, finfo := finfoOf f x.priv (inRepeat x), resume := x.pc
      target := evecOf s c }

def deferredStoreFault (s : State) (c : Nat) : State :=
  let x := getCtx s c
  match x.storeFaults with
  | [] => s
  | f :: rest => if boundaryOpen x then asyncEntry (setCtx s c { x with storeFaults := rest }) c f else s

def execDeferredStoreFaultEntry (ctx : Nat) (s : State) : Host.Outcome State Fault Refusal := .next (deferredStoreFault s ctx)

def nurserySuspend (s : State) (c : Nat) : State :=
  let x := getCtx s c
  match x.nurseryFault with
  | none => s
  | some f => if boundaryOpen x then asyncEntry (setCtx s c { x with nurseryFault := none }) c f else s

def execNurserySuspendEntry (ctx : Nat) (s : State) : Host.Outcome State Fault Refusal := .next (nurserySuspend s ctx)

/-- RECEIVE_WAIT_WITHDRAW (R301): the wait leaves the list and the slot frees; a wait that a message was assigned to stays. -/
def receiveWithdraw (s : State) (c : Nat) : State :=
  let x := getCtx s c
  if !x.recvEntry then s
  else match x.slot with
    | some m =>
      match m.kind, m.result with
      | .recv _ true, none =>
        let s1 := removeWaiter (setCtx s c { x with slot := none, withdrawn := some m, recvEntry := false }) c
        match x.park with
        | some (.pending regs) => touchPending (settleSlot s1 c) c regs
        | some (.message regs) => touchPending (settleSlot s1 c) c regs
        | _ => settleSlot s1 c
      | _, _ => setCtx s c { x with recvEntry := false }
    | none => setCtx s c { x with recvEntry := false }

def execReceiveWaitWithdraw (ctx : Nat) (s : State) : Host.Outcome State Fault Refusal := .next (receiveWithdraw s ctx)

/-! ## Walks, fences and drains -/

/-- A walk of a core that waits for a place in the walker begun (R251). DESIGN CHOICE (log entry 49): of several the lowest-numbered
context's. -/
def beginWaiting (s : State) (core : Nat) : State :=
  let waits (c : Nat) : Option (Nat × WalkReq) :=
    let x := getCtx s c
    match x.park with
    | some (.tlb (req :: _)) => if x.walking then none else some (c, req)
    | _ => none
  match ((List.range 32).map (core * 32 + ·)).findSome? waits with
  | some (c, req) => walkBegin s c req
  | none => s

/-- TLB_WALK_COMPLETE (R251): the walk that the context awaits first; one whose compare-and-swap fails is begun again. A walk that waits
for one of the walker's four places has not begun. -/
def tlbWalkComplete (s : State) (c : Nat) : State :=
  let x := getCtx s c
  match x.park with
  | some (.tlb (req :: rest)) =>
    if !x.walking then walkBegin s c req
    else match walkFor s c req with
    | (s1, false) => s1
    | (s1, true) =>
      let s2 := modCtx s1 c fun x => { x with park := some (.tlb rest) }
      match rest with
      | next :: _ => walkBegin s2 c next
      | [] => beginWaiting s2 (coreOf c)
  | _ => s

def execTlbWalkComplete (ctx : Nat) (s : State) : Host.Outcome State Fault Refusal := .next (tlbWalkComplete s ctx)

/-- The kinds of operation that an ACQUIRE fence waits for (R147). -/
def acquireWaits : OpKind → Bool
  | .routine | .recv .. | .prefetch .. => false
  | _ => true

def slotAcquired (x : Ctx) : Bool := match x.slot with | some m => !acquireWaits m.kind | none => true

/-- The condition of a fence kind (R147), but for the log entries of DRAIN. -/
def fenceHolds (s : State) (c kind : Nat) : Bool :=
  let x := getCtx s c
  match kind with
  | 1 => slotAcquired x
  | 2 => storesDone s c x.fenceSeq
  | _ => slotAcquired x && storesDone s c x.fenceSeq

/-- Whether a message of a core's log buffer is on its way. -/
def logsOfCore (s : State) (core part : Nat) : Bool :=
  let log (m : Msg) : Bool := m.part == part && (match m.kind with | .satb k _ => k == core | _ => false)
  s.msgs.any log || s.outbox.any fun e => log e.msg

/-- FENCE_WAIT_END: a DRAIN fence first has the core's log buffer flushed and its messages placed (R168). -/
def fenceEnd (s : State) (c : Nat) : State :=
  let x := getCtx s c
  match x.hold with
  | .fence kind =>
    if !fenceHolds s c kind then s
    else
      let core := coreOf c
      let p := partOf s c
      if kind = 3 ∧ (logOf (getCore s core) p).isEmpty = false then flushLog s core p
      else if kind = 3 ∧ logsOfCore s core p = true then s
      else setCtx s c { x with hold := .none }
  | _ => s

def execFenceWaitEnd (ctx : Nat) (s : State) : Host.Outcome State Fault Refusal := .next (fenceEnd s ctx)

/-- Whether every operation of the U bank has completed (R102); a suspended request or wait counts as completed. -/
def uComplete (x : Ctx) : Bool := !(opInFlight x x.u) && (match x.slot with | some m => m.priv | none => true)

def udrainEnd (s : State) (c : Nat) : State :=
  let x := getCtx s c
  if x.hold = .udrain ∧ uComplete x = true then setCtx (lostFails s c (drainU x)) c { drainU x with hold := .none } else s

def execUdrainWaitEnd (ctx : Nat) (s : State) : Host.Outcome State Fault Refusal := .next (udrainEnd s ctx)

/-! ## Invalidations (R258 to R260) -/

/-- A unit's matching entries and walk results removed, the faulting ones too; a packet that has not committed is translated again, and
an engine's segment begins again (R259). -/
def removeEntries (s : State) (v : Inval) : TransUnit → State
  | .core k =>
    let s1 := modCore s k fun x => { x with tlb := x.tlb.filter fun e => !invalMatches v e.2 }
    (List.range 32).foldl (fun s i =>
      let c := k * 32 + i
      let x := getCtx s c
      let keep (w : WalkRes) : Bool := match w.res with | .inl e => !invalMatches v e | .inr _ => false
      if !owned s c || partOf s c != v.part then s
      else setCtx s c { x with walks := x.walks.filter keep, fetched := none, ahead := none }) s1
  | .engine cl i => modCluster s cl fun k =>
      let g := tget ({} : Engine) k.engines i
      { k with engines := tput k.engines i { g with
          tlb := g.tlb.filter (fun e => !invalMatches v e.2), remBuf := [], heals := [], micro := g.micro0, e := if g.micro.isSome then g.e0 else g.e } }
  | .range cl => modCluster s cl fun k => { k with rangeTlb := k.rangeTlb.filter fun e => !invalMatches v e.2 }

/-- Whether a unit is powered; in RETAIN the invalidation wakes its cluster first (R454). -/
def unitOn (s : State) (u : TransUnit) : Bool :=
  let cl := match u with
    | .core k => clusterOfCore k
    | .engine c _ => c
    | .range c => c
  (getCluster s cl).power != .retain

/-- TLBI_RECEIVE: the oldest invalidation that the unit has not received, once its issuer's earlier stores are visible. -/
def tlbiReceive (s : State) (u : TransUnit) : State :=
  match s.invals.find? fun v => unitOn s u && v.toRemove.contains u && storesDone s v.ctx v.seq with
  | none => s
  | some v =>
    let s1 := removeEntries s v u
    { s1 with invals := s1.invals.map fun w =>
        if w.id = v.id then { w with toRemove := w.toRemove.filter (· != u), marks := (u, s.nextSeq, s.nextOp) :: w.marks } else w }

def execTlbiReceive (unit : TransUnit) (s : State) : Host.Outcome State Fault Refusal := .next (tlbiReceive s unit)

/-- Whether every access translated before the removal has completed (R259 item 3). -/
def accessesDone (s : State) (v : Inval) (u : TransUnit) : Bool :=
  match u with
  | .core k =>
    let mark := (v.marks.find? fun m => m.1 == u).map Prod.snd
    let (sq, op) := mark.getD (s.nextSeq, s.nextOp)
    (List.range 32).all fun i =>
      let c := k * 32 + i
      !(owned s c && partOf s c == v.part) ||
        (storesDone s c sq && match (getCtx s c).slot with
          | some m => !acquireWaits m.kind || decide (op ≤ m.id)
          | none => true)
  | .engine cl i => !(s.remotes.any fun q => q.who == .engine cl i || q.who == .heal cl (some i)) && (engineOf s cl i).stores.isEmpty
  | .range _ => true

/-- TLBI_ACK: the unit's acknowledgement; the last one ends the invalidation and may end its issuer's hold. -/
def tlbiAck (s : State) (u : TransUnit) : State :=
  match s.invals.find? fun v => unitOn s u && !v.toRemove.contains u && v.toAck.contains u && accessesDone s v u with
  | none => s
  | some v =>
    let left := v.toAck.filter (· != u)
    if left.isEmpty then
      modCtx { s with invals := s.invals.filter fun w => w.id != v.id } v.ctx fun x =>
        let hold := match x.hold with
          | .tlbsync ids => if (ids.filter (· != v.id)).isEmpty then .none else .tlbsync (ids.filter (· != v.id))
          | h => h
        { x with invOut := x.invOut.filter (· != v.id), hold }
    else { s with invals := s.invals.map fun w => if w.id = v.id then { w with toAck := left } else w }

def execTlbiAck (unit : TransUnit) (s : State) : Host.Outcome State Fault Refusal := .next (tlbiAck s unit)

end Sys2Proof.Machine
end

