-- ==== Sys2Proof/Machine/Power.lean ====
section
/-!
DEFINITION. The power controller (R31, R32, R449 to R457), the thermal limits (R458, R459), the timebase comparators with the
context timers, the watchdog and the calendar alarm (R460 to R462), and the registers of both blocks (R467).
-/

namespace Sys2Proof.Machine
open Sys2Proof

def modPower (s : State) (f : Power → Power) : State := { s with power := f s.power }

/-! ## Power domains (R31): 0 to 31 clusters, 32 to 35 die uncores, 36 to 43 stacks, 44 to 59 ports, 60 PCI Express,
61 Sealing -/

/-- The status of the last request to switch a domain off: 0 done, 1 DOMAIN_BUSY (R32). -/
def setDomLast (s : State) (n : Nat) : State := modPower s fun p => { p with domLast := n }

/-- A refusal to switch a domain off: its status and its record (R32). -/
def domainBusy (s : State) (d : Nat) : State := report (setDomLast s 1) 0x9001 .none [BitVec.ofNat 64 d]

/-- The contexts that a cluster holds anything for. -/
def clusterCtxs (s : State) (cl : Nat) : List (Nat × Ctx) := s.ctxs.filter fun e => clusterOf e.1 == cl

/-- Conditions 1 to 5 of R455. -/
def mayGoOff (s : State) (cl : Nat) : Bool :=
  let k := getCluster s cl
  (clusterCtxs s cl).all (fun e => e.2.run == .notStarted && e.2.rq.state == 0) &&
    k.rangeQ.isEmpty && rangeOwing s cl == 0 && k.spWays == 0 &&
    !(s.queues.any fun e => e.2.enabled && queueHome s e.1 == cl) &&
    !(s.flows.any fun e => e.2.admitted &&
        (e.2.cluster == cl || (e.2.qid / 65536 == s.dev && queueHome s (e.2.qid % 65536) == cl))) &&
    !(s.inFlows.any fun f => queueHome s f.queue == cl)

def setClState (s : State) (cl : Nat) (p : ClState) : State := modCluster s cl fun k => { k with power := p }
def setClLast (s : State) (n : Nat) : State := modPower s fun p => { p with clLast := n }

/-- `CLCMD` OFF (R455): refused, or the drain starts. -/
def clusterOff (s : State) (cl : Nat) : State :=
  if s.part.clusters ≤ cl then setClLast s 2
  else if (getCluster s cl).power = .off then setClLast s 0
  else if mayGoOff s cl then setClLast (setClState s cl .draining) 3
  else domainBusy (setClLast s 1) cl

/-- The drain (R455): L1Ds and L2 cleaned and invalidated, locked slots freed, and every line homed at the cluster recalled. -/
def drainCluster (s : State) (cl : Nat) : State :=
  let own := (coresOf cl).flatMap (fun k => (getCore s k).l1d.flatMap (fun i => i.2.subs.map fun b => i.2.tag * 4 + b.1) ++
      (getCore s k).evict.map EvictEnt.line ++ (getCore s k).lost) ++
    (getCluster s cl).l2.flatMap (fun i => match i.2.tag with
      | some t => i.2.subs.map fun b => t * 4 + b.1
      | none => []) ++ (getCluster s cl).wb.map WbEnt.line ++ (getCluster s cl).lost
  let homed := (s.dir.map Prod.fst).filter fun l => homeOf s l == cl
  let s1 := (own ++ homed).foldl flushLine s
  modCluster s1 cl fun k => { k with l2 := [] }

/-- The contents of a cluster that is off: lost, but for its retired ways and engines and the LFSRs, which a warm or cold reset alone sets (R250). -/
def loseCluster (s : State) (cl : Nat) : State :=
  let lostCtx (e : Nat × Ctx) : Nat × Ctx :=
    if clusterOf e.1 = cl then (e.1, { regs := resetRegs (ctxPart s e.1) {} }) else e
  let lostCore (e : Nat × Core) : Nat × Core :=
    if clusterOfCore e.1 = cl then (e.1, { wayDisD := e.2.wayDisD, wayDisI := e.2.wayDisI, lfsr := e.2.lfsr }) else e
  let k := getCluster s cl
  setCluster { s with ctxs := s.ctxs.map lostCtx, cores := s.cores.map lostCore } cl
    { power := .off, disWays := k.disWays, penWays := k.penWays, rangeLfsr := k.rangeLfsr
      engines := k.engines.map fun g => (g.1, { retired := g.2.retired, lfsr := g.2.lfsr }) }

/-- CLUSTER_DRAIN_DONE (R455): the conditions are checked again, and the cluster switches off or stays on. -/
def drainDone (s : State) (cl : Nat) : State :=
  if (getCluster s cl).power ≠ .draining then s
  else if mayGoOff s cl then setClLast (loseCluster (drainCluster s cl) cl) 0
  else domainBusy (setClLast (setClState (drainCluster s cl) cl .active) 1) cl

/-- `CLCMD` ON (R456). -/
def clusterOn (s : State) (cl : Nat) : State :=
  if s.part.clusters ≤ cl then setClLast s 2 else setClLast (clusterBack s cl) 0

def execClcmdOff (cluster : Nat) (s : State) : Host.Outcome State Fault Refusal := .next (clusterOff s cluster)
def execClusterDrainDone (cluster : Nat) (s : State) : Host.Outcome State Fault Refusal := .next (drainDone s cluster)
def execClcmdOn (cluster : Nat) (s : State) : Host.Outcome State Fault Refusal := .next (clusterOn s cluster)

/-- A write of `CLCMD` (R467). -/
def clcmdWrite (s : State) (v : W64) : State :=
  match bits v 3 0 with
  | 0 => s
  | 1 => clusterOff s (bits v 12 8)
  | 2 => clusterOn s (bits v 12 8)
  | _ => setClLast s 2

/-! ## RETAIN (R454) -/

/-- A sleeping context. -/
def ctxSleeps (x : Ctx) : Bool :=
  match x.run with
  | .notStarted | .haltedFault => true
  | .resetting => false
  | .runnable =>
    (match x.park, x.slot with
      | some (.pending regs), some { kind := .recv _ true, result := none, id, .. } => regs.any fun r => gOf x r == .pending id
      | _, _ => false) && x.u.inflight.isEmpty && x.s.inflight.isEmpty && !takesInterrupt x

/-- No partition whose Collector works in the cluster is in a cycle; that of a sealed partition works in its own clusters alone (R178). -/
def cyclesRest (s : State) (cl : Nat) : Bool :=
  s.parts.all fun e => e.2.phase == phIDLE || (e.2.sealed && !(ctxsOf s e.1).any fun c => clusterOf c == cl)

/-- Every context of the cluster sleeps, and nothing runs in its engines. -/
def clusterSleeps (s : State) (cl : Nat) : Bool :=
  let k := getCluster s cl
  (clusterCtxs s cl).all (fun e => ctxSleeps e.2) && k.reqQ.isEmpty && k.rangeQ.isEmpty &&
    k.engines.all (fun g => g.2.serving.isNone) && cyclesRest s cl &&
    s.invals.all (fun v => v.toRemove.all fun u => match u with
      | .core n => clusterOfCore n != cl
      | .engine c _ => c != cl
      | .range c => c != cl)

/-- CLUSTER_RETAIN_ENTRY (R454): the cluster has slept for RETDLY µs. -/
def retainEntry (s : State) (cl : Nat) : State :=
  let d := s.power.retdly
  match s.power.idleSince.find? fun e => e.1 == cl with
  | some (_, t) =>
    if (getCluster s cl).power = .active ∧ d ≠ 0 ∧ t + d * 1000 ≤ s.time ∧ clusterSleeps s cl = true then setClState s cl .retain else s
  | none => s

def execClusterRetainEntry (cluster : Nat) (s : State) : Host.Outcome State Fault Refusal := .next (retainEntry s cluster)

/-- CLUSTER_WAKE (R454): something addressed to the cluster waits; it takes effect once the cluster is ACTIVE. -/
def clusterWake (s : State) (cl : Nat) : State :=
  if (getCluster s cl).power = .retain ∧ clusterSleeps s cl = false then
    modPower (setClState s cl .active) fun p => { p with idleSince := tdel p.idleSince cl }
  else s

def execClusterWake (cluster : Nat) (s : State) : Host.Outcome State Fault Refusal := .next (clusterWake s cluster)

/-! ## The other domains (R31, R32, R457) -/

/-- STACK_SELF_REFRESH (R457): the stack has had no access for SRDLY µs. -/
def stackSleep (s : State) (st : Nat) : State :=
  if s.power.srdly = 0 ∨ s.part.stacks ≤ st ∨ s.power.stacksAsleep.contains st then s
  else modPower s fun p => { p with stacksAsleep := p.stacksAsleep ++ [st] }

def execStackSelfRefresh (stack : Nat) (s : State) : Host.Outcome State Fault Refusal := .next (stackSleep s stack)

/-- Whether the device serves an admitted flow (R338). -/
def servesFlow (s : State) : Bool := s.flows.any (fun e => e.2.admitted) || !s.inFlows.isEmpty

/-- The clusters, stacks and ports of a die are all off or in self-refresh, and no admitted flow can cross it: while the device serves one, a
die that may lie on its path stays on (R31, R338). -/
def dieQuiet (s : State) (d : Nat) : Bool :=
  !(servesFlow s && decide (2 < s.part.dies)) &&
  (List.range 8).all (fun i => (getCluster s (d * 8 + i)).power == .off) &&
    (List.range 2).all (fun i => s.power.stacksAsleep.contains (d * 2 + i)) &&
    (List.range 4).all (fun i => s.power.portsOff.contains (d * 4 + i))

/-- A port carries no route, reservation or control relay (R31). -/
def portQuiet (s : State) (p : Nat) : Bool :=
  !(s.routes.any fun r => r.2.2 == p) && !(s.flows.any fun e => e.2.admitted && e.2.qid / 65536 == p && p != s.dev) &&
    !(s.inFlows.any fun f => f.dev == p) && !((getPort s p).waiting.any fun f => f.typ == 3 && f.dst != p) &&
    (getPort s p).st != 2 && (getPort s p).st != 5

/-- POWER_DOMAIN_OFF_REQUEST (R31, R32, R457): checked, then performed or refused. DESIGN CHOICE (log entry 49): a stack that is not in
self-refresh counts as holding data that must be kept. -/
def domainOff (s0 : State) (d : Nat) : State :=
  let s := setDomLast s0 0
  if d < 32 then clusterOff s d
  else if d < 36 then
    if s.part.dies ≤ d - 32 then s
    else if dieQuiet s (d - 32) then modPower s fun p => { p with diesOff := (p.diesOff.filter (· != d - 32)) ++ [d - 32] }
    else domainBusy s d
  else if d < 44 then (if s.power.stacksAsleep.contains (d - 36) || decide (s.part.stacks ≤ d - 36) then s else domainBusy s d)
  else if d < 60 then
    let p := d - 44
    if s.part.ports ≤ p then s
    else if portQuiet s p then
      modPower (modPort s p fun l => { freshLink l s.time with st := 0, step := 0 }) fun q =>
        { q with portsOff := (q.portsOff.filter (· != p)) ++ [p] }
    else domainBusy s d
  else if d = 60 then (if s.hostIf.linkUp then domainBusy s d else modPower s fun p => { p with pcieOff := true })
  else if d = 61 then
    if (s.parts.any fun e => e.2.defined && e.2.sealed) || s.refl.authed then domainBusy s d
    else modTrust (modPower s fun p => { p with sealOff := true }) fun t => { t with keys := [] }
  else s

def execPowerDomainOffRequest (domain : Nat) (s : State) : Host.Outcome State Fault Refusal := .next (domainOff s domain)

/-- POWER_DOMAIN_WAKE (R32, R456, R457): a domain that a request woke is on again. A port switched off by the image stays off,
and the Sealing unit until the next reset. -/
def domainWake (s : State) (d : Nat) : State :=
  if s.power.trip || s.power.heldReset then s
  else if d < 32 then clusterBack s d
  else if d < 36 then modPower s fun p => { p with diesOff := p.diesOff.filter (· != d - 32) }
  else if d < 44 then stackBack s (d - 36)
  else if d = 60 ∧ s.img.pcieoff = false then modPower s fun p => { p with pcieOff := false }
  else s

def execPowerDomainWake (domain : Nat) (s : State) : Host.Outcome State Fault Refusal := .next (domainWake s domain)

/-! ## VCORE and throttling (R451, R452, R496) -/

/-- The highest floor, and the lowest ceiling where `cap` is the voltage that PLIMIT allows. -/
def vcoreFloor (s : State) : Nat := max s.img.vmin (if servesFlow s then 800 else 0)
def vcoreCeiling (s : State) (cap : Nat) : Nat := min (min s.img.vmax cap) (if 100 ≤ s.power.tj then 800 else s.img.vmax)

/-- A wanted voltage within the limits; the floor wins. -/
def vcoreWithin (s : State) (want cap : Nat) : Nat := max (vcoreFloor s) (min want (vcoreCeiling s cap))

/-- A throttle that the controller chooses: which clusters, and k from 1 to 7, are free (R452). -/
def throttleSome (s : State) : State :=
  (List.range s.part.clusters).foldl (fun s c =>
    let (some', s1) := drawBool s
    let (n, s2) := drawNat s1
    modCluster s2 c fun k => { k with throttle := if some' then n % 7 + 1 else 8 }) s

def throttleAll (s : State) (k : Nat) : State :=
  (List.range s.part.clusters).foldl (fun s c => modCluster s c fun x => { x with throttle := k }) s

/-- VCORE_ADJUST (R451, R452): every 10 µs; `busy` is the percentage of issuing steps of the busiest cluster, `watts` the package
power and `cap` the voltage in mV at which it stays within PLIMIT. Without a regulator VCORE stays at 0.80 V. At 100 °C or
more whether throttling holds the reading is free. -/
def vcoreAdjust (s : State) (busy watts cap : Nat) : State :=
  if s.power.trip || s.power.heldReset then s
  else
    let v := s.power.vcore
    let want := if 75 < busy then v + 5 else if busy < 25 then v - 5 else v
    let v1 := if s.power.regulator then vcoreWithin s want cap else 800
    let (hold, s1) := drawBool s
    let above := decide (vcoreCeiling s cap < v1) || (decide (100 ≤ s.power.tj) && hold)
    let s2 := modPower s1 fun p => { p with vcore := v1, watts := watts % 1024, throttle := above || p.vrqAlert }
    if s.power.vrqAlert then throttleAll s2 4 else if above then throttleSome s2 else throttleAll s2 8

def execVcoreAdjust (busy watts cap : Nat) (s : State) : Host.Outcome State Fault Refusal := .next (vcoreAdjust s busy watts cap)

/-- VRQ_ALERT (R496): while the line is low every cluster issues in at most 4 of 8 steps. -/
def vrqAlert (s : State) (low : Bool) : State :=
  throttleAll (modPower s fun p => { p with vrqAlert := low, throttle := low }) (if low then 4 else 8)

def execVrqAlert (asserted : Bool) (s : State) : Host.Outcome State Fault Refusal := .next (vrqAlert s asserted)

/-! ## Temperature (R338, R458, R459) -/

/-- Every flow that the device serves withdrawn as for a failed link (R338, R342). -/
def withdrawHot (s : State) : State :=
  let carries (p : Nat × Link) : Bool :=
    (p.2.st == 2) && (!(flowsTo s p.2.peerDev).isEmpty || s.inFlows.any fun f => f.dev == p.2.peerDev)
  let s1 := ((s.ports.filter carries).map Prod.fst).foldl (fun s p => linkFail s p 4) s
  ((s1.flows.filter fun e => e.2.admitted).map Prod.fst).foldl failFlow s1

/-- THERMAL_LIMIT_CHANGE (R458): a new hottest reading. -/
def thermalChange (s : State) (tj : Nat) : State :=
  let s1 := modPower s fun p => { p with
    tj := tj % 256, hot := decide (95 ≤ tj), nosun := p.nosun || decide (105 < tj)
    hotSince := if 105 < tj then some (p.hotSince.getD s.time) else none
    hotPeak := if 105 < tj then max p.hotPeak tj else 0
    hotCounted := p.hotCounted && decide (105 < tj)
    coolSince := if tj ≤ 100 then some (p.coolSince.getD s.time) else none }
  let s2 := if 100 ≤ tj then modPower s1 fun p => { p with vcore := max (vcoreFloor s1) (min p.vcore 800) } else s1
  if 105 < tj then withdrawHot s2 else s2

def execThermalLimitChange (tj : Nat) (s : State) : Host.Outcome State Fault Refusal := .next (thermalChange s tj)

/-- THERMAL_EXCURSION (R458): 1 s above 105 °C. -/
def thermalExcursion (s : State) : State :=
  match s.power.hotSince with
  | some t =>
    if s.power.hotCounted = false ∧ t + 10 ^ 9 ≤ s.time then
      report (modLife (modPower s fun p => { p with hotCounted := true }) fun l => { l with thermExc := (l.thermExc + 1) % 2 ^ 32 })
        0x9003 .device [BitVec.ofNat 64 s.power.hotPeak]
    else s
  | none => s

def execThermalExcursion (s : State) : Host.Outcome State Fault Refusal := .next (thermalExcursion s)

/-- THERMAL_READMISSION (R342, R458): 1 s at or below 100 °C; flows are tried again in admission order. -/
def thermalReadmit (s : State) : State :=
  match s.power.coolSince with
  | some t =>
    if s.power.nosun = true ∧ t + 10 ^ 9 ≤ s.time then
      tryFlows (modPower s fun p => { p with nosun := false }) fun f => !f.admitted
    else s
  | none => s

def execThermalReadmission (s : State) : Host.Outcome State Fault Refusal := .next (thermalReadmit s)

/-- THERMTRIP (R459): clusters, ports and PCI Express gated, every stack in self-refresh, recorded at once. -/
def thermtrip (s : State) : State :=
  if s.power.trip then s
  else
    let peak := max 120 (max s.power.hotPeak s.power.tj)
    let s1 := modLife (modPower s fun p => { p with trip := true, tj := max 120 p.tj, hot := true, nosun := true, pcieOff := true
                                                    stacksAsleep := List.range s.part.stacks })
      fun l => { l with thermTrips := (l.thermTrips + 1) % 2 ^ 32 }
    let s2 := withAlert s (recordReport s1
      { code := 0x9004, subj := .device, pay := [BitVec.ofNat 64 peak], time := s.time })
    let s3 := (List.range s.part.clusters).foldl loseCluster s2
    let s4 := { s3 with dir := [], hostIf := { s3.hostIf with linkUp := false } }
    s4.ports.foldl (fun s e => modPort s e.1 fun l =>
      { freshLink l s.time with st := if l.st = 4 then 4 else 0, step := 0 }) s4

def execThermtrip (s : State) : Host.Outcome State Fault Refusal := .next (thermtrip s)

/-! ## Comparators (R460) -/

/-- The deadline of the watchdog while it runs (R462). -/
def wdDeadline (s : State) : Option Nat :=
  if s.power.wdEn && s.power.wdPeriod != 0 then s.power.wdStart.map (· + s.power.wdPeriod * 1000000) else none

/-- The comparators that have reached their deadline, with the deadline. -/
def dueList (s : State) : List (Nat × Nat) :=
  let wd := (wdDeadline s).toList.map fun d => (0, d)
  let alm := s.cal.almDue.toList.map fun d => (1, d)
  let tm := s.ctxs.filterMap fun e => e.2.timer.map fun d => (e.2.timerCmp, d)
  (wd ++ alm ++ tm).filter fun e => decide (e.2 ≤ s.time)

/-- Whether a comparator is the next to fire: in the order of deadlines, and by number at one deadline. -/
def mayFire (s : State) (n : Nat) : Bool :=
  match (dueList s).find? fun e => e.1 == n with
  | some (_, d) => (dueList s).all fun e => decide (d < e.2) || (decide (d = e.2) && decide (n ≤ e.1))
  | none => false

/-- `IPEND`.TIMER set (R285). -/
def setTimerPend (s : State) (c : Nat) : State :=
  modCtx s c fun x => { x with regs := { x.regs with ipend := Nat.lor x.regs.ipend 4 } }

/-- CONTEXT_TIMER_EXPIRY (R461). -/
def timerExpiry (s : State) (c : Nat) : State :=
  match (getCtx s c).timer with
  | some _ =>
    if mayFire s (getCtx s c).timerCmp then modCtx (setTimerPend s c) c fun x => { x with timer := none, timerCmp := 0 } else s
  | none => s

def execContextTimerExpiry (ctx : Nat) (s : State) : Host.Outcome State Fault Refusal := .next (timerExpiry s ctx)

/-- The comparators that context timers hold. -/
def timersArmed (s : State) : List Nat := (s.ctxs.filter fun e => e.2.timer.isSome).map fun e => e.2.timerCmp

def setTmLast (s : State) (p n : Nat) : State := modPart s p fun q => { q with tmLast := n }

/-- A write of `TMDL` (R461). -/
def tmdlWrite (s : State) (p : Nat) (w : Word) : State :=
  let c := (getPart s p).tmctx
  if w.tag ≠ tagFIX then s
  else if owned s c = false ∨ partOf s c ≠ p then setTmLast s p 2
  else if w.pay = 0 then setTmLast (modCtx s c fun x => { x with timer := none, timerCmp := 0 }) p 0
  else
    let arm (n : Nat) : State :=
      let s1 := setTmLast s p 0
      if w.pay.toNat ≤ s.time then modCtx (setTimerPend s1 c) c fun x => { x with timer := none, timerCmp := 0 }
      else modCtx s1 c fun x => { x with timer := some w.pay.toNat, timerCmp := n }
    if (getCtx s c).timer.isSome then arm (getCtx s c).timerCmp
    else match ((List.range 1022).map (2 + ·)).find? fun n => !(timersArmed s).contains n with
      | some n => arm n
      | none => setTmLast s p 1

def execTmdlWrite (part : Nat) (w : Word) (s : State) : Host.Outcome State Fault Refusal := .next (tmdlWrite s part w)

/-- A write of `TMCTX` (R467). -/
def tmctxWrite (s : State) (p : Nat) (w : Word) : State :=
  let c := bits w.pay 13 0
  if w.tag ≠ tagFIX then s
  else if owned s c && partOf s c == p then modPart s p fun q => { q with tmctx := c } else setTmLast s p 2

/-! ## Watchdog and alarm (R462) -/

/-- PERIOD starts again. -/
def wdRestart (s : State) : State := modPower s fun p => { p with wdStart := if p.wdEn then some s.time else none }

/-- WDCTL_KICK: a write of KICK. -/
def execWdctlKick (s : State) : Host.Outcome State Fault Refusal := .next (wdRestart s)

/-- A write of `WDCTL` (R467). -/
def wdctlWrite (s : State) (w : Word) : State :=
  if w.tag ≠ tagFIX then s
  else
    let rise := bit w.pay 0 && !s.power.wdEn
    let s1 := modPower s fun p => { p with
      wdPeriod := bits w.pay 63 32, wdExpired := p.wdExpired && !bit w.pay 3, wdAction := bit w.pay 2, wdEn := bit w.pay 0
      wdStart := if bit w.pay 0 then p.wdStart else none }
    if rise || bit w.pay 1 then wdRestart s1 else s1

def execWdctlEnable (w : Word) (s : State) : Host.Outcome State Fault Refusal := .next (wdctlWrite s w)

/-- WATCHDOG_EXPIRY. -/
def watchdogFire (s : State) : State :=
  if mayFire s 0 then
    let s1 := withAlert s (modPower s fun p => { p with wdExpired := true, wdStart := none })
    if s.power.wdAction then warmReset s1 else s1
  else s

def execWatchdogExpiry (s : State) : Host.Outcome State Fault Refusal := .next (watchdogFire s)

/-- CALALM_EXPIRY: `HMSTAT`.ALARM is set and entry 0 of the physical function signalled (R477, R478). -/
def alarmFire (s : State) : State :=
  if mayFire s 1 then
    let s1 := withAlert s { s with
      cal := { s.cal with almFired := true, almDue := none }, hostIf := { s.hostIf with alarm := true } }
    signalMsix s1 0 0
  else s

def execCalalmExpiry (s : State) : Host.Outcome State Fault Refusal := .next (alarmFire s)

/-! ## Registers (R467) -/

def pwrctlReg (s : State) : W64 := field s.power.plimit 32 ||| field s.power.retdly 16 ||| field s.power.srdly 0

/-- A write of `PWRCTL`: a PLIMIT out of range is discarded, and the field keeps its value. -/
def pwrctlWrite (s : State) (v : W64) : State :=
  let lim := bits v 41 32
  let ok := decide (100 ≤ lim) && decide (lim ≤ packageLimit s.part)
  modPower s fun p => { p with plimit := if ok then lim else p.plimit, retdly := bits v 31 16, srdly := bits v 15 0 }

def pwrstatReg (s : State) : W64 :=
  let p := s.power
  field (p.tj % 256) 48 ||| field (p.vcore % 1024) 38 ||| field (p.watts % 1024) 28 ||| flagBit p.trip 3 ||| flagBit p.nosun 2 |||
    flagBit p.throttle 1 ||| flagBit p.hot 0

def clcmdReg (s : State) : W64 := field s.power.clLast 16

/-- STATE of one cluster: IDLE from the first step at which no context of it is ready (R453). -/
def clstateOf (s : State) (cl : Nat) : Nat :=
  if s.part.clusters ≤ cl then 3
  else match (getCluster s cl).power with
    | .off => 3
    | .retain => 2
    | _ => if (getCluster s cl).idle then 1 else 0

def clstateReg (s : State) : W64 := (List.range 32).foldl (fun v c => v ||| field (clstateOf s c) (2 * c)) 0

def wdctlReg (s : State) : W64 :=
  field s.power.wdPeriod 32 ||| flagBit s.power.wdExpired 3 ||| flagBit s.power.wdAction 2 ||| flagBit s.power.wdEn 0

def tmctxReg (s : State) (p : Nat) : W64 := field (getPart s p).tmctx 0
/-- `TMDL` reads the deadline of the context that `TMCTX` selects, 0 where it is no longer the partition's. -/
def tmdlReg (s : State) (p : Nat) : W64 :=
  let c := (getPart s p).tmctx
  if owned s c && partOf s c == p then BitVec.ofNat 64 ((getCtx s c).timer.getD 0) else 0
def tmstatReg (s : State) (p : Nat) : W64 := field (getPart s p).tmLast 12 ||| field (1022 - (timersArmed s).length) 0

end Sys2Proof.Machine
end

