-- ==== Sys2Proof/Machine/Sealing.lean ====
section
/-!
DEFINITION. The Sealing block of a partition (R390, R391, R397, R398), the runtime measurement (R384) and the reports of
R382, signed with the identity key (R375).
-/

namespace Sys2Proof.Machine
open Sys2Proof

/-! ## The window (R390, R391) -/

def setSlLast (s : State) (p n : Nat) : State := modPart s p fun q => { q with slLast := n }

/-- Whether a range of local words lies in one grant of a partition. -/
def inOneGrant (q : Partition) (lo n : Nat) : Bool := q.grants.any fun g => decide (g.1 ≤ lo) && decide (lo + n ≤ g.1 + g.2)

/-- A local address inside the open window of a partition. -/
def inWindow (q : Partition) (a : Nat) : Bool := decide (q.winBase ≤ a) && decide (a < q.winBase + q.slwinl)

/-- One line of a window while it is filled: FIX 0 in every word, or POISON in every word, which of them is free. -/
def fillLine (s : State) (line : Nat) : State :=
  let (z, s1) := drawBool (discardLine s line)
  let word (i : Nat) : Word := if z then Word.zero else poisonWord 4 (s.dev * 2 ^ 36 + line * 8 + i)
  writeWords s1 (line * 8) ((List.range 8).map word)

def fillLines (s : State) (lo n : Nat) : State := (List.range (n / 8)).foldl (fun s i => fillLine s (lo / 8 + i)) s

/-- A write of `SLWINL` (R391, R397). -/
def slwinlWrite (s : State) (p : Nat) (w : Word) : State :=
  let q := getPart s p
  let n := bits w.pay 35 10 * 1024
  if w.tag ≠ tagFIX then setSlLast s p 4
  else if q.sealed = false then setSlLast s p 6
  else if q.winFill.isSome then setSlLast s p 5
  else if n ≠ 0 ∧ inOneGrant q q.slwinb n = false then setSlLast s p 2
  else
    let s1 := fillLines (fillLines s q.winBase q.slwinl) q.slwinb n
    modPart s1 p fun q => { q with winFill := some (q.winBase, q.slwinl, q.slwinb, n), winBase := q.slwinb, slwinl := n }

def execSlwinlWrite (part : Nat) (w : Word) (s : State) : Host.Outcome State Fault Refusal := .next (slwinlWrite s part w)

/-- WINDOW_FILL_DONE (R391): every line of both windows is FIX 0. -/
def windowFillDone (s : State) (p : Nat) : State :=
  match (getPart s p).winFill with
  | some (b0, n0, b1, n1) => modPart (zeroFill (zeroFill s b0 n0) b1 n1) p fun q => { q with winFill := none, slLast := 0 }
  | none => s

def execWindowFillDone (part : Nat) (s : State) : Host.Outcome State Fault Refusal := .next (windowFillDone s part)

/-! ## Memory whose keys are gone (R385, R386) -/

/-- A line that a sealed partition left under keys that a reset has discarded, as the first access meets it: its ciphertext in the place of its
words, or, where the code of an ordinary line rejects what is stored, POISON; which of the two is free (R40, R41). -/
def settleStale (s : State) (line : Nat) : State :=
  let a := line * 8
  let within (g : Nat × Nat) : Bool := decide (g.1 ≤ a) && decide (a < g.1 + g.2)
  match s.trust.stale.find? fun e => e.grants.any within && !within e.window && !e.done.contains line with
  | none => s
  | some e =>
    let (lost, s1) := drawBool s
    let word (i : Nat) : Word := poisonWord 0 (s.dev * 2 ^ 36 + a + i)
    let ws := if lost then (List.range 8).map word else symbolWords (sealedCipher e.keys line (memLine s line))
    modTrust (writeWords s1 a ws) fun t => { t with stale := t.stale.map fun f => { f with done := line :: f.done } }

/-! ## Reports (R375, R382) -/

/-- Bytes of a fixed length: the list, filled up with zero bytes. -/
def padBytes (n : Nat) (bs : List (BitVec 8)) : List (BitVec 8) := (bs ++ zeros n).take n

/-- The characters of a label as bytes. -/
def asciiBytes (t : String) : List (BitVec 8) := t.toList.map fun c => BitVec.ofNat 8 c.toNat

/-- The material of the identity key (R375): 74 bytes derived from UDS. -/
def identityKey : List (BitVec 8) := (List.range 74).map (Config.hkdfByte Config.uds [] (asciiBytes "AEDANAHEL-ID"))

/-- The identity public key, uncompressed (R375). -/
def identityPublic : List (BitVec 8) := (List.range 133).map (Config.publicKeyByte identityKey)

/-- The FLAGS byte of a report. -/
def reportFlags (s : State) (p : Option Nat) : Nat :=
  let q := match p with | some i => getPart s i | none => {}
  b2n q.sealed + b2n q.mirrored * 2 + s.trust.dbgLevel % 4 * 4 + b2n q.reformed * 16

/-- The signed part of a report: of a partition, or of the device. -/
def reportBody (s : State) (p : Option Nat) (nonce user : List (BitVec 8)) : List (BitVec 8) :=
  let inForce := s.img.inForce
  le 4 0x52545441 ++ le 2 1 ++ le 1 (if p.isSome then 1 else 0) ++ le 1 (p.getD 0xFF) ++ le 1 (reportFlags s p) ++
    le 1 (partCode s.part) ++ le 1 Config.fusedStepping ++ le 1 s.dev ++ le 2 (bits Config.fusedRomId 15 0) ++ zeros 2 ++
    le 4 s.trust.fwSvn ++ le 4 (if inForce then s.img.svn else 0) ++ le 8 (if inForce then s.img.id.toNat else 0) ++
    le 8 s.time ++ le 8 s.cal.sec ++ padBytes 64 nonce ++ padBytes 64 s.trust.mFw ++ padBytes 64 s.trust.mCaps ++
    (if inForce then padBytes 64 s.img.digest else zeros 64) ++ (if inForce then sha512 s.img.owner else zeros 64) ++
    (match p with
      | some i => sha512 (match imgPart s i with | some m => m.bytes | none => []) ++ padBytes 64 (getPart s i).mrun
      | none => zeros 128) ++
    padBytes 64 user

/-- A whole report: 692 bytes. -/
def reportBytes (s : State) (p : Option Nat) (nonce user : List (BitVec 8)) : List (BitVec 8) :=
  let body := reportBody s p nonce user
  body ++ (List.range 132).map (Config.ecdsaSignByte identityKey (sha512 body))

/-- Whether attestation is available (R379): KEYS has derived the identity key. -/
def attestOk (s : State) : Bool := s.trust.idKey && !s.power.sealOff

/-! ## Commands (R384, R398) -/

/-- Bytes packed into RAW words, eight to a word, the first least significant (R398). -/
def packWords (bs : List (BitVec 8)) : List Word :=
  (List.range ((bs.length + 7) / 8)).map fun k => ⟨tagRAW, BitVec.ofNat 64 (natOfBytesLE ((bs.drop (8 * k)).take 8))⟩

/-- The bytes of n words of local memory. -/
def readBytes (s : State) (a n : Nat) : List (BitVec 8) := (List.range n).flatMap fun i => bytesLE (cohRead s (a + i)).pay

/-- The buffer check: in a grant of the partition, and no word of it in its window. -/
def bufferOk (q : Partition) (a n : Nat) : Bool :=
  inOneGrant q a n && !(q.slwinl != 0 && decide (a < q.winBase + q.slwinl) && decide (q.winBase < a + n))

/-- A Sealing-block command taken, its input read. -/
def takeSlcmd (s : State) (p cmd words total : Nat) : State :=
  let q := getPart s p
  if q.slCmd.isSome then setSlLast s p 5
  else if bufferOk q q.slbuf total = false then setSlLast s p 1
  else if attestOk s = false ∧ cmd = 1 then setSlLast s p 3
  else modPart s p fun q => { q with slCmd := some (cmd, q.slbuf, readBytes s q.slbuf words) }

def execSlcmdAttest (part : Nat) (s : State) : Host.Outcome State Fault Refusal := .next (takeSlcmd s part 1 16 103)
def execSlcmdExtend (part : Nat) (s : State) : Host.Outcome State Fault Refusal := .next (takeSlcmd s part 2 8 8)

/-- Words written coherently from an address. -/
def putWords (s : State) (a : Nat) (ws : List Word) : State :=
  ((List.range ws.length).zip ws).foldl (fun s e => homeWrite s (a + e.1) e.2) s

/-- SEALING_COMMAND_DONE (R398): the report is visible, or M_RUN extended, before CBUSY is 0. -/
def sealingDone (s : State) (p : Nat) : State :=
  let finish (s : State) : State := modPart s p fun q => { q with slCmd := none, slLast := 0 }
  match (getPart s p).slCmd with
  | some (1, a, bs) => finish (putWords s (a + 16) (packWords (reportBytes s (some p) (bs.take 64) (bs.drop 64))))
  | some (_, _, bs) => finish (modPart s p fun q => { q with mrun := sha512 (padBytes 64 q.mrun ++ bs) })
  | none => s

def execSealingCommandDone (part : Nat) (s : State) : Host.Outcome State Fault Refusal := .next (sealingDone s part)

/-- A write of `SLCMD`. -/
def slcmdWrite (s : State) (p : Nat) (v : W64) : State :=
  match bits v 3 0 with
  | 0 => s
  | 1 => takeSlcmd s p 1 16 103
  | 2 => takeSlcmd s p 2 8 8
  | _ => setSlLast s p (if (getPart s p).slCmd.isSome then 5 else 4)

/-- A write of a register of the Sealing block; a word that is not FIX is BAD_COMMAND. -/
def sealingWrite (s : State) (p off : Nat) (w : Word) : State :=
  if off = 1 then slwinlWrite s p w
  else if 4 ≤ off then s
  else if w.tag ≠ tagFIX then setSlLast s p 4
  else match off with
    | 0 => modPart s p fun q => { q with slwinb := bits w.pay 35 10 * 1024 }
    | 2 => modPart s p fun q => { q with slbuf := bits w.pay 35 3 * 8 }
    | _ => slcmdWrite s p w.pay

/-- A register of the Sealing block (R397). -/
def sealingReg (s : State) (p off : Nat) : W64 :=
  let q := getPart s p
  match off with
  | 0 => field q.slwinb 0
  | 1 => field q.slwinl 0
  | 2 => field q.slbuf 0
  | 4 => field q.slLast 8 ||| flagBit q.sealed 2 ||| flagBit q.winFill.isSome 1 ||| flagBit q.slCmd.isSome 0
  | _ => 0

end Sys2Proof.Machine
end

