-- ==== Sys2Proof/Machine/Broif.lean ====
section
/-!
DEFINITION. The Broif ports: training and lanes (R320, R324, R325), the link layer (R314 to R316, R319, R323), violations
(R345), the control messages of peers (R322), remote requests served and answered (R327 to R333), acknowledgements of
messages (R318), the synchronisation of the timebase (R321, R343, R344), and the port registers (R347).
-/

namespace Sys2Proof.Machine
open Sys2Proof

/-! ## Training (R320, R324, R325) -/

/-- Every credit of a virtual channel's receive buffer (R316). -/
def fullCredits : Tab Nat := [(0, 32), (1, 768), (2, 512), (3, 256), (4, 512), (5, 256)]

/-- A retraining that the control path orders (R322, R324): a port isolated, with too few lanes or beyond the mesh stays held. -/
def orderRetrain (s : State) (port : Nat) : State :=
  let p := getPort s port
  match p.st with
  | 2 | 5 => retrainPort s port [retrainFlit none]
  | 3 => if p.reason = 1 ∨ p.reason = 2 ∨ p.reason = 4 then startTraining s port else s
  | _ => s

/-- A training attempt ends, and with it what a port that retrained still carried (R342); after eight within 1 s the port is held
down (R324). -/
def attemptFailed (s0 : State) (port : Nat) : State :=
  let s := dropTraffic s0 port
  let recent := ((getPort s port).attempts ++ [s.time]).filter fun t => decide (s.time < t + 10 ^ 9)
  if 8 ≤ recent.length then holdPort (modPort s port fun p => { p with attempts := [] }) port 4
  else startTraining (modPort s port fun p => { p with attempts := recent }) port

/-- What the control path does once a mesh port is UP (R324 step 6, R326, R342): routes, then flows in admission order. -/
def portUp (s : State) (dev : Nat) : State :=
  let s1 := recheckLink (openRoutes (syncBoard s) dev) dev
  if s1.tsync.lock then tryFlows s1 fun f => !f.admitted && f.qid / 65536 == dev else s1

/-- The lanes of a mask that are in service. -/
def alignedLanes (p : Link) (lanes : Nat) : Nat := Nat.land (lanes % 16) (15 - p.retired % 16)

/-- Each lane of a mask that is missing from another charged one error (R325). -/
def chargeMissing (s : State) (port want lanes : Nat) : State :=
  ((List.range 4).filter fun l => want / 2 ^ l % 2 == 1 && lanes / 2 ^ l % 2 == 0).foldl (fun s l => chargeLane s port l) s

/-- A training step begun. -/
def trainStep (s : State) (port n : Nat) : State := modPort s port fun p => { p with step := n, stepTime := s.time }

/-- Step 4 (R35, R36, R400): the wiring and the part that the TRAIN exchange has shown; the port is held down where they are wrong. -/
def trainChecks (s : State) (port : Nat) : State :=
  let p := getPort s port
  let twin := match s.img.reflect with | some r => r.twin | none => 0
  let wired := if isReflPort s port then p.peerDev == twin && p.peerPort == port else p.peerDev == port && p.peerPort == s.dev
  if !wired then holdPort s port 1
  else if p.peerPart ≠ partCode s.part then holdPort s port 2
  else trainStep s port 5

/-- Step 5: every credit at both ends, and the port UP; what had not been acknowledged before a retraining is sent again under the new credits
(R316). -/
def trainUp (s : State) (port : Nat) : State :=
  let refl := isReflPort s port
  let s1 := modPort s port fun q => { q with
    st := if refl then 5 else 2, step := 0, credits := fullCredits, attempts := [], ackTime := s.time, sinceCtrl := 16
    resend := q.replay, uncredited := q.replay.length, faultLane := none }
  if refl then s1 else portUp s1 (getPort s port).peerDev

/-- What a TRAIN flit of the peer shows (R320). -/
def trainHear (s : State) (port : Nat) (v : W64) (tSend : Nat) : State :=
  modPort s port fun q => { q with
    offered := true, trainEcho := tSend, trainHeard := s.time, peerDev := bits v 59 56, peerPart := bits v 55 48, peerPort := bits v 47 44 }

/-- TRAIN_FLIT (R320): in step 3 it moves the exchange on, an ECHO giving the round trip (R313); before it no flit can be received; outside
training it is a violation. -/
def trainFlit (s : State) (port : Nat) (v : W64) (tSend tEcho tTurn : Nat) : State :=
  let p := getPort s port
  if p.st ≠ 1 then (if p.st = 4 then s else countViolation s port 4)
  else if p.step ≠ 3 then s
  else match bits v 63 60 with
    | 0 => trainHear s port v tSend
    | 1 => modPort (trainHear s port v tSend) port fun q => { q with
        echoHeard := true, flight := decide (10 + Config.linkPipeline < s.time - tEcho - tTurn) }
    | 2 => trainHear s port v tSend
    | _ => s

/-- PORT_TRAINING (R324): the step at which the port is has ended. `lanes` is the mask of the lanes that pass step 1 or 2; each one excluded is
charged (R325). Step 3 ends with the peer's DONE, the TRAIN flit that the command carries, once this side has received an ECHO and sent its own
DONE (R320). -/
def portTraining (s : State) (port lanes : Nat) (v : W64) (tSend tEcho tTurn : Nat) : State :=
  let p := getPort s port
  if p.st ≠ 1 ∨ s.dbg.extest = true then s
  else match p.step with
    | 1 => trainStep (modPort (chargeMissing s port (15 - p.retired % 16) lanes) port fun q => { q with active := alignedLanes q lanes }) port 2
    | 2 =>
      let left := Nat.land p.active (lanes % 16)
      let s1 := modPort (chargeMissing s port p.active lanes) port fun q => { q with
        active := left, offered := false, echoSent := false, echoHeard := false, doneSent := false }
      if laneCount left < 3 then attemptFailed s1 port else trainStep s1 port 3
    | 3 => if p.doneSent && bits v 63 60 == 2 then trainChecks (trainFlit s port v tSend tEcho tTurn) port else s
    | _ => trainUp s port

def execPortTraining (port lanes : Nat) (v : W64) (tSend tEcho tTurn : Nat) (s : State) : Host.Outcome State Fault Refusal :=
  .next (portTraining s port lanes v tSend tEcho tTurn)

/-- The limit of a training step (R324). -/
def stepLimit (step : Nat) : Nat :=
  match step with
  | 2 => 200000
  | 3 => 50000
  | 5 => 10000
  | _ => 1000000

/-- TRAINING_STEP_TIMEOUT (R324). In step 1 no lane in service has passed, and in step 2 none of those left has aligned: each is excluded, and
charged (R325). DEDUCED, log entry 23. -/
def trainTimeout (s : State) (port : Nat) : State :=
  let p := getPort s port
  if p.st = 1 ∧ p.stepTime + stepLimit p.step ≤ s.time then
    attemptFailed (if p.step = 1 then chargeMissing s port (15 - p.retired % 16) 0
      else if p.step = 2 then chargeMissing s port p.active 0 else s) port
  else s

def execTrainingStepTimeout (port : Nat) (s : State) : Host.Outcome State Fault Refusal := .next (trainTimeout s port)

def execTrainFlit (port : Nat) (v : W64) (tSend tEcho tTurn : Nat) (s : State) : Host.Outcome State Fault Refusal :=
  .next (trainFlit s port v tSend tEcho tTurn)

/-! ## Link control (R319, R323) -/

/-- Whether a port's link layer runs. -/
def linkRuns (s : State) (port : Nat) : Bool := (getPort s port).st == 2 || (getPort s port).st == 5

/-- LINK_CTRL_ACK: every flit up to the one named leaves the replay buffer; outside the window it is a violation. -/
def linkAck (s : State) (port seq : Nat) : State :=
  let p := getPort s port
  if !linkRuns s port then s
  else match (List.range p.replay.length).find? fun i => (p.replay[i]?.map Flit.seq) == some seq with
    | some i =>
      let left := p.replay.drop (i + 1)
      let out := (left.filter fun f => f.typ == 12 && f.vc == 2).foldl (fun n f => n + f.words.length) 0
      settleWithdraw <| modPort s port fun q => { q with
        replay := left, uncredited := min q.uncredited left.length, ackTime := s.time, replayCount := 0, resend := q.resend.filter fun f => left.contains f
        reflSent := q.reflSent.filter fun e => decide (q.reflOut < e.2 + out) }
    | none => oddViolation s port

def execLinkCtrlAck (port seq : Nat) (s : State) : Host.Outcome State Fault Refusal := .next (linkAck s port seq)

/-- LINK_CTRL_REPLAY: everything from the flit named is sent again in order; sixteen replays of one SEQ fail the link. -/
def linkReplay (s : State) (port seq : Nat) : State :=
  let p := getPort s port
  if !linkRuns s port then s
  else match (List.range p.replay.length).find? fun i => (p.replay[i]?.map Flit.seq) == some seq with
    | some i =>
      let n := if p.replaySeq = seq ∧ p.replayCount ≠ 0 then p.replayCount + 1 else 1
      let s1 := modPort s port fun q => { q with resend := q.replay.drop i, replaySeq := seq, replayCount := n }
      if 16 ≤ n then linkFail s1 port 2 else s1
    | none => oddViolation s port

def execLinkCtrlReplay (port seq : Nat) (s : State) : Host.Outcome State Fault Refusal := .next (linkReplay s port seq)

/-- LINK_CTRL_CREDIT (R316): credits of a channel returned, up to its buffer. -/
def linkCredit (s : State) (port vc n : Nat) : State :=
  if !linkRuns s port then s
  else if 6 ≤ vc then countViolation s port 1
  else modPort s port fun q => { q with credits := tput q.credits vc (min (tget 0 fullCredits vc) (tget 0 q.credits vc + n)) }

def execLinkCtrlCredit (port vc n : Nat) (s : State) : Host.Outcome State Fault Refusal := .next (linkCredit s port vc n)

/-- LINK_CTRL_RETRAIN: the peer retrains the port and names the lane that it charges. -/
def linkRetrain (s : State) (port lane : Nat) : State :=
  if !linkRuns s port then s
  else retrainPort (if lane < 4 then chargeLane s port lane else s) port

def execLinkCtrlRetrain (port lane : Nat) (s : State) : Host.Outcome State Fault Refusal := .next (linkRetrain s port lane)

/-- The CREDIT items for what a port has freed. -/
def creditItems (p : Link) : List Word :=
  (p.freed.filter fun e => e.2 != 0).map fun e => ⟨tagRAW, field 3 60 ||| field e.1 16 ||| field (e.2 % 65536) 0⟩

/-- LINK_ACK_SEND (R323): the newest flit received in order, and the credits freed. -/
def linkAckSend (s : State) (port : Nat) : State :=
  let p := getPort s port
  if !linkRuns s port || (p.rxSince == 0 && p.freed.all fun e => e.2 == 0) then s
  else
    let ack : List Word := if p.rxSince = 0 then [] else [⟨tagRAW, field 1 60 ||| field ((p.rxSeq + 511) % 512) 0⟩]
    sendFlit (modPort s port fun q => { q with rxSince := 0, freed := [] }) port
      (linkCtrlFlit (ack ++ creditItems p))

def execLinkAckSend (port : Nat) (s : State) : Host.Outcome State Fault Refusal := .next (linkAckSend s port)

/-- Whether a REPLAY request still waits to leave a port. -/
def replayAsked (p : Link) : Bool := p.waiting.any fun f => f.typ == 1 && f.words.any fun w => bits w.pay 63 60 == 2

/-- FLIT_ERROR (R323): the flit is discarded, and so is what follows until the replay arrives; the replay is asked for, again where the replay
itself is in error. -/
def flitError (s : State) (port lane : Nat) : State :=
  let p := getPort s port
  if !linkRuns s port || (p.discarding && replayAsked p) then s
  else
    sendFlit (modPort s port fun q => { q with
      discarding := true, lastLane := if lane < 4 then lane else q.lastLane, faultLane := if lane < 4 then some lane else q.faultLane }) port
      (linkCtrlFlit [⟨tagRAW, field 2 60 ||| field p.rxSeq 0⟩])

def execFlitError (port lane : Nat) (s : State) : Host.Outcome State Fault Refusal := .next (flitError s port lane)

/-- LINK_UNACK_TIMEOUT (R323). -/
def unackTimeout (s : State) (port : Nat) : State :=
  let p := getPort s port
  if linkRuns s port && decide (511 ≤ p.replay.length) && decide (p.ackTime + 10000 ≤ s.time) then linkFail s port 2 else s

def execLinkUnackTimeout (port : Nat) (s : State) : Host.Outcome State Fault Refusal := .next (unackTimeout s port)

/-- LINK_FAILURE (R342): the environment's event, by its place in the list. -/
def execLinkFailure (port cause : Nat) (s : State) : Host.Outcome State Fault Refusal :=
  .next (if 1 ≤ cause ∧ cause ≤ 6 then linkFail s port cause else s)

/-! ## The transmitter (R316, R320, R323) -/

/-- The TRAIN flit of a port that trains or is held (R320): OFFER, ECHO once the peer has been heard, DONE once each side has had an ECHO. -/
def trainOut (s : State) (port : Nat) (p : Link) : Flit :=
  let phase := if p.st = 3 then 3 else if p.echoSent && p.echoHeard then 2 else if p.offered then 1 else 0
  let w0 := field phase 60 ||| field s.dev 56 ||| field (partCode s.part) 48 ||| field port 44 ||| field p.active 40 |||
    (if phase = 3 then field p.reason 36 else 0)
  let echo := if phase = 0 then 0 else p.trainEcho
  let turn := if phase = 0 then 0 else s.time - p.trainHeard
  { typ := 2, words := [⟨tagRAW, w0⟩, Word.fixN s.time, Word.fixN echo, Word.fixN turn] ++ List.replicate 4 Word.zero }

/-- The channels in transmission order: at most one control flit in any 16 slots while Sunlit flits wait (R316), so that it waits at most 15
behind them (R26). -/
def channelOrder (p : Link) : List Nat :=
  if (p.waiting.any fun f => f.typ != 1 && f.vc == 1) && p.sinceCtrl < 15 then [1, 5, 4, 3, 2] else [0, 1, 5, 4, 3, 2]

/-- The first flit of the first channel that holds a credit. -/
def nextFlit (p : Link) : Option (Nat × Flit) :=
  (channelOrder p).findSome? fun vc =>
    if tget 0 p.credits vc = 0 then none
    else ((List.range p.waiting.length).zip p.waiting).find? fun e => e.2.typ != 1 && e.2.typ != 2 && e.2.vc == vc

/-- The time of transmission written into a TIME flit (R321). -/
def stampTime (s : State) (f : Flit) : Flit :=
  if f.typ ≠ 4 then f
  else match f.words with
    | h :: t1 :: t2 :: _ =>
      if bits h.pay 63 60 = 0 then { f with words := [h, Word.fixN s.time, Word.zero, Word.zero] ++ List.replicate 4 Word.zero }
      else { f with words := [h, t1, t2, Word.fixN s.time] ++ List.replicate 4 Word.zero }
    | _ => f

/-- The next item of the Reflection stream (R407, R408, R419): the items queued first, then the copy of the mirrored grants, line by
line with EPOCH 0. A line that leaves is no longer set in SHIP. -/
def nextItem (s : State) : Option (RefItem × State) :=
  match s.refl.outItems with
  | i :: rest =>
    let ship := if bits i.desc 63 60 = 0 then s.refl.shipLines.filter fun l => l != bits i.desc 35 0 / 8 else s.refl.shipLines
    some (i, { s with refl := { s.refl with outItems := rest, shipLines := ship } })
  | [] =>
    match s.refl.copy with
    | [] => none
    | (a, n) :: rest =>
      let left := if n ≤ 8 then rest else (a + 8, n - 8) :: rest
      let (is, s1) := sealItem s { desc := itemDesc 0 0 (a / 8 * 8), words := memLine s (a / 8) }
      match is with
      | i :: more =>
        some (i, { s1 with refl := { s1.refl with
          copy := left, outItems := more
          copyEpoch := if left.isEmpty then some (s.refl.current + 1) else s.refl.copyEpoch } })
      | [] => none

/-- Words of the stream for one flit of a port: the rest of its item, then whole items while there is room (R408). -/
def streamWords (s : State) (port room : Nat) : Nat → List Word → List Word × State
  | 0, ws => (ws, s)
  | n + 1, ws =>
    let p := getPort s port
    if room ≤ ws.length then (ws, s)
    else match p.reflRest with
      | _ :: _ =>
        let k := room - ws.length
        streamWords (modPort s port fun q => { q with reflRest := q.reflRest.drop k }) port room n (ws ++ p.reflRest.take k)
      | [] =>
        match nextItem s with
        | some (i, s1) =>
          let start := p.reflOut + ws.length
          streamWords (modPort s1 port fun q => { q with
            reflRest := i.all, reflSent := q.reflSent ++ [(i, start + i.all.length)] }) port room n ws
        | none => (ws, s)

/-- The REFLECT flit that a Reflection port can send on VC 2. -/
def streamFlit (s : State) (port : Nat) : Option (Flit × State) :=
  let p := getPort s port
  if p.st ≠ 5 ∨ tget 0 p.credits 2 = 0 then none
  else match streamWords s port 8 18 [] with
    | ([], _) => none
    | (ws, s1) =>
      some ({ typ := 12, vc := 2, dst := p.peerDev, src := s.dev, count := ws.length, words := ws },
        modPort s1 port fun q => { q with reflOut := q.reflOut + ws.length })

/-- A sequenced flit sent by a port: it takes a sequence number, a credit and a place in the replay buffer. -/
def sendSeq (s : State) (port : Nat) (q : Link) (f : Flit) : Link :=
  { q with
    wire := some f, sinceCtrl := if f.vc = 0 ∧ 3 ≤ f.typ then 0 else min 16 (q.sinceCtrl + 1)
    txSeq := (q.txSeq + 1) % 512, replay := q.replay ++ [f]
    ackTime := if (getPort s port).replay.isEmpty then s.time else q.ackTime
    credits := tput q.credits f.vc (tget 0 q.credits f.vc - 1) }

/-- A flit driven onto the wire. -/
def drive (q : Link) (f : Flit) : Link :=
  { q with wire := some f, sinceCtrl := if f.vc = 0 ∧ 3 ≤ f.typ then 0 else min 16 (q.sinceCtrl + 1) }

/-- A flit slot of a port that trains: the TRAIN exchange of step 3. -/
def trainSlot (s : State) (port : Nat) : State :=
  let p := getPort s port
  if p.step ≠ 3 then modPort s port fun q => { q with wire := none }
  else
    let done := p.echoSent && p.echoHeard
    modPort s port fun q => { q with wire := some (trainOut s port p), echoSent := q.echoSent || p.offered, doneSent := q.doneSent || done }

/-- The next flit to be sent again: it takes a credit where it holds none since a retraining (R316, R323). -/
def resendSlot (s : State) (port : Nat) (f : Flit) (rest : List Flit) : State :=
  let p := getPort s port
  if p.uncredited < p.resend.length then modPort s port fun q => { drive q f with resend := rest }
  else if tget 0 p.credits f.vc = 0 then modPort s port fun q => drive q { typ := 0 }
  else modPort s port fun q => { drive q f with
    resend := rest, uncredited := rest.length, credits := tput q.credits f.vc (tget 0 q.credits f.vc - 1) }

/-- A new flit of a port whose link runs: the Reflection stream's, or the first that holds a credit. -/
def newSlot (s : State) (port : Nat) : State :=
  let p := getPort s port
  match nextFlit p with
  | none =>
    match streamFlit s port with
    | none => modPort s port fun q => drive q { typ := 0 }
    | some (f, s1) => modPort s1 port fun q => sendSeq s port q { f with seq := p.txSeq }
  | some (i, f0) =>
    let f := stampTime s { f0 with seq := p.txSeq }
    let s1 := modPort s port fun q => { sendSeq s port q f with waiting := q.waiting.eraseIdx i }
    if f.typ = 4 ∧ (f.words[0]?).any (fun h => bits h.pay 63 60 == 0) then
      if p.st = 5 then { s1 with refl := { s1.refl with t1 := some s.time } }
      else { s1 with tsync := { s1.tsync with t1 := some s.time } }
    else s1

/-- FLIT_SLOT: what a port sends in one flit slot; what a failure or a retraining leaves to be sent goes first. -/
def flitSlot (s : State) (port : Nat) : State :=
  let p := getPort s port
  match p.parting with
  | f :: rest => modPort s port fun q => { drive q f with parting := rest }
  | [] =>
    match p.st with
    | 1 => trainSlot s port
    | 3 => modPort s port fun q => { q with wire := some (trainOut s port q) }
    | 2 | 5 =>
      match p.waiting.find? fun f => f.typ == 1 with
      | some f => modPort s port fun q => { drive q f with waiting := q.waiting.erase f }
      | none =>
        match p.resend with
        | f :: rest => resendSlot s port f rest
        | [] => if 511 ≤ p.replay.length then modPort s port fun q => drive q { typ := 0 } else newSlot s port
    | _ => s

def execFlitSlot (port : Nat) (s : State) : Host.Outcome State Fault Refusal := .next (flitSlot s port)

/-! ## Remote requests served (R327 to R333) -/

/-- A response sent to the requester. -/
def remAnswer (s : State) (port : Nat) (x : XPort) (req : W64) (st : Nat) (w : Word) : State :=
  sendFlit s ((routePort s x.part x.src).getD port)
    { typ := 8, vc := 4, dst := x.src, src := s.dev, part := x.part
      words := [⟨tagRAW, field (bits req 63 48) 48 ||| field st 44⟩, w] }

/-- A response other than OK: the word beside it is free. -/
def remRefuse (s : State) (port : Nat) (x : XPort) (req : W64) (st : Nat) : State :=
  let (w, s1) := drawWord s
  remAnswer s1 port x req st w

/-- FLIT_VIOLATION: counted; a malformed or pathless request in it is answered, and a Sunlit message without a flow bounced. `kind` is the row of
R345 (a MSG_CONT that follows no MSG being row 4: a TRAIN flit outside training comes as TRAIN_FLIT), or 0 for an item of a reserved KIND in a
LINK_CTRL flit (R319), which is not sequenced. -/
def flitViolation (s : State) (port kind : Nat) (x : XPort) (rtag : Option Nat) : State :=
  if !linkOpen s port || decide (9 < kind) then s
  else if kind = 0 then oddViolation s port
  else if !inSeq s port x.seq then s
  else
    let s1 := countViolation (modPort s port fun p => { p with
      rxSeq := (p.rxSeq + 1) % 512, rxSince := p.rxSince + 1, discarding := false, openItems := (0, 0) }) port kind
    match rtag with
    | some t =>
      if kind = 2 ∨ kind = 5 then remRefuse s1 port x (field t 48) 4
      else if kind = 6 then remRefuse s1 port x (field t 48) 2 else s1
    | none => s1

def execFlitViolation (port kind : Nat) (x : XPort) (rtag : Option Nat) (s : State) : Host.Outcome State Fault Refusal :=
  .next (flitViolation s port kind x rtag)

/-- The checks of R328 in order, by the status that they give. -/
def remCheck (s : State) (x : XPort) (req : W64) (op : Nat) : Nat :=
  let a := bits req 35 0
  let there := match physFor s x.part a with
    | .dram => true
    | .scratch _ _ => true
    | _ => false
  if (dataPort s x.part x.src).isNone then 2
  else if bits req 39 36 ≠ s.dev ∨ there = false ∨ (getPart s x.part).sealed = true then 1
  else if bits req 47 44 ≠ op ∨ bits req 41 40 ≠ 0 ∨ (op ≠ 3 ∧ bits req 43 42 ≠ 0) then 4
  else 0

/-- A request of a peer wakes the cluster that homes its line, and the stack that holds it (R32). -/
def wakeHome (s : State) (x : XPort) (a : Nat) : State := if x.dst = s.dev then wakeLine s (a / 8) else s

/-- A request received: sent on when it is for another device (R326), refused with its status, or performed. -/
def remServe (s : State) (port : Nat) (x : XPort) (req : W64) (op : Nat) (data : List Word)
    (run : State → Nat → State × Nat × Word) : State :=
  let typ := if op = 0 ∨ op = 3 then 5 else if op = 1 then 6 else 7
  if !takesItem s port typ x || (getPort s port).st != 2 then s
  else
    let vc := if x.src = (getPort s port).peerDev then 2 else 3
    let s1 := wakeHome (rxItem s port typ vc x) x (bits req 35 0)
    if x.rsvd % 65536 ≠ 0 then remRefuse (if moreItems s port typ then s1 else countViolation s1 port 2) port x req 4
    else if x.dst ≠ s.dev then
      let f : Flit := { typ, vc := 3, dst := x.dst, src := x.src, part := x.part, words := ⟨tagRAW, req⟩ :: data }
      if !forwardsTo s1 x.part x.src x.dst then remRefuse (countViolation s1 port 6) port x req 2
      else match meshPort s1 x.dst with
        | some q => sendFlit s1 q f
        | none => remRefuse s1 port x req 3
    else match remCheck s1 x req op with
      | 0 =>
        let (s2, st, w) := run s1 (bits req 35 0)
        if st = 0 then remAnswer s2 port x req 0 w else remRefuse s2 port x req st
      | 2 => remRefuse (countViolation s1 port 6) port x req 2
      | 4 => remRefuse (countViolation s1 port 5) port x req 4
      | st =>
        let s2 := if (getPart s1 x.part).sealed then sealedRefused s1 x.part 3 (.peer x.src) else s1
        remRefuse s2 port x req st

/-- REMOTE_READ_REQUEST. -/
def execRemoteReadRequest (port : Nat) (x : XPort) (req : W64) (s : State) : Host.Outcome State Fault Refusal :=
  .next (remServe s port x req 0 [] fun s a => let (w, s1) := homeRead s a; (s1, 0, w))

/-- The heap address at which a partition's default translation on this device maps a physical word: the first page of the heap in whose
place it lies. The request names the target by its physical address alone. -/
def heapAddr (s : State) (g : Agent) (a : Nat) : Option Nat :=
  let q := getPart s g.part
  let page := 2 ^ 10
  let base := q.heapbase.toNat
  let at' (va : Nat) : Option Nat :=
    match (unitXlate s g.unit g.part g.asid g.root (agReq va .load)).2 with
    | .inl e => if e.typ ≠ 3 ∧ entPa e va % 2 ^ 36 / page = a / page then some (va / page * page + a % page) else none
    | .inr _ => none
  (List.range ((q.heaplim.toNat - base) / page)).findSome? fun i => at' (base + page * i)

/-- The tags by which a cell without a header at an address can be named: those whose entry has a fixed size that the address is aligned to,
and that the mark bitmap, where it knows the cell, gives (R50, R154). -/
def cellTags (q : Partition) (va code : Nat) : List Nat :=
  (List.range 256).filter fun t =>
    let e := tdtOf q (BitVec.ofNat 8 t)
    tdtClass e == clsPOINTER && tdtSizeSrc e == 1 && va % max 1 (tdtFixedSize e) == 0 &&
      (code == 0 || (code == 2) == (tdtFixedSize e == 2))

/-- A pointer as this device sees it when a peer names its target alone: its tag by the header that it names, or, for a cell, one of the tags
that fit, which one being free where several do. -/
def farPointer (q : Partition) (first free : Word) (va gen code : Nat) : Word :=
  if classOf q first = clsHEADER then evacPointer q first 0 va gen
  else
    let tags := cellTags q va code
    ⟨BitVec.ofNat 8 ((tags[free.pay.toNat % max 1 tags.length]?).getD 0x40), field gen 62 ||| field va 0⟩

/-- Whether a requester's good colour is one that this device has still to take: its part of the phase has not begun here (R160, R170). -/
def colourAhead (q : Partition) (colour : Nat) : Bool :=
  let mark := if (q.cycle + 1) % 2 = 1 then 1 else 2
  colour != q.bgoodc &&
    ((colour == mark && (q.phase == phIDLE || (q.phase == phMARK_START && !q.coll.started))) ||
      (colour == 3 && (q.phase == phSELECT || (q.phase == phRELOCATE_START && !q.coll.started))))

/-- The word that a peer's RESOLVE names, resolved as one of this device would be. DEDUCED (log entry 20): in WEAK_CLEAR the weak rule is
applied to every such word, since only weak references still reach an unmarked target. -/
def resolveNamed (s : State) (g : Agent) (first free : Word) (va : Nat) : State × ResOut :=
  let q := getPart s g.part
  let (s1, e) := regionEntry s g (regionOf q va)
  let (s2, named) := if first.tag = tagFORWARD then agLook s1 g (ptrAddr first) else (s1, first)
  let (s3, code) := markCode s2 g va
  resolve s3 g (farPointer q named free va ((e.map fun x => x.2.1).getD 0) code) va (q.weakclr && s.part.full)

/-- A pointer resolved for a peer under R162 (R333): marked or evacuated as one of this device would be, STALE for a FREE region. Where the
resolution waits, for a to-space region, for a copy or for this device's own start of the phase (R160), the request waits. What the request
does not carry (the pointer's tag and USER) the requester keeps; a word that names no page of the heap here is answered free. -/
def resolveFor (s : State) (part : Nat) (req : W64) (a : Nat) : Option (State × Nat × Word) :=
  let first := cohRead s a
  let colour := bits req 43 42
  let answer (w : Word) : Word := { w with pay := setBits (setBits w.pay 61 60 colour) 55 48 0 }
  let (fw, s1) := drawWord s
  let g := { collAgent s1 part (homeOf s (a / 8)) with goodc := colour }
  if s.part.full && colourAhead (getPart s part) colour then none
  else if first.tag = tagPOISON then some (s1, 0, first)
  else match heapAddr s1 g a with
    | none => some (s1, 0, answer fw)
    | some va =>
      match resolveNamed s1 g first fw va with
      | (s2, .word w) => some (s2, 0, if w.tag = tagNIL then w else answer w)
      | (s2, .fault f) => some (s2, if f.cause = cSTALE_POINTER then 5 else 1, Word.zero)
      | (_, .wait) => none

/-- REMOTE_RESOLVE_REQUEST. -/
def execRemoteResolveRequest (port : Nat) (x : XPort) (req : W64) (s : State) : Host.Outcome State Fault Refusal :=
  match remCheck s x req 3, resolveFor s x.part req (bits req 35 0) with
  | 0, none => .next (if x.dst = s.dev then s else remServe s port x req 3 [] fun s _ => (s, 0, Word.zero))
  | _, _ => .next (remServe s port x req 3 [] fun s a => (resolveFor s x.part req a).getD (s, 0, Word.zero))

/-- REMOTE_WRITE_REQUEST. -/
def execRemoteWriteRequest (port : Nat) (x : XPort) (req : W64) (w : Word) (s : State) : Host.Outcome State Fault Refusal :=
  .next (remServe s port x req 1 [w] fun s a => (homeWrite s a w, 0, Word.fixN 0))

/-- The agent of a peer's barrier on this device (R333): a Routine Engine of the cluster that homes the card word. -/
def barAgent (s : State) (p a addr : Nat) : Agent :=
  let g := collAgent s p (homeOf s (a / 8))
  match (agXlate s g (agReq (cardAddr (getPart s p) addr) .card)).2 with
  | .inl (pa, _) => collAgent s p (homeOf s (pa / 8))
  | .inr _ => g

/-- A peer's pointer store: the card and the snapshot barrier as for a local store (R165, R167, R333). DESIGN CHOICE (log entry 16): where the
virtual address, or its card's, does not translate here, nothing is written and the answer is BAD_PHYSICAL. -/
def writeBar (s : State) (p a : Nat) (w va : Word) : State × Nat × Word :=
  let q := getPart s p
  let addr := bits va.pay 47 0
  let old := cohRead s a
  let m : StoreMark := { core := homeOf s (a / 8) * 16, ctx := noCtx, part := p, log := true, card := none }
  let write (s : State) (card : Option (Nat × Nat)) : State × Nat × Word :=
    (storeMarks (homeWrite s a w) { m with card } old, 0, Word.fixN 0)
  if barrierOf q w = 0 ∨ inHeap q addr = false then write s none
  else
    let g := barAgent s p a addr
    match agXlate s g (agReq addr .store) with
    | (s1, .inr _) => (s1, 1, Word.zero)
    | (s1, .inl (_, e)) =>
      if (if isPointer q va then ptrGen va else e.gen) ≤ ptrGen w then write s1 none
      else match agXlate s1 g (agReq (cardAddr q addr) .card) with
        | (s2, .inl (pa, _)) => write s2 (some (pa, ptrGen w))
        | (s2, .inr _) => (s2, 1, Word.zero)

/-- Whether a compare-and-swap of a peer is the heal of a slot (R163, R333): the same pointer, its colour turned good. -/
def healSwap (q : Partition) (old new : Word) : Bool :=
  barrierOf q old != 0 && old.tag == new.tag && bits old.pay 59 56 == bits new.pay 59 56 && ptrColour old != ptrColour new &&
    ptrColour new == q.bgoodc

/-- A peer's compare-and-swap: the old word; where it swaps, and is no heal, the card and the snapshot barrier follow as for a store (R146,
R165, R167). DEDUCED (log entry 16): the request carries no virtual address, so the target takes the heap address that it maps there. -/
def farCas (s : State) (p a : Nat) (cmp new : Word) : State × Nat × Word :=
  let q := getPart s p
  if cohRead s a ≠ cmp ∨ cmp = new ∨ healSwap q cmp new = true then
    let (old, s1) := homeCas s a cmp new
    (s1, 0, old)
  else
    let va := (heapAddr s (collAgent s p (homeOf s (a / 8))) a).getD q.heaplim.toNat
    let (s1, st, _) := writeBar s p a new (Word.fixN va)
    (s1, st, cmp)

/-- REMOTE_CAS_REQUEST. -/
def execRemoteCasRequest (port : Nat) (x : XPort) (req : W64) (cmp new : Word) (s : State) : Host.Outcome State Fault Refusal :=
  .next (remServe s port x req 2 [cmp, new] fun s a => farCas s x.part a cmp new)

/-- REMOTE_WRITE_BAR_REQUEST. -/
def execRemoteWriteBarRequest (port : Nat) (x : XPort) (req : W64) (w va : Word) (s : State) : Host.Outcome State Fault Refusal :=
  .next (remServe s port x req 4 [w, va] fun s a => writeBar s x.part a w va)

/-! ## Responses (R329, R331) -/

/-- REMOTE_RESPONSE: the request with its tag completes; a response that answers none is a violation. -/
def remoteResponse (s : State) (port : Nat) (x : XPort) (resp : W64) (w : Word) : State :=
  if !takesItem s port 8 x || (getPort s port).st != 2 then s
  else
    let vc := if x.src = (getPort s port).peerDev then 4 else 5
    let s1 := rxItem s port 8 vc x
    if x.rsvd % 65536 ≠ 0 then (if moreItems s port 8 then s1 else countViolation s1 port 2)
    else if x.dst ≠ s.dev then
      match meshPort s1 x.dst with
      | some q =>
        if forwardsTo s1 x.part x.src x.dst then
          sendFlit s1 q { typ := 8, vc := 5, dst := x.dst, src := x.src, part := x.part, words := [⟨tagRAW, resp⟩, w] }
        else s1
      | none => s1
    else
      let st := bits resp 47 44
      match s1.remotes.find? fun r => r.rtag == bits resp 63 48 with
      | none => countViolation s1 port 8
      | some r =>
        let s2 := if 6 ≤ st then countViolation s1 port 8 else if st = 4 then countViolation s1 port 5 else s1
        settleWithdraw (remoteDone s2 r (if 6 ≤ st then 4 else st) w)

def execRemoteResponse (port : Nat) (x : XPort) (resp : W64) (w : Word) (s : State) : Host.Outcome State Fault Refusal :=
  .next (remoteResponse s port x resp w)

/-- REMOTE_REQUEST_TIMEOUT (R331): LINK_DOWN after 100 µs, and one error charged to the port. -/
def remoteTimeout (s : State) (rtag : Nat) : State :=
  match s.remotes.find? fun r => r.rtag == rtag with
  | some r =>
    if r.time + 100000 ≤ s.time then
      settleWithdraw (remoteDone (chargeLane s r.port (getPort s r.port).lastLane) r 3 Word.zero)
    else s
  | none => s

def execRemoteRequestTimeout (rtag : Nat) (s : State) : Host.Outcome State Fault Refusal := .next (remoteTimeout s rtag)

/-! ## Control messages of peers (R322) -/

/-- A control message received: relayed when it is for another device (R27), otherwise acted on. DESIGN CHOICE (log entry 49): a relay whose
direct link onward is down discards the message. -/
def ctrlIn (s : State) (port op : Nat) (h : CtrlHdr) (args : List Word) (run : State → State) : State :=
  if !linkOpen s port || !inSeq s port h.seq then s
  else
    let s1 := notePresent (rxFlit s port 0 1) h.origin
    if h.target = s.dev then run s1
    else match meshPort s1 h.target with
      | some q =>
        let w := field op 56 ||| field h.origin 52 ||| field h.target 48 ||| field h.part 43 ||| field args.length 40 ||| field h.token 32
        sendFlit s1 q { typ := 3, vc := 0, dst := h.target, src := h.origin, part := h.part, count := args.length + 1
                        words := ⟨tagRAW, w⟩ :: args }
      | none => s1

/-- The port of a route by its way as a control message names it (R322): direct, or through a device. -/
def viaPort (s : State) (dev via : Nat) : Nat := directPort s (if via = 0 then dev else via % 16)

/-- A digest mismatch recorded (R44). -/
def digestMismatch (s : State) (p dev : Nat) : State := report (dropRoute s p dev) 0x0007 (.partition p) [BitVec.ofNat 64 dev]

/-- CTRL_ROUTE_OPEN. -/
def routeOpen (h : CtrlHdr) (digest : W64) (via : Nat) (s : State) : State :=
  let q := getPart s h.part
  let mine := tdtDigest q
  let reply (s : State) (st : Nat) : State := sendCtrl s h.origin 2 h.part [Word.fixN st, ⟨tagRAW, mine⟩] h.token
  if q.defined = false then reply s 2
  else if q.sealed then reply s 3
  else if q.mirrored then reply s 4
  else if digest ≠ mine then reply (digestMismatch s h.part h.origin) 1
  else reply (setRoute s h.part h.origin (viaPort s h.origin via)) 0

/-- A ROUTE_OPEN on its way through this device that names it as the intermediate one: the control path sets up the forwarding (R326).
DEDUCED, log entry 24. -/
def routePass (s : State) (h : CtrlHdr) (via : Nat) : State :=
  if h.target = s.dev ∨ via ≠ 0x10 + s.dev then s
  else { s with relays := (s.relays.filter fun r => r != (h.part, h.origin, h.target)) ++ [(h.part, h.origin, h.target)] }

def execCtrlRouteOpen (port : Nat) (h : CtrlHdr) (digest : W64) (via : Nat) (s : State) : Host.Outcome State Fault Refusal :=
  let s1 := ctrlIn s port 1 h [⟨tagRAW, digest⟩, Word.fixN via] (routeOpen h digest via)
  .next (if linkOpen s port && inSeq s port h.seq then routePass s1 h via else s1)

/-- CTRL_ROUTE_REPLY. -/
def routeReply (port : Nat) (h : CtrlHdr) (status : Nat) (digest : W64) (s : State) : State :=
  if !(routable s).contains h.part then countViolation s port 9
  else match status with
    | 0 => if digest = tdtDigest (getPart s h.part) then setRoute s h.part h.origin (viaPort s h.origin h.token)
        else digestMismatch s h.part h.origin
    | 1 => digestMismatch s h.part h.origin
    | _ => s

def execCtrlRouteReply (port : Nat) (h : CtrlHdr) (status : Nat) (digest : W64) (s : State) : Host.Outcome State Fault Refusal :=
  .next (ctrlIn s port 2 h [Word.fixN status, ⟨tagRAW, digest⟩] (routeReply port h status digest))

/-- A two-hop route to a far device given up on the word of the device at its other end or between (R25, R322): this device's route through
it, its declared forwarding, and what this device forwards for it. -/
def dropFar (s : State) (p origin far : Nat) : State :=
  { s with
    routes := s.routes.filter fun r => !(r.1 == p && r.2.1 == far && r.2.2 == directPort s origin)
    relays := s.relays.filter fun r => r != (p, origin, far) && r != (p, far, origin)
    forwards := s.forwards.map fun f =>
      if f.1 = origin ∧ f.2.1 = far ∧ f.2.2 / 2 ^ p % 2 = 1 then (f.1, f.2.1, f.2.2 - 2 ^ p) else f }

/-- CTRL_WITHDRAW (R25): the use of the route, flow or binding ends here; the acknowledgement waits until the path is empty. -/
def withdrawIn (port : Nat) (h : CtrlHdr) (kind ix : Nat) (s : State) : State :=
  let wait (s : State) : State :=
    settleWithdraw { s with withdrawn := s.withdrawn ++ [{ kind, part := h.part, dev := h.origin, ix, token := h.token }] }
  match kind with
  | 0 => wait (if ix = s.dev then dropRoute s h.part h.origin else dropFar s h.part h.origin ix)
  | 1 => wait (endInFlows s fun f => f.dev == h.origin && f.cluster == ix / 256 % 32 && f.ix == ix % 256 && f.part == h.part)
  | 2 => wait { s with unbound := (h.part, ix) :: s.unbound.filter (· != (h.part, ix)) }
  | _ => countViolation s port 9

def execCtrlWithdraw (port : Nat) (h : CtrlHdr) (kind ix : Nat) (s : State) : Host.Outcome State Fault Refusal :=
  .next (ctrlIn s port 3 h [Word.fixN kind, Word.fixN ix] (withdrawIn port h kind ix))

/-- CTRL_WITHDRAW_ACK: the path that this device gave up is empty. -/
def withdrawAck (h : CtrlHdr) (kind ix : Nat) (s : State) : State :=
  { s with withdrawing := s.withdrawing.filter fun e => !(e.kind == kind && e.part == h.part && e.dev == h.origin && e.ix == ix) }

def execCtrlWithdrawAck (port : Nat) (h : CtrlHdr) (kind ix : Nat) (s : State) : Host.Outcome State Fault Refusal :=
  .next (ctrlIn s port 4 h [Word.fixN kind, Word.fixN ix] (withdrawAck h kind ix))

/-- CTRL_FLOW_REQUEST (R335): the destination's conditions; the flow is admitted here when they hold. -/
def flowRequest (h : CtrlHdr) (rec flowix : Nat) (s : State) : State :=
  let v := BitVec.ofNat 64 rec
  let queue := bits v 15 0
  let f : InFlow :=
    { dev := h.origin, cluster := bits v 24 20, ix := flowix, part := h.part, queue, rate := bits v 40 32
      burst := bits v 27 25 + 1, flits := if bits v 31 28 ≤ 7 then 1 else 2 }
  let reply (s : State) (c : Nat) : State := sendCtrl s h.origin 6 h.part [Word.fixN c, Word.fixN flowix] h.token
  let same (g : InFlow) : Bool := g.dev == f.dev && g.cluster == f.cluster && g.ix == f.ix && g.queue == f.queue
  let port := getPort s (directPort s h.origin)
  let mirrored := (getQ s queue).owned && (getPart s (getQ s queue).owner).mirrored
  if s.inFlows.any same then reply s 0
  else if bits v 19 16 ≠ s.dev ∨ port.st ≠ 2 ∨ port.flight = true ∨ s.tsync.lock = false ∨ s.power.nosun = true then reply s 3
  else if mirrored then
    let (c, s1) := freeCondition s
    reply s1 c
  else match dstRefusal s queue f.rate f.burst f.flits with
    | some c => reply s c
    | none => reply (addInFlow s f) 0

def execCtrlFlowRequest (port : Nat) (h : CtrlHdr) (rec flowix : Nat) (s : State) : Host.Outcome State Fault Refusal :=
  .next (ctrlIn s port 5 h [⟨tagRAW, BitVec.ofNat 64 rec⟩, Word.fixN flowix] (flowRequest h rec flowix))

/-- CTRL_FLOW_REPLY: the flow that asked is admitted, or refused with the condition (R335); one that its destination has admitted and the source
no longer can is withdrawn there (R25). -/
def flowReply (port : Nat) (h : CtrlHdr) (result flowix : Nat) (s : State) : State :=
  match s.flows.find? fun e => !e.2.admitted && e.1 % 256 == h.token && e.2.part == h.part && e.2.qid / 65536 == h.origin &&
      flowIxOf s e.1 == flowix with
  | none => countViolation s port 9
  | some (k, f) =>
    if result ≠ 0 then flowRefused s f result
    else match srcRefusal s f with
      | some c => sendWithdraw (flowRefused s f c) 1 f.part h.origin (f.cluster * 256 + flowix)
      | none => grantFlow s k

def execCtrlFlowReply (port : Nat) (h : CtrlHdr) (result flowix : Nat) (s : State) : Host.Outcome State Fault Refusal :=
  .next (ctrlIn s port 6 h [Word.fixN result, Word.fixN flowix] (flowReply port h result flowix))

/-- CTRL_FORWARD_DECLARE (R357): the forwarding that an intermediate device declares, recorded, and the two-hop routes that waited for it asked
for, while the direct link is not UP. -/
def forwardDeclare (h : CtrlHdr) (mask dst : Nat) (s : State) : State :=
  let s1 : State := { s with forwards := (s.forwards.filter fun f => !(f.1 == h.origin && f.2.1 == dst)) ++ [(h.origin, dst, mask)] }
  (s1.img.routes.filter fun r => r.1 == dst && r.2.1 == h.origin && (meshPort s1 dst).isNone).foldl
    (fun s r => ((routable s).filter fun p => (Nat.land r.2.2 mask) / 2 ^ p % 2 == 1).foldl
      (fun s p => askRoute s p dst (0x10 + h.origin)) s) s1

def execCtrlForwardDeclare (port : Nat) (h : CtrlHdr) (mask dst : Nat) (s : State) : Host.Outcome State Fault Refusal :=
  .next (ctrlIn s port 7 h [Word.fixN mask, Word.fixN dst] (forwardDeclare h mask dst))

/-- CTRL_RETRAIN. -/
def execCtrlRetrain (port : Nat) (h : CtrlHdr) (s : State) : Host.Outcome State Fault Refusal :=
  .next (ctrlIn s port 8 h [] fun s => orderRetrain s (directPort s h.origin))

/-- CTRL_COLLECT (R179): accepted from the partition's lowest-numbered device. -/
def collectIn (port : Nat) (h : CtrlHdr) (v : W64) (s : State) : State :=
  if s.dev < h.origin ∨ (getPart s h.part).defined = false ∨ s.part.full = false then countViolation s port 9
  else collCommand s h.part v

def execCtrlCollect (port : Nat) (h : CtrlHdr) (v : W64) (s : State) : Host.Outcome State Fault Refusal :=
  .next (ctrlIn s port 9 h [Word.fix v] (collectIn port h v))

/-- CTRL_PHASE_END (R179): the peer's part of a phase of a cycle has ended. -/
def phaseEndIn (port : Nat) (h : CtrlHdr) (phase cycle : Nat) (s : State) : State :=
  if (getPart s h.part).defined = false then countViolation s port 9
  else modColl s h.part fun k => { k with peers := tput k.peers h.origin (cycle * 16 + phase) }

def execCtrlPhaseEnd (port : Nat) (h : CtrlHdr) (phase cycle : Nat) (s : State) : Host.Outcome State Fault Refusal :=
  .next (ctrlIn s port 10 h [Word.fixN phase, Word.fixN cycle] (phaseEndIn port h phase cycle))

/-! ## Acknowledgements of messages (R318, R336) -/

/-- One outbox entry acknowledged with an outcome. LATE is bounced with LINK_DOWN, and for Sunlit the link fails (R340, R342). -/
def ackOne (s : State) (port : Nat) (i : Nat) (m : Msg) (outcome : Nat) : State :=
  let s1 := { s with outbox := s.outbox.eraseIdx i }
  match outcome with
  | 0 => match m.kind with
    | .drain seq => { s1 with glow := { s1.glow with drainSeq := (seq + 1) % 2 ^ 32, drainSent := false } }
    | .satb _ _ => settleFlush s1 m.part
    | .weak => modColl s1 m.part fun k => { k with weakFull := false }
    | _ => s1
  | 7 => if m.sun then linkFail (refuseMsg s1 m stLINK_DOWN) port 3 else refuseMsg s1 m stLINK_DOWN
  | n => refuseMsg s1 m n

/-- The oldest entries that an acknowledgement names, one after the other. -/
def ackMany (s : State) (port : Nat) (match' : State → OutEnt → Bool) (outcome : Nat) : Nat → State
  | 0 => s
  | n + 1 =>
    match ((List.range s.outbox.length).zip s.outbox).find? fun e => match' s e.2 with
    | some (i, o) => ackMany (ackOne s port i o.msg outcome) port match' outcome n
    | none => s

/-- MSG_ACK_RECEIVE. One for another device is sent on for Shade alone, over a two-hop route that is set up (R326). -/
def msgAck (s : State) (port : Nat) (x : XPort) (v : W64) : State :=
  if !takesItem s port 11 x || (getPort s port).st != 2 then s
  else
    let sun := bit v 30
    let vc := if sun then 1 else if x.src = (getPort s port).peerDev then 4 else 5
    let s1 := rxItem s port 11 vc x
    let outcome := bits v 29 26
    let n := bits v 25 22 + 1
    let cl := bits v 43 39
    let qid := bits v 63 44
    let ix := bits v 37 31
    if x.rsvd % 65536 ≠ 0 then (if moreItems s port 11 then s1 else countViolation s1 port 2)
    else if x.dst ≠ s.dev then
      if sun || !forwardsTo s1 x.part x.src x.dst then countViolation s1 port 6
      else match meshPort s1 x.dst with
      | some q => sendFlit s1 q { typ := 11, vc := 5, dst := x.dst, src := x.src, part := x.part, words := [⟨tagRAW, v⟩] }
      | none => s1
    else if bits v 21 0 ≠ 0 ∨ outcome = 5 ∨ 9 ≤ outcome ∨ (outcome = 8 ∧ sun = false) then oddViolation s1 port
    else if outcome = 8 then
      match s1.flows.find? fun e => e.2.cluster == cl && e.2.qid == qid && flowIxOf s1 e.1 == ix with
      | some (k, _) => (List.range n).foldl (fun s _ => returnCredit s k) s1
      | none => s1
    else
      let fits (s : State) (o : OutEnt) : Bool :=
        o.sent && o.msg.qid == qid && o.msg.sun == sun && outboxCluster o.msg == (if bit v 38 then none else some cl) &&
          (!sun || flowIxOf s o.msg.flow == ix)
      settleWithdraw (ackMany s1 port fits outcome n)

def execMsgAckReceive (port : Nat) (x : XPort) (v : W64) (s : State) : Host.Outcome State Fault Refusal := .next (msgAck s port x v)

/-! ## The timebase (R321, R343, R344) -/

/-- Word 0 of a TIME flit. -/
def timeHeader (s : State) (kind : Nat) : Word :=
  ⟨tagRAW, field kind 60 ||| field s.tsync.src 56 ||| flagBit s.tsync.via 55 ||| flagBit s.tsync.master 54 ||| flagBit s.tsync.lock 53⟩

/-- What a TIME flit shows of the peer (R321): with which device it synchronises (R343), and its LOCK: a link whose peer has lost it fails
(R342). -/
def notePeerLock (s : State) (port : Nat) (v : W64) : State :=
  let p := getPort s port
  let s1 := modPort s port fun q => { q with peerLock := bit v 53, peerSync := some (bits v 59 56, bit v 55) }
  if p.st = 2 ∧ p.peerLock = true ∧ bit v 53 = false then linkFail s1 port 5 else if p.st = 2 then syncBoard s1 else s1

/-- TIME_REQUEST: answered with the times of receipt and of transmission. -/
def timeRequest (s : State) (port : Nat) (v : W64) (t1 : Nat) : State :=
  if !linkOpen s port then s
  else
    let s1 := rxFlit s port 0 1
    if bits v 63 60 ≠ 0 then oddViolation s1 port
    else
      let s2 := notePeerLock s1 port v
      if !linkOpen s2 port then s2
      else sendFlit s2 port { typ := 4, vc := 0, dst := (getPort s port).peerDev, src := s.dev
                              words := [timeHeader s 1, Word.fixN t1, Word.fixN s.time, Word.fixN s.time] ++ List.replicate 4 Word.zero }

def execTimeRequest (port : Nat) (v : W64) (t1 : Nat) (s : State) : Host.Outcome State Fault Refusal := .next (timeRequest s port v t1)

/-- LOCK lost (R342, R344): every mesh link fails. -/
def loseLock (s : State) : State :=
  if s.tsync.lock = false then s
  else
    let s1 := { s with tsync := { s.tsync with lock := false, good := 0 } }
    ((s1.ports.filter fun e => e.2.st == 2).map Prod.fst).foldl (fun s p => linkFail s p 5) s1

/-- LOCK gained: the flows to other devices are tried in admission order. -/
def gainLock (s : State) : State :=
  if s.tsync.lock then s
  else tryFlows { s with tsync := { s.tsync with lock := true } } fun f => !f.admitted && f.qid / 65536 != s.dev

/-- An exchange completed with an offset in ns: the first one sets the timebase, a later one slews it. -/
def timeOffset (s : State) (offset : Int) : State :=
  let t := s.tsync
  if t.isSet = false then
    let new := (s.time + offset).toNat
    report { s with time := new, tsync := { t with isSet := true, good := 0, last := new, t1 := none, slew := 0 } } 0xC002 .device
      [BitVec.ofNat 64 s.time, BitVec.ofNat 64 new]
  else
    let good := if -20 ≤ offset ∧ offset ≤ 20 then t.good + 1 else 0
    let s1 := { s with tsync := { t with good, last := s.time, t1 := none, slew := offset } }
    if offset < -100 ∨ 100 < offset then loseLock s1 else if 3 ≤ good then gainLock s1 else s1

/-- TIME_RESPONSE (R343, R417): on a Reflection port the twin's offset is noted; on the partner's port the offset from the four times; the round trip of the link is measured again (R313). -/
def timeResponse (s : State) (port : Nat) (v : W64) (t1 t2 t3 : Nat) : State :=
  if !linkOpen s port then s
  else
    let s1 := notePeerLock (rxFlit s port 0 1) port v
    if bits v 63 60 ≠ 1 then oddViolation s1 port
    else if (getPort s1 port).st = 5 then
      if s1.refl.t1 = some t1 then
        { s1 with refl := { s1.refl with t1 := none, timeOff := (((t2 : Int) - t1) + ((t3 : Int) - s.time)) / 2 } }
      else s1
    else if s1.tsync.t1 ≠ some t1 ∨ s1.tsync.master = true ∨ (getPort s1 port).peerDev ≠ s1.tsync.src then s1
    else
      let trip : Int := ((s.time : Int) - t1) - ((t3 : Int) - t2)
      let s2 := modPort s1 port fun p => { p with flight := decide ((10 + Config.linkPipeline : Nat) < trip) }
      timeOffset s2 ((((t2 : Int) - t1) + ((t3 : Int) - s.time)) / 2)

def execTimeResponse (port : Nat) (v : W64) (t1 t2 t3 : Nat) (s : State) : Host.Outcome State Fault Refusal :=
  .next (timeResponse s port v t1 t2 t3)

/-- A TIME request on a port. -/
def askTime (s : State) (port : Nat) : State :=
  sendFlit s port { typ := 4, vc := 0, dst := (getPort s port).peerDev, src := s.dev
                    words := [timeHeader s 0, Word.fixN s.time] ++ List.replicate 6 Word.zero }

/-- TIME_EXCHANGE_TICK (R343, R417): a request to the partner, and one to the twin. -/
def timeExchange (s : State) : State :=
  let port := directPort s s.tsync.src
  let s1 := if s.tsync.master || s.tsync.src == s.dev || (getPort s port).st != 2 then s else askTime s port
  match s.ports.find? fun e => e.2.st == 5 with
  | some (q, _) => askTime s1 q
  | none => s1

def execTimeExchangeTick (s : State) : Host.Outcome State Fault Refusal := .next (timeExchange s)

/-- TIMEBASE_LOCK_TIMEOUT (R344): no exchange for 1 ms. -/
def lockTimeout (s : State) : State :=
  if s.tsync.master = false ∧ s.tsync.last + 1000000 ≤ s.time then loseLock s else s

def execTimebaseLockTimeout (s : State) : Host.Outcome State Fault Refusal := .next (lockTimeout s)

/-! ## Registers (R347) -/

/-- Lanes of a port in Penumbra. -/
def penLanes (s : State) (port : Nat) : Nat :=
  ((List.range 4).filter fun l => s.glow.pen.any fun e => e.2.cls == 5 && bits e.2.subj 5 0 == port * 4 + l).foldl (fun m l => m + 2 ^ l) 0

def bpstatReg (s : State) (port : Nat) : W64 :=
  let p := getPort s port
  let absent := decide (s.part.ports ≤ port) || (port == s.dev && p.st == 0)
  let sun := sumNat ((flowsTo s port).map fun e => e.2.rate)
  if absent then 4
  else field p.peerDev 60 ||| field p.peerPort 56 ||| flagBit p.flight 40 ||| field (min 0xFF p.retrains) 32 |||
    field (if p.st = 2 ∨ p.st = 5 then p.active else 0) 28 ||| field p.retired 24 ||| field (penLanes s port) 20 |||
    field (if port = s.dev then 0 else sun % 512) 8 ||| field p.reason 4 ||| field p.st 0

def bpviolReg (s : State) (port : Nat) : W64 := field (bits (getPort s port).viol 31 0) 0
def bpviolWrite (s : State) (port : Nat) (v : W64) : State :=
  modPort s port fun p => { p with viol := p.viol &&& ~~~v &&& 0xFFFFFFFF }

def tbstatReg (s : State) : W64 :=
  field (if s.tsync.master then s.dev else s.tsync.src) 4 ||| flagBit s.tsync.via 3 ||| flagBit s.tsync.master 2 ||| flagBit s.tsync.lock 0

end Sys2Proof.Machine
end

