-- ==== Sys2Proof/Machine/Reflect.lean ====
section
/-!
DEFINITION. Reflection pairs (R399 to R420): forming the pair, the TWIN_ALIVE lines, epochs and their capture, the Twin's journal,
loss of the link, takeover, and the registers.
-/

namespace Sys2Proof.Machine
open Sys2Proof

/-! ## The pair -/

def rNONE : Nat := 0
def rFORMING : Nat := 1
def rRESYNC : Nat := 2
def rSYNCED : Nat := 3
def rLOST : Nat := 4
def rSOLO : Nat := 5
def rSTANDBY : Nat := 6
def rTAKING : Nat := 7
def rFENCED : Nat := 8

def modRefl (s : State) (f : Reflect → Reflect) : State := { s with refl := f s.refl }

/-- A change of STATE, recorded. -/
def setRefl (s : State) (n : Nat) : State :=
  if s.refl.state = n then s
  else report (modRefl s fun r => { r with state := n }) 0xB002 .device [BitVec.ofNat 64 s.refl.state, BitVec.ofNat 64 n]

/-- The Reflection ports in use. -/
def reflUp (s : State) : List Nat := (s.ports.filter fun e => e.2.st == 5).map Prod.fst

/-- The mirrored partitions, their contexts and their grants. -/
def mirroredParts (s : State) : List Nat := (s.parts.filter fun e => e.2.mirrored).map Prod.fst
def mirroredCtxs (s : State) : List Nat := (s.owner.filter fun e => (getPart s e.2).mirrored).map Prod.fst
def mirroredGrants (s : State) : List (Nat × Nat) := (s.parts.filter fun e => e.2.mirrored).flatMap fun e => e.2.grants

/-- A line of a mirrored grant. -/
def mirroredLine (s : State) (line : Nat) : Bool :=
  (mirroredGrants s).any fun g => decide (g.1 ≤ line * 8 + 7) && decide (line * 8 < g.1 + g.2)

/-- An item sent on VC 4 over a Reflection port (R408). -/
def sendItem4 (s : State) (port : Nat) (i : RefItem) : State :=
  let (is, s1) := sealItem s i
  let ws := is.flatMap RefItem.all
  sendFlit s1 port { typ := 12, vc := 4, dst := (getPort s port).peerDev, src := s.dev, count := ws.length, words := ws }

/-! ## TWIN_ALIVE (R402) -/

/-- The pattern that this device drives: 0 SILENT, 1 ALIVE, 2 RELINQUISH, 3 TAKEOVER. -/
def alivePattern (s : State) : Nat :=
  let r := s.refl
  if s.power.trip || s.power.heldReset then 0
  else if r.role then
    if r.state = rTAKING then 3
    else if r.state = rSTANDBY ∧ r.relinq = true then 2
    else if r.state = rRESYNC ∨ r.state = rSYNCED ∨ r.state = rLOST then 1 else 0
  else if r.running then 1 else 0

/-- The interval of a pattern's edges in ns. -/
def patternInterval (p : Nat) : Nat := if p = 1 then 50000 else if p = 2 then 10000 else 2000

/-- TWIN_ALIVE_PATTERN_EDGE. -/
def patternEdge (s : State) : State :=
  let p := alivePattern s
  if p = 0 ∨ s.time < s.refl.lastEdgeOut + patternInterval p then s
  else modRefl s fun r => { r with pinOut := !r.pinOut, lastEdgeOut := s.time }

def execTwinAlivePatternEdge (s : State) : Host.Outcome State Fault Refusal := .next (patternEdge s)

/-! ## Outputs (R413) -/

/-- One held output released. -/
def releaseOut (s : State) (o : HeldOut) : State :=
  match o with
  | .msg m => departMsg s m
  | .msix fn v => signalMsix s fn v
  | .cpl c => { s with hostIf := { s.hostIf with cpls := s.hostIf.cpls ++ [c] } }

/-- The held outputs of the epochs up to one released in order. -/
def releaseOuts (s : State) (out : Nat → Bool) : State :=
  let go := s.refl.heldOuts.filter fun e => out e.1
  go.foldl (fun s e => releaseOut s e.2) (modRefl s fun r => { r with heldOuts := r.heldOuts.filter fun e => !out e.1 })

/-! ## Forming (R399, R401, R419) -/

/-- BOOTCTX of every mirrored partition started, on a Primary whose mirrored partitions do not yet run. -/
def startMirrored (s : State) : State :=
  if s.refl.running then s
  else
    let s1 := (s.img.parts.filter fun m => (getPart s m.num).mirrored).foldl
      (fun s m => if (getPart s m.num).sealed && !thas s.trust.keys m.num then s else startContext s m.bootctx) s
    modRefl s1 fun r => { r with running := true }

/-- A refusal: recorded, and the pair as though the Twin had never appeared (R401). -/
def refuseForm (s : State) (twin : Bool) (why : Nat) : State :=
  let s1 := report (modRefl s fun r => { r with refuse := why }) 0xB001 .device [BitVec.ofNat 64 why]
  let s2 := if why = 5 then report s1 0xB006 .device else s1
  if twin then setRefl s2 rSTANDBY else if s2.refl.running && s2.refl.state == rFORMING then setRefl s2 rSOLO else s2

/-- Words of local DRAM that no grant covers (R401, R411). -/
def journalRoom (s : State) : Nat :=
  s.part.dramTop - (s.parts.flatMap fun e => e.2.grants.filter fun g => decide (g.1 < s.part.dramTop)).foldl (fun n g => n + g.2) 0

/-- What the comparison with the twin refuses, 0 for nothing: the twin's image, measurements and memory are not this device's to see,
so whether they agree is free. -/
def formRefusal (s : State) (twin : Bool) (dev : Nat) : Nat × State :=
  let want := match s.img.reflect with | some r => r.twin | none => 0
  let (idBad, s1) := drawBool s
  let (partBad, s2) := drawBool s1
  let (roomBad, s3) := drawBool s2
  let (authBad, s4) := drawBool s3
  let sealed := s.parts.any fun e => e.2.mirrored && e.2.sealed
  let small := if twin then decide (journalRoom s < 2 ^ 27) else roomBad
  (if dev ≠ want ∨ idBad = true then 1 else if partBad then 2 else if small then 3 else if sealed && authBad then 4 else 0, s4)

/-- The pair formed: the Primary starts its partitions and the copy, the Twin empties its journal. The size of the Twin's journal,
between 1 GiB and 8 GiB, is its own (R411). -/
def formPair (s : State) (twin : Bool) (dev : Nat) : State :=
  let (n, s1) := drawNat s
  let (key, s2) := drawNat s1
  let sealed := s.parts.any fun e => e.2.mirrored && e.2.sealed
  let s3 := modRefl s2 fun r => { r with
    refuse := 0, role := twin, twin := dev, relinq := false, cap := 8388608 + n % 58720257, settle := none, half := [], applying := []
    snaps := [], outItems := [], shipLines := [], openLines := [], ending := false, acked := true, copyEpoch := none
    authed := sealed, gcmKey := key, gcmCount := 0, gcmIn := 0, gcmSince := s.time, gcmBuf := [], lastHb := some s.time }
  if twin then setRefl s3 rRESYNC
  else
    let s4 := setRefl (startMirrored s3) rRESYNC
    let gs := mirroredGrants s4
    modRefl s4 fun r => { r with
      copy := gs, current := max 1 r.current, epochStart := s.time
      copyEpoch := if gs.isEmpty then some (max 1 r.current + 1) else none }

/-- Whether a heartbeat drives formation: this device forms, or waits beside a twin that forms. -/
def mayForm (s : State) (peer : Nat) : Bool :=
  match s.refl.state with
  | 1 => s.refl.refuse == 0
  | 5 | 6 => peer == rRESYNC || (peer == rFORMING && (s.refl.refuse == 0 || !s.refl.role))
  | _ => false

/-- A heartbeat acted on. -/
def heartbeat (s : State) (d : W64) : State :=
  let peer := bits d 3 0
  let peerTwin := bit d 4
  let dev := bits d 11 8
  let s1 := modRefl s fun r => { r with lastHb := some s.time }
  let peerRuns := !peerTwin && decide (2 ≤ peer) && decide (peer ≤ 5)
  if s.img.reflect.isNone then s1
  else if s.refl.running && !s.refl.role && peerRuns then
    if s.refl.refuse = 5 then s1 else refuseForm s1 false 5
  else if mayForm s peer then
    let twin := if s.refl.running then false else if peerRuns then true
      else match s.img.reflect with | some r => !r.primary | none => false
    let (why, s2) := formRefusal s1 twin dev
    if why = 0 then formPair s2 twin dev else refuseForm s2 twin why
  else if s.refl.role && s.refl.state == rRESYNC && peer == rSYNCED then setRefl s1 rSYNCED
  else s1

/-- Whether a flow's queue holds no more than its capacity minus SUNRES, its own reservation counted (R417 step 4). -/
def flowFits (s : State) (f : Flow) : Bool :=
  let q := getQ s (f.qid % 65536)
  f.qid / 65536 != s.dev || decide (q.occ + q.sunres + f.burst ≤ q.cap)

/-- A flow tried where its queue allows it; otherwise it stays withdrawn and waits for that. -/
def admitFit (s : State) (k : Nat) : State :=
  let f : Flow := tget {} s.flows k
  let mark (b : Bool) : State := { s with flows := tput s.flows k { f with late := b } }
  if flowFits s f then tryFlow (mark false) k else mark true

/-- The flows that a takeover has left withdrawn tried again (R417 step 4). DESIGN CHOICE (log entry 43): with each heartbeat, since no row
is theirs. -/
def retryLate (s : State) : State := ((s.flows.filter fun e => e.2.late).map Prod.fst).foldl admitFit s

/-- HEARTBEAT_SEND (R408): every 20 µs on each port in use. -/
def heartbeatOut (s : State) : State :=
  if s.refl.state = rNONE ∨ s.time < s.refl.lastHbOut + 20000 then s
  else
    let s1 := retryLate (modRefl s fun r => { r with lastHbOut := s.time })
    (reflUp s).foldl (fun s p => sendItem4 s p
      { desc := itemDesc 6 s.refl.current (s.refl.state + b2n s.refl.role * 16 + s.dev * 256) }) s1

def execHeartbeatSend (s : State) : Host.Outcome State Fault Refusal := .next (heartbeatOut s)

/-- PAIR_FORMATION_TIMEOUT (R401): 10 ms after host release a Primary without its pair runs SOLO. -/
def formTimeout (s : State) : State :=
  match s.refl.releaseTime with
  | some t =>
    if s.refl.state = rFORMING ∧ s.refl.role = false ∧ s.refl.running = false ∧ t + 10000000 ≤ s.time
    then setRefl (startMirrored s) rSOLO else s
  | none => s

def execPairFormationTimeout (s : State) : Host.Outcome State Fault Refusal := .next (formTimeout s)

/-! ## Epochs (R405 to R407, R412) -/

/-- A mirrored context held at the end of an epoch: a routine or a wait in flight is suspended as at an entry (R194, R301, R406). -/
def holdMirrored (s : State) : State := (mirroredCtxs s).foldl suspendAtEntry s

/-- EPOCH_END_TRIGGER (R405). -/
def epochEnd (s : State) : State :=
  let r := s.refl
  let due := decide (r.epochStart + 10000000 ≤ s.time) || decide (reflCap s ≤ r.openLines.length) ||
    r.heldOuts.any fun e => e.1 == r.current
  if r.running && !r.role && decide (2 ≤ r.state) && decide (r.state ≤ 4) && !r.ending && r.acked &&
      decide (r.epochStart + 100000 ≤ s.time) && due
  then holdMirrored (modRefl s fun r => { r with ending := true }) else s

def execEpochEndTrigger (s : State) : Host.Outcome State Fault Refusal := .next (epochEnd s)

/-- Whether a context can be captured (R406): its miss slot is free, its stores have left, and it is not being reset. -/
def ctxQuiet (s : State) (c : Nat) : Bool :=
  let x := getCtx s c
  x.slot.isNone && x.run != .resetting && storesDone s c s.nextSeq

/-- The deliveries in flight of both banks made (R406). -/
def drainBoth (x : Ctx) : Ctx :=
  drainS (drainU x)

/-- The long addresses of R114 that are a latch or a result port, in ascending order. -/
def snapAddrs : List Nat := (List.range 512).filter fun a => (portAt a).kind == .latch || (portAt a).kind == .result

/-- A bank's latches and result ports; the derived ones are sent as read (R409). -/
def snapBank (s : State) (c : Nat) (x : Ctx) (b : Bank) : List Word :=
  let e := envOf s c x
  snapAddrs.map fun a =>
    if a = 0x100 then Word.fixN x.pc
    else if a = 0x124 then rsTopValue s e (latchOf b pRSsp)
    else if a = 0x180 then Word.fixN (repeatLeft x)
    else if a = 0x1AB then Word.fix (syId s.dev (partOf s c) c)
    else latchOf b a

/-- A general register of a snapshot. -/
def snapG (x : Ctx) (r : Nat) : Word :=
  match gOf x r with
  | .word w => w
  | .pending op => ⟨tagPENDING, field (if x.rq.op = op ∧ x.rq.state ≠ 0 then 0 else 1) 62⟩
  | .failed .. => ⟨tagPENDING, field 2 62⟩

/-- Word 146. -/
def snapState (x : Ctx) : W64 :=
  field (flagsNat x.s.flags) 54 ||| field (flagsNat x.u.flags) 49 ||| flagBit x.priv 48 ||| field x.pc 0

/-- Word 185. -/
def snapWait (s : State) (x : Ctx) : W64 :=
  let base := field (runCode x.run) 0 ||| flagBit x.emv 2
  match x.withdrawn with
  | some { kind := .recv q wait, dsts, .. } =>
    base ||| flagBit true 3 ||| flagBit wait 4 ||| field ((dsts.head?).getD 0) 5 ||| field (s.dev * 65536 + q) 11
  | _ => base

/-- The 192 words of a snapshot (R409). -/
def snapWords (s : State) (c : Nat) : List Word :=
  let x := getCtx s c
  let e := envOf s c x
  let cr (n : Nat) : Word := crValue s e n
  let xw (i : Nat) : W64 := match x.xfers[i]? with | some t => frameXfer t | none => 0
  (List.range 64).map (snapG x) ++ snapBank s c x x.u ++ snapBank s c x x.s ++
    [Word.fix (snapState x), Word.fix (frameRepeat x.rpt), Word.fix (xw 0), Word.fix (xw 1), Word.fix (xw 2)] ++
    [cr 0x109, cr 0x10A, cr 0x108, cr 0x182, cr 0x140] ++ (List.range 8).map (fun i => cr (0x240 + i)) ++
    [cr 0x180, cr 0x181, cr 0x113, cr 0x114, cr 0x115, cr 0x116, cr 0x117, cr 0x118, cr 0x11A, cr 0x11B, cr 0x11C, cr 0x11F] ++
    [cr 0x10C, cr 0x10D, cr 0x10E] ++ (List.range 5).map (fun i => cr (0x280 + i)) ++
    [cr 0x1C0, Word.fix (snapWait s x), cr 0x210, cr 0x211, cr 0x212, Word.fixN (x.timer.getD 0), Word.zero, Word.zero]

/-- The details of a failed mark (R409). -/
def failItem (ep c r : Nat) (f : FaultRec) : RefItem :=
  { desc := itemDesc 9 ep (r * 2 ^ 14 + c), words := [Word.fix f.faddr, Word.fix (finfoOf { f with high := f.high } false false)] }

/-- The items of one context. -/
def ctxItems (s : State) (ep c : Nat) : List RefItem :=
  let x := getCtx s c
  let fails := (List.range 64).filterMap fun r => match gOf x r with | .failed f _ _ => some (failItem ep c r f) | _ => none
  let slot : List RefItem := if x.emv then [{ desc := itemDesc 10 ep c, words := (List.range 16).map fun i => tget Word.zero x.em i }] else []
  { desc := itemDesc 1 ep c, words := snapWords s c } :: (fails ++ slot)

/-- The 64 words of a partition (R410). -/
def pstateWords (s : State) (p : Nat) : List Word :=
  let q := getPart s p
  let bar := flagBit q.weakclr 4 ||| flagBit q.marking 3 ||| field q.bgoodc 0
  [bar, q.heapbase, q.heaplim, q.rtbase, q.cardbase, q.mbmbase, q.roottab, q.satbq, q.satbovf, q.weakq, q.tospq,
    colstatReg s.part q, q.evec, q.gtbase, q.gtcnt, q.pdbell, q.pdbq, q.mqbounce, q.mqlost, q.rimode].map Word.fix ++
    packWords (padBytes 64 q.mrun) ++ (if q.sealed then [Word.fixN q.slwinb, Word.fixN q.slwinl] else [Word.zero, Word.zero]) ++
    List.replicate 34 Word.zero

/-- The items of one partition. -/
def partItems (s : State) (ep p : Nat) : List RefItem :=
  { desc := itemDesc 2 ep p, words := pstateWords s p } ::
    (queuesOf s p).map fun q =>
      { desc := itemDesc 3 ep q, words := [Word.fix (queueReg (getQ s q) 0x1C5), Word.fix (queueReg (getQ s q) 0x1C6)] }

/-- EPOCH_CAPTURE (R406, R407): every mirrored context quiet, every modified line of the grants written to memory; the items of the
epoch are made, OPEN becomes SHIP, and the next epoch opens. -/
def epochCapture (s : State) : State :=
  if s.refl.ending = false ∨ (mirroredCtxs s).any (fun c => !ctxQuiet s c) = true then s
  else
    let s1 := (mirroredCtxs s).foldl (fun s c => modCtx s c drainBoth) s
    let s2 := ((cachedLines s1).filter fun l => mirroredLine s1 l && lineDirty s1 l).foldl cleanLine s1
    let ep := s2.refl.current
    let lines : List RefItem := s2.refl.openLines.map fun l => { desc := itemDesc 0 ep (l * 8), words := memLine s2 l }
    let items := lines ++ (mirroredCtxs s2).flatMap (ctxItems s2 ep) ++ (mirroredParts s2).flatMap (partItems s2 ep)
    let last : RefItem := { desc := itemDesc 4 ep items.length }
    let s3 := (items ++ [last]).foldl shipItem s2
    modRefl s3 fun r => { r with
      ending := false, acked := false, shipLines := r.openLines, openLines := [], current := r.current + 1, epochStart := s.time }

def execEpochCapture (s : State) : Host.Outcome State Fault Refusal := .next (epochCapture s)

/-- EPOCH_ACK acted on (R413, R419). -/
def epochAck (s : State) (n : Nat) : State :=
  let r := s.refl
  if r.role ∨ r.acked ∨ (r.current + 2 ^ 32 - 1) % 2 ^ 32 ≠ n then s
  else
    let s1 := modRefl s fun r => { r with acked := true, committed := n }
    let s2 := releaseOuts s1 fun e => decide (e < r.current)
    match r.state, r.copyEpoch with
    | 2, some k => if k ≤ r.current - 1 then setRefl s2 rSYNCED else s2
    | _, _ => s2

/-! ## The Twin's journal (R411) -/

/-- Words of a line written to the Twin's copy. -/
def applyLine (s : State) (i : RefItem) : State := writeWords s (bits i.desc 35 0 / 8 * 8) (i.words.take 8)

/-- Whether the journal holds every item that an EPOCH_END counts. -/
def epochWhole (half : List RefItem) (e : RefItem) : Bool :=
  let ep := bits e.desc 55 40
  (half.filter fun i => bits i.desc 55 40 == ep && bits i.desc 63 60 != 7 && bits i.desc 63 60 != 4).length == bits e.desc 31 0

/-- The epoch committed once it is whole: acknowledged, its lines to be applied, its snapshots the newest. -/
def commitEpoch (s : State) (port : Nat) : State :=
  match s.refl.half.find? fun e => bits e.desc 63 60 == 4 && epochWhole s.refl.half e with
  | none => s
  | some e =>
    let ep := bits e.desc 55 40
    let n := (s.refl.committed + (ep + 65536 - s.refl.committed % 65536) % 65536) % 2 ^ 32
    let mine (i : RefItem) : Bool := bits i.desc 55 40 == ep
    let lines := s.refl.half.filter fun i => mine i && bits i.desc 63 60 == 0
    let rest := s.refl.half.filter fun i => mine i && bits i.desc 63 60 != 0
    let s1 := modRefl s fun r => { r with
      committed := n, current := n, applying := r.applying ++ lines, snaps := rest, half := r.half.filter fun i => !mine i }
    sendItem4 s1 port { desc := itemDesc 5 n n }

/-- An item entered in the journal; a line of the copy, EPOCH 0, is written at once. An item that comes twice counts once. -/
def journal (s : State) (port : Nat) (i : RefItem) : State :=
  if !s.refl.role || !(s.refl.state == rRESYNC || s.refl.state == rSYNCED || s.refl.state == rLOST) then s
  else if bits i.desc 63 60 = 0 ∧ bits i.desc 55 40 = 0 then applyLine s i
  else if s.refl.half.contains i then s
  else commitEpoch (modRefl s fun r => { r with half := r.half ++ [i] }) port

/-- An item acted on once it stands: a heartbeat, an acknowledgement, or an entry of the journal. -/
def actItem (s : State) (port : Nat) (i : RefItem) : State :=
  match bits i.desc 63 60 with
  | 5 => epochAck s (bits i.desc 31 0)
  | 6 => heartbeat s i.desc
  | _ => journal s port i

/-- Whether the half of the journal that an item's epoch takes is still being applied for the epoch that used it before (R411). -/
def halfBusy (s : State) (d : W64) : Bool :=
  let ep := bits d 55 40
  s.refl.role && ep != 0 && s.refl.applying.any fun i => bits i.desc 55 40 != ep && (bits i.desc 55 40 + ep) % 2 == 0

/-- An item received on a Reflection port; one whose half of the journal is not free yet waits in the port's buffer. When the pair is authenticated it waits for the tag of its record (R395, R408). -/
def itemIn (s : State) (port : Nat) (d : W64) (ws : List Word) : State :=
  if !linkOpen s port || (getPort s port).st != 5 then s
  else
    let kind := bits d 63 60
    if halfBusy s d && kind != 5 && kind != 6 then s else
    let s1 := rxFlit s port (if kind = 5 ∨ kind = 6 then 4 else 2) 1
    if bits d 59 56 ≠ 0 ∨ bits d 39 36 ≠ 0 then oddViolation s1 port
    else if s.refl.authed then modRefl s1 fun r => { r with gcmBuf := r.gcmBuf ++ [({ desc := d, words := ws } : RefItem)] }
    else actItem s1 port { desc := d, words := ws }

/-- A descriptor with the kind of its row. -/
def asKind (d : W64) (k : Nat) : W64 := setBits d 63 60 k

def execReflectLine (port : Nat) (d : W64) (ws : List Word) (s : State) : Host.Outcome State Fault Refusal :=
  .next (itemIn s port (asKind d 0) ws)

def execReflectSnap (port : Nat) (d : W64) (ws : List Word) (s : State) : Host.Outcome State Fault Refusal :=
  .next (itemIn s port (asKind d 1) ws)

def execReflectPstate (port : Nat) (d : W64) (ws : List Word) (s : State) : Host.Outcome State Fault Refusal :=
  .next (itemIn s port (asKind d 2) ws)

def execReflectQdesc (port : Nat) (d : W64) (ws : List Word) (s : State) : Host.Outcome State Fault Refusal :=
  .next (itemIn s port (asKind d 3) ws)

def execReflectEpochEnd (port : Nat) (d : W64) (s : State) : Host.Outcome State Fault Refusal :=
  .next (itemIn s port (asKind d 4) [])

def execReflectEpochAck (port : Nat) (d : W64) (s : State) : Host.Outcome State Fault Refusal :=
  .next (itemIn s port (asKind d 5) [])

def execReflectHeartbeat (port : Nat) (d : W64) (s : State) : Host.Outcome State Fault Refusal :=
  .next (itemIn s port (asKind d 6) [])

def execReflectAfterglow (port : Nat) (d : W64) (ws : List Word) (s : State) : Host.Outcome State Fault Refusal :=
  .next (itemIn s port (asKind d 7) ws)

def execReflectFailed (port : Nat) (d : W64) (ws : List Word) (s : State) : Host.Outcome State Fault Refusal :=
  .next (itemIn s port (asKind d 9) ws)

def execReflectEmslot (port : Nat) (d : W64) (ws : List Word) (s : State) : Host.Outcome State Fault Refusal :=
  .next (itemIn s port (asKind d 10) ws)

/-- REFLECT_GCM_TAG (R395, R408): the record is authenticated, or the link fails. -/
def gcmTagIn (s : State) (port : Nat) (d : W64) (ws : List Word) : State :=
  if !linkOpen s port || (getPort s port).st != 5 || !s.refl.authed then s
  else
    let s1 := rxFlit s port 2 1
    if bits d 59 56 ≠ 0 ∨ bits d 39 36 ≠ 0 then oddViolation s1 port else
    let items := s.refl.gcmBuf
    let tag := (fpay ws 0, fpay ws 1)
    let s2 := modRefl s1 fun r => { r with gcmBuf := [], gcmIn := r.gcmIn + 1 }
    if items.length ≤ 64 && bits d 31 0 == s.refl.gcmIn % 2 ^ 32 &&
        Config.gcmVerify s.refl.gcmKey s.refl.gcmIn ((items.flatMap RefItem.all).map gcmWord) tag
    then items.foldl (fun s i => actItem s port i) s2
    else
      let (n, s3) := drawNat s2
      linkFail s3 port (1 + n % 5)

def execReflectGcmTag (port : Nat) (d : W64) (ws : List Word) (s : State) : Host.Outcome State Fault Refusal :=
  .next (gcmTagIn s port d ws)

/-- REFLECT_REKEY (R395): fresh keys after 2^32 records or 1 h; a failure leaves no link. -/
def rekey (s : State) : State :=
  let r := s.refl
  if r.authed && (decide (2 ^ 32 ≤ r.gcmCount) || decide (2 ^ 32 ≤ r.gcmIn) || decide (r.gcmSince + 3600000000000 ≤ s.time)) then
    let (key, s1) := drawNat s
    let (fails, s2) := drawBool s1
    if fails then (reflUp s2).foldl (fun s p => linkFail s p 6) s2
    else modRefl s2 fun r => { r with gcmKey := key, gcmCount := 0, gcmIn := 0, gcmSince := s.time }
  else s

def execReflectRekey (s : State) : Host.Outcome State Fault Refusal := .next (rekey s)

/-! ## Takeover (R417) -/

/-- Word i of a snapshot. -/
def snapPay (ws : List Word) (i : Nat) : W64 := fpay ws i
def snapWord (ws : List Word) (i : Nat) : Word := (ws[i]?).getD Word.zero

/-- A bank restored (R409): its latches and result ports but for the derived ones, its flags and its count. -/
def restoreBank (ws : List Word) (first flags count : Nat) : Bank :=
  let ix := (List.range snapAddrs.length).zip snapAddrs
  { latch := (ix.filter fun e => !([0x100, 0x124, 0x180, 0x1AB].contains e.2)).map fun e => (e.2, snapWord ws (first + e.1))
    flags := flagsOfNat flags, count }

/-- The repeat state from its frame word. -/
def restoreRepeat (w : W64) : Repeat :=
  if bit w 18 then .active (bits w 15 0) else if bit w 17 then .armed (bits w 15 0) else .none

/-- The details of a failed mark from its FAILED item: the cause is what its FINFO does not carry, and is free. -/
def restoreFail (s : State) (c r : Nat) : FaultRec :=
  match s.refl.snaps.find? fun i => bits i.desc 63 60 == 9 && bits i.desc 13 0 == c && bits i.desc 19 14 == r with
  | some i =>
    let fi := fpay i.words 1
    { cause := Config.freeNat s.freeIx % 256, faddr := fpay i.words 0, info := fi &&& 0xFFFFFFFF, ext := bits fi 47 44
      high := bits fi 43 32, deferred := bit fi 63 }
  | none => { cause := Config.freeNat s.freeIx % 256, faddr := Config.freeW64 s.freeIx }

/-- A general register restored. -/
def restoreG (s : State) (c : Nat) (ws : List Word) (rqOp waitOp r : Nat) : GReg :=
  let w := snapWord ws r
  if w.tag ≠ tagPENDING then .word w
  else match bits w.pay 63 62 with
    | 0 => .pending rqOp
    | 1 => .pending waitOp
    | _ => .failed (restoreFail s c r) rqOp

/-- The context-scope registers of a snapshot. -/
def restoreRegs (ws : List Word) : CtxRegs :=
  let v (i : Nat) : W64 := snapPay ws i
  { dchk := bit (v 153) 0, goodc := bits (v 154) 1 0, asid := bits (v 155) 63 52, root := bits (v 155) 39 0
    nurptr := (v 164).toNat, nurlim := (v 165).toNat, cause := v 166, faddr := v 167, finfo := v 168, ie := bit (v 169) 0
    ipend := (v 170).toNat, ien := (v 171).toNat, sdsbase := v 172, srsbase := v 173, xsel := (v 174).toNat, xgidx := (v 175).toNat
    aemu0 := snapWord ws 176, aemu1 := snapWord ws 177, aemuV := bit (v 178) 0
    aemuOps := (List.range 5).map fun i => snapWord ws (179 + i)
    qsel := (v 184).toNat, rgbase := v 186, rglen := v 187, rgcq := v 188 }

/-- The run state that a code names. -/
def runOf (n : Nat) : RunState := if n = 0 then .notStarted else if n = 1 then .runnable else .haltedFault

/-- A context loaded from its snapshot. What the snapshot does not hold of a suspended request or wait, the address and privilege of
the packet that started it, is free. -/
def restoreCtx (s : State) (i : RefItem) : State :=
  let ws := i.words
  let c := bits i.desc 13 0
  let st := snapPay ws 146
  let rq := snapPay ws 156
  let wt := snapPay ws 185
  let (rqOp, s1) := freshOp s
  let (waitOp, s2) := freshOp s1
  let (pc, s3) := drawNat s2
  let (gaop, s4) := drawNat s3
  let (priv, s5) := drawBool s4
  let dst := bits wt 10 5
  let wait := bit wt 4
  let em := match s.refl.snaps.find? fun j => bits j.desc 63 60 == 10 && bits j.desc 13 0 == c with
    | some j => (List.range 16).zip j.words
    | none => []
  let rec' : RqRec :=
    { state := bits rq 3 0, routine := bits rq 47 40, dst := bits rq 39 34, two := bit rq 33, priv := bit rq 32, segs := bits rq 63 48
      a := snapWord ws 157, b := snapWord ws 158, c := snapWord ws 159, prog := (List.range 4).map fun k => snapWord ws (160 + k)
      op := rqOp, pc := pc % 2 ^ 48, gaop := gaop % 16 }
  let recv : Option MissOp :=
    if bit wt 3 then
      some { id := waitOp, kind := .recv (bits wt 30 11 % 65536) wait
             dsts := if wait then (List.range 9).map (dst + ·) else [dst], pc := pc % 2 ^ 48, priv }
    else none
  let timer := if (snapPay ws 189).toNat = 0 then none else some (((snapPay ws 189).toNat : Int) - s.refl.timeOff).toNat
  let x : Ctx :=
    { run := runOf (bits wt 1 0), priv := bit st 48, pc := bits st 47 0
      g := (List.range 64).map fun r => (r, restoreG s5 c ws rqOp waitOp r)
      u := restoreBank ws 64 (bits st 53 49) (snapPay ws 151).toNat
      s := restoreBank ws 105 (bits st 58 54) (snapPay ws 152).toNat
      rpt := restoreRepeat (snapPay ws 147)
      xfers := (List.range 3).filterMap fun k =>
        let w := snapPay ws (148 + k)
        if bit w 50 then some { target := bits w 47 0, dist := bits w 49 48 } else none
      regs := restoreRegs ws, em, emv := bit wt 2, rq := rec', rqSuspended := bits rq 3 0 == 3, withdrawn := recv
      timer, timerCmp := timer.getD 0, lastIssue := (getCtx s c).lastIssue
      aemuPc := if bit (snapPay ws 178) 0 ∧ bit st 48 = false then some (bits st 47 0, false) else none
      aemuLevel := if bit (snapPay ws 178) 0 ∧ bit st 48 = true then some 0 else none }
  setCtx s5 c x

/-- A partition's registers restored; what the image locks stays as the Twin's own. A Collector cycle is abandoned with STATUS
ABORTED. -/
def restorePart (s : State) (i : RefItem) : State :=
  let p := bits i.desc 4 0
  let v (k : Nat) : W64 := snapPay i.words k
  let col := v 11
  let s1 := modPart s p fun q => { q with
    weakclr := bit (v 0) 4, marking := bit (v 0) 3, bgoodc := bits (v 0) 1 0
    heapbase := v 1, heaplim := v 2, rtbase := v 3, cardbase := v 4, mbmbase := v 5, roottab := v 6
    satbq := v 7, satbovf := v 8, weakq := v 9, tospq := v 10
    evec := if s.img.lock then q.evec else v 12, gtbase := if s.img.lock then q.gtbase else v 13
    gtcnt := if s.img.lock then q.gtcnt else v 14
    cycle := bits col 63 32, status := bits col 19 16, genmask := bits col 15 12, abort := bit col 8, phase := bits col 3 0
    pdbell := v 15, pdbq := v 16, mqbounce := v 17, mqlost := v 18, rimode := v 19
    mrun := ((List.range 8).flatMap fun k => bytesLE (v (20 + k)))
    slwinb := if q.sealed then (v 28).toNat else q.slwinb, slwinl := if q.sealed then (v 29).toNat else q.slwinl
    quiesced := false }
  if (getPart s1 p).phase = 0 then s1 else abortCycle s1 p 9

/-- A queue's pointers and status restored. -/
def restoreQueue (s : State) (i : RefItem) : State :=
  let ptr := fpay i.words 0
  let st := fpay i.words 1
  modQ s (bits i.desc 15 0) fun x => { x with
    head := bits ptr 31 0, tail := bits ptr 63 32, refused := bit st 5, high := bit st 4, enabled := bit st 0, waiters := [] }

/-- The items of a kind among the newest snapshots. -/
def snapsOf (s : State) (kind : Nat) : List RefItem := s.refl.snaps.filter fun i => bits i.desc 63 60 == kind

/-- Takeover begins (R417 step 1). -/
def beginTakeover (s : State) : State :=
  setRefl (modRefl s fun r => { r with half := [], gcmBuf := [], settle := none, taking := true }) rTAKING

/-- Steps 3 to 5 of a takeover: the state of the last committed epoch is loaded and released. -/
def takeOver (s : State) : State :=
  let ps := mirroredParts s
  let s1 := ps.foldl (fun s p => dropFlows (dropEngineWork s p) p) s
  let s2 := (snapsOf s1 3).foldl restoreQueue ((snapsOf s1 2).foldl restorePart ((snapsOf s1 1).foldl restoreCtx s1))
  let ups := (s2.ports.filter fun e => e.2.st == 2).map fun e => e.2.peerDev
  let s3 := ps.foldl (fun s p => if (routable s).contains p then ups.foldl (fun s d => askRoute s p d 0) s else s) s2
  let mine (s : State) (p : Nat) : List Nat := (s.flows.filter fun e => e.2.part == p).map Prod.fst
  let s4 := ps.foldl (fun s p => (mine (enterFlows s p) p).foldl admitFit (enterFlows s p)) s3
  let s5 := setRefl (modRefl s4 fun r => { r with
    taking := false, role := false, running := true, snaps := [], current := r.committed + 1, epochStart := s.time, acked := true }) rSOLO
  let s6 := report s5 0xB005 .device [BitVec.ofNat 64 s.refl.committed]
  signalMsix { s6 with hostIf := { s6.hostIf with takeover := true } } 0 0

/-- JOURNAL_APPLY_DONE (R411): the committed half is in the copy; a takeover then completes. -/
def applyDone (s : State) : State :=
  let s1 := modRefl (s.refl.applying.foldl applyLine s) fun r => { r with applying := [] }
  if s1.refl.taking then takeOver s1 else s1

def execJournalApplyDone (s : State) : Host.Outcome State Fault Refusal := .next (applyDone s)

/-! ## Loss and arbitration (R415, R416) -/

/-- FENCED: every held output discarded and a partition reset of each mirrored partition. -/
def fence (s : State) : State :=
  let s1 := (mirroredParts s).foldl partitionReset s
  setRefl (modRefl s1 fun r => { r with
    heldOuts := [], running := false, ending := false, outItems := [], shipLines := [], openLines := [], copy := [] }) rFENCED

/-- The Primary alone: every held output released. -/
def goSolo (s : State) : State :=
  setRefl (modRefl (releaseOuts s fun _ => true) fun r => { r with
    ending := false, acked := true, outItems := [], shipLines := [], openLines := [], copy := [], authed := false, gcmBuf := [] }) rSOLO

/-- The Twin declines: it drives RELINQUISH and stands by. -/
def relinquish (s : State) : State :=
  setRefl (modRefl s fun r => { r with relinq := true, settle := none, half := [], gcmBuf := [], authed := false }) rSTANDBY

/-- The table of R416 for a Primary. -/
def primaryActs (s : State) : State :=
  match s.refl.hbIn with
  | 1 => setRefl s rLOST
  | 3 => fence s
  | _ => goSolo s

/-- The witness of a heartbeat anomaly: the twin that the image names (R433). -/
def twinWit (s : State) : Subject := .peer (match s.img.reflect with | some r => r.twin | none => s.refl.twin)

/-- The decision of a SYNCED Twin. -/
def twinActs (s : State) : State :=
  match s.refl.hbIn with
  | 0 => beginTakeover s
  | 1 => relinquish s
  | _ =>
    let (n, s1) := drawNat s
    relinquish (report s1 0xB003 .device [BitVec.ofNat 64 n] (some (twinWit s)))

/-- Whether the link is lost (R415). -/
def linkLost (s : State) : Bool :=
  (reflUp s).isEmpty || (match s.refl.lastHb with | some t => decide (t + 200000 ≤ s.time) | none => true)

/-- REFLECT_LINK_LOSS. -/
def reflLoss (s : State) : State :=
  let st := s.refl.state
  if linkLost s = false ∨ ¬(st = rRESYNC ∨ st = rSYNCED) then s
  else if s.refl.role = false then primaryActs s
  else if st = rRESYNC then setRefl (modRefl s fun r => { r with half := [], gcmBuf := [], authed := false }) rSTANDBY
  else if s.refl.hbIn = 0 then beginTakeover s
  else setRefl (modRefl s fun r => { r with settle := some s.time }) rLOST

def execReflectLinkLoss (s : State) : Host.Outcome State Fault Refusal := .next (reflLoss s)

/-- SETTLE_WINDOW_END (R416): 500 µs from the detection of the loss. -/
def settleEnd (s : State) : State :=
  match s.refl.settle with
  | some t => if t + 500000 ≤ s.time then twinActs s else s
  | none => s

def execSettleWindowEnd (s : State) : Host.Outcome State Fault Refusal := .next (settleEnd s)

/-- A classification of TWIN_ALIVE_I; a Primary in LOST applies its table again, a Twin that sees SILENT in its window takes over. -/
def classify (s : State) (n : Nat) : State :=
  if s.refl.hbIn = n then s
  else
    let s1 := modRefl s fun r => { r with hbIn := n }
    if s1.refl.state = rLOST ∧ s1.refl.role = false then primaryActs s1
    else if n = 0 ∧ s1.refl.settle.isSome = true then beginTakeover s1
    else s1

/-- TWIN_ALIVE_EDGE (R402). -/
def aliveEdge (s : State) : State :=
  let s1 := modRefl s fun r => { r with pinIn := !r.pinIn, lastEdgeIn := some s.time }
  match s.refl.lastEdgeIn with
  | none => s1
  | some t =>
    let d := s.time - t
    if 30000 ≤ d ∧ d ≤ 70000 then classify s1 1
    else if 6000 ≤ d ∧ d ≤ 14000 then classify s1 2
    else if 1000 ≤ d ∧ d ≤ 3000 then classify s1 3
    else report s1 0xB003 .device [BitVec.ofNat 64 d] (some (twinWit s))

def execTwinAliveEdge (s : State) : Host.Outcome State Fault Refusal := .next (aliveEdge s)

/-- TWIN_ALIVE_SILENT (R402). -/
def aliveSilent (s : State) : State :=
  match s.refl.lastEdgeIn with
  | some t => if t + 500000 ≤ s.time then classify s 0 else s
  | none => classify s 0

def execTwinAliveSilent (s : State) : Host.Outcome State Fault Refusal := .next (aliveSilent s)

/-! ## Registers (R420) -/

/-- A command discarded and recorded. -/
def rfDiscard (s : State) (cmd : Nat) : State := report s 0xB007 .device [BitVec.ofNat 64 cmd]

/-- A write of `RFCMD`. -/
def rfcmd (s : State) (cmd : Nat) : State :=
  let r := s.refl
  match cmd with
  | 0 => s
  | 1 =>
    if r.state = rSTANDBY ∨ r.state = rSOLO ∨ r.refuse ≠ 0 then
      setRefl (modRefl s fun r => { r with refuse := 0, relinq := false }) rFORMING
    else rfDiscard s 1
  | 2 => if r.running then fence s else rfDiscard s 2
  | 3 => if r.role = true ∧ r.state = rSYNCED then relinquish s else rfDiscard s 3
  | n => rfDiscard s n

def execRfcmdForm (s : State) : Host.Outcome State Fault Refusal := .next (rfcmd s 1)

def execRfcmdStanddown (s : State) : Host.Outcome State Fault Refusal := .next (rfcmd s 2)

def execRfcmdRelinquish (s : State) : Host.Outcome State Fault Refusal := .next (rfcmd s 3)

def rfstatReg (s : State) : W64 :=
  let r := s.refl
  field r.twin 60 ||| field ((reflUp s).foldl (fun m p => m + 2 ^ p) 0) 44 ||| field r.refuse 32 ||| field r.hbIn 12 |||
    field (alivePattern s) 8 ||| flagBit r.role 4 ||| field r.state 0

def rfepochReg (s : State) : W64 :=
  field (s.refl.committed % 2 ^ 32) 32 ||| field ((if s.refl.role then s.refl.committed else s.refl.current) % 2 ^ 32) 0

end Sys2Proof.Machine
end

