-- ==== Sys2Proof/Machine/HostPort.lean ====
section
/-!
DEFINITION. What the host commands: HOST-bound queues and host sends (R475, R476), the mailbox (R478 to R480) with the owner, version
and re-forming commands (R369, R370, R380, R381), and the flash operations (R486).
-/

namespace Sys2Proof.Machine
open Sys2Proof

def modHost (s : State) (f : HostIf → HostIf) : State := { s with hostIf := f s.hostIf }

/-! ## Refusals (R471, R472) -/

/-- A request recorded as refused; the manual numbers no request types, so the type is free. -/
def refusedReq (s : State) (fn off : Nat) : State :=
  let (kind, s1) := drawWord s
  report s1 0x8001 .none [BitVec.ofNat 64 fn, kind.pay, BitVec.ofNat 64 off]

/-- PCIE_LINK with the link's width and rate. -/
def pcieLinkEvent (s : State) (ev : Nat) : State :=
  report s 0x8003 .none [BitVec.ofNat 64 ev, BitVec.ofNat 64 (s.hostIf.linkWidth * 256 + s.hostIf.linkRate)]

/-- An UR response or a malformed TLP counted against a function: 4,096 within 1 s isolate it (R472). -/
def countBad (s : State) (fn : Nat) : State :=
  let recent := (tget [] s.hostIf.refusals fn ++ [s.time]).filter fun t => decide (s.time < t + 10 ^ 9)
  let s1 := modHost s fun h => { h with refusals := tput h.refusals fn recent }
  if 4096 ≤ recent.length ∧ s.hostIf.isolated.contains fn = false then
    pcieLinkEvent (modHost s1 fun h => { h with isolated := h.isolated ++ [fn] }) 4
  else s1

/-- A completion on its way to the host; one that shows a mirrored partition is held (R413). -/
def complete (s : State) (mirrored : Bool) (c : Cpl) : State :=
  if mirrored && (s.refl.state == 3 || s.refl.state == 4) && !s.refl.role then holdOut s (.cpl c)
  else modHost s fun h => { h with cpls := h.cpls ++ [c] }

/-- A read answered UR, or a write discarded; both recorded. -/
def answerUr (s : State) (fn off : Nat) (read : Bool) : State :=
  let s1 := countBad (refusedReq s fn off) fn
  if read then complete s1 false { fn, status := 1 } else s1

/-! ## Queues of the host (R475, R476) -/

/-- Whether a sealed partition's queue has its ring wholly inside the open window (R390). -/
def ringOpen (s : State) (q : Nat) : Bool :=
  let x := getQ s q
  let k := getPart s x.owner
  let a := x.base % 2 ^ 36
  !k.sealed || (k.slwinl != 0 && k.winFill.isNone && decide (k.winBase ≤ a) && decide (a + x.cap * x.slotWords ≤ k.winBase + k.slwinl))

/-- HQHEAD_WRITE: through the physical function, or the function of the queue's partition; HEAD takes the low 32 bits of the FIX word. -/
def hqhead (s : State) (fn q : Nat) (w : Word) : State :=
  let x := getQ s q
  let off := 16 * q
  let bound := x.owned && x.bind == 3
  if fn ≠ 0 ∧ (bound = false ∨ fn ≠ x.owner + 1) then answerUr s fn off false
  else if bound = false then refusedReq s fn off
  else if ringOpen s q = false then answerUr (sealedRefused s x.owner 1 .device) fn off false
  else
    let n := (w.pay.toNat % 2 ^ 32 + 2 ^ 32 - x.head) % 2 ^ 32
    if w.tag ≠ tagFIX ∨ x.occ < n then refusedReq s fn off
    else (List.range n).foldl (fun s _ => dequeue s q) s

def execHqheadWrite (fn queue : Nat) (w : Word) (s : State) : Host.Outcome State Fault Refusal := .next (hqhead s fn queue w)

/-- The verdict on a host send: that of a Shade send, BUSY when the base die's outbox is full (R294, R476). -/
def hostVerdict (s : State) (p qid : Nat) : Nat :=
  let dev := qid / 65536
  if dev ≠ s.dev ∧ (routePort s p dev).isNone then vNO_PATH
  else if 64 ≤ (s.outbox.filter fun o => o.msg.kind == .host).length then vBUSY
  else if holdFull s p qid then vBUSY
  else 0

/-- HSCMD_SEND: the block's words sent as a Shade message of its partition. -/
def hscmd (s : State) (p : Nat) (w : Word) : State :=
  if 32 ≤ p ∨ (getPart s p).defined = false then refusedReq s 0 (0x900000 + 256 * p)
  else if (getPart s p).sealed then answerUr (sealedRefused s p 1 .device) 0 (0x900000 + 256 * p) false
  else
    let n := bits w.pay 23 20
    let qid := bits w.pay 19 0
    let stat (v : Nat) (s : State) : State := modHost s fun h => { h with sendStat := tput h.sendStat p v }
    if n = 0 ∨ 8 < n then stat vTOO_LONG s
    else
      let v := hostVerdict s p qid
      if v ≠ 0 then stat v s
      else
        let words := (List.range n).map fun i => tget Word.zero s.hostIf.sendWords (p * 8 + i)
        let m : Msg := { src := .host, kind := .host, part := p, srcDev := s.dev, qid, words }
        stat 0 { s with outbox := s.outbox ++ [{ msg := m }] }

def execHscmdSend (part : Nat) (w : Word) (s : State) : Host.Outcome State Fault Refusal := .next (hscmd s part w)

/-! ## The flash (R485, R486) -/

/-- The offsets that host and SMBus reach: the directory, the firmware slot that ACTIVE does not name, the capsule area, the image
slot and the owner area. -/
def flashReach (s : State) (off : Nat) : Bool :=
  let idle := if s.trust.active = 0 then 0x800000 else 0x400000
  decide (off < 0x10000) || (decide (idle ≤ off) && decide (off < idle + 0x400000)) || (decide (0xC00000 ≤ off) && decide (off < 0x4000000))

def flashRange (s : State) (off n : Nat) : Bool :=
  flashReach s off && flashReach s (off + n - 1) && (List.range (n / 0x10000 + 1)).all fun i => flashReach s (min (off + n - 1) (off + i * 0x10000))

/-- A flash operation queued for the Management Sequencer; `who` is 1 for the mailbox and 0 for SMBus. -/
def queueFlash (s : State) (op : FlashOp) (who : Nat) : State := { s with flash := { s.flash with ops := s.flash.ops ++ [(op, who)] } }

/-- FLASH_OPERATION_DONE: the oldest operation is performed. -/
def flashDone (s : State) : State :=
  match s.flash.ops with
  | [] => s
  | (.write off bs, _) :: rest => { s with flash := { bytes := flashProgram s.flash.bytes off bs, ops := rest } }
  | (.erase off, _) :: rest => { s with flash := { bytes := flashErase s.flash.bytes off, ops := rest } }

def execFlashOperationDone (s : State) : Host.Outcome State Fault Refusal := .next (flashDone s)

/-! ## The mailbox (R478, R479) -/

def hmOK : Nat := 0
def hmBUSY : Nat := 1
def hmBAD_BUFFER : Nat := 2
def hmBAD_SIGNATURE : Nat := 3
def hmNOT_ACCEPTED : Nat := 4
def hmNOT_QUIESCED : Nat := 5
def hmREJECTED : Nat := 6
def hmMIRRORED : Nat := 7
def hmUNAVAILABLE : Nat := 8
def hmBAD_COMMAND : Nat := 9
def hmRECOVERY_ONLY : Nat := 10

/-- Whether boot has ended in RECOVERY (R374). -/
def inRecovery (s : State) : Bool := s.trust.stage == 10

/-- Words of the recovery staging buffer (R474). -/
def stagingHas (a n : Nat) : Bool := decide (0xC00190000 ≤ a) && decide (a + n ≤ 0xC00192000)

/-- A buffer that the mailbox may use: local DRAM outside every grant of a sealed partition, or in RECOVERY the staging buffer. -/
def hmBufferOk (s : State) (a n : Nat) : Bool :=
  if inRecovery s then stagingHas a n
  else decide (a + n ≤ s.part.dramTop) &&
    !(s.parts.any fun e => e.2.sealed && e.2.grants.any fun g => overlaps a n g.1 g.2)

/-- The first n bytes of the buffer. -/
def hmBytes (s : State) (a n : Nat) : List (BitVec 8) :=
  let word (i : Nat) : List (BitVec 8) :=
    bytesLE (if inRecovery s then tget Word.zero s.staging (a + i - 0xC00190000) else cohRead s (a + i)).pay
  ((List.range ((n + 7) / 8)).flatMap word).take n

/-- The bytes that a command needs at least, and whether its buffer is signed. -/
def hmNeeds (cmd : Nat) : Nat :=
  match cmd with
  | 1 => 128
  | 2 => 133
  | 3 => 196
  | 4 => 140
  | 5 => 140
  | 6 => 168
  | 9 => 5
  | 10 => 4
  | _ => 0

/-- Words of the buffer that a command reads or writes. -/
def hmSpan (cmd len : Nat) : Nat := if cmd = 1 then 103 else (len + 7) / 8

def endCmd (s : State) (last : Nat) (detail : Nat := 0) : State :=
  modHost s fun h => { h with busy := none, last, detail }

/-- A write of `HMCMD`. One made while a command runs is discarded as BUSY (R478); but a re-forming of another partition waits for the one that
runs, and a second one of the same partition has its refusal recorded (R370). -/
def hmcmd (s : State) (cmd arg : Nat) : State :=
  let h := s.hostIf
  let a := bits h.hmbuf 35 0
  let len := bits h.hmbuf 63 36
  if h.busy.isSome then
    if cmd = 6 ∧ h.busy.any (fun c => c.cmd == 6 && c.arg != arg) = true ∧ hmNeeds cmd ≤ len ∧ hmBufferOk s a (hmSpan cmd len) = true then
      modHost s fun h => { h with reformQ := h.reformQ ++ [{ cmd, arg, addr := a, bytes := hmBytes s a len }] }
    else
      let s1 := modHost s fun h => { h with last := hmBUSY }
      if cmd = 6 ∧ h.busy.any (fun c => c.cmd == 6 && c.arg == arg) = true then report s1 0x0008 (.partition arg) [BitVec.ofNat 64 hmBUSY] else s1
  else if cmd = 0 then s
  else if inRecovery s = true ∧ cmd ≠ 8 ∧ cmd ≠ 9 ∧ cmd ≠ 10 then endCmd s hmRECOVERY_ONLY
  else if 10 < cmd then endCmd s hmBAD_COMMAND
  else if hmNeeds cmd ≠ 0 ∧ (len < hmNeeds cmd ∨ hmBufferOk s a (hmSpan cmd len) = false) then endCmd s hmBAD_BUFFER
  else
    let bs := if hmNeeds cmd = 0 then [] else hmBytes s a (if cmd = 1 then 128 else len)
    let off := natOfBytesLE (bs.take 4)
    let run (s : State) : State := modHost s fun h => { h with busy := some { cmd, arg, addr := a, bytes := bs } }
    match cmd with
    | 9 =>
      if flashRange s off (len - 4) then queueFlash (run s) (.write off (bs.drop 4)) 1 else endCmd s hmBAD_BUFFER
    | 10 => if flashReach s off then queueFlash (run s) (.erase off) 1 else endCmd s hmBAD_BUFFER
    | _ => run s

def execHmcmdAttest (arg : W64) (s : State) : Host.Outcome State Fault Refusal := .next (hmcmd s 1 (bits arg 7 0))

def execHmcmdEnrol (arg : W64) (s : State) : Host.Outcome State Fault Refusal := .next (hmcmd s 2 (bits arg 7 0))

def execHmcmdTransfer (arg : W64) (s : State) : Host.Outcome State Fault Refusal := .next (hmcmd s 3 (bits arg 7 0))

def execHmcmdRevoke (arg : W64) (s : State) : Host.Outcome State Fault Refusal := .next (hmcmd s 4 (bits arg 7 0))

def execHmcmdSvnRaise (arg : W64) (s : State) : Host.Outcome State Fault Refusal := .next (hmcmd s 5 (bits arg 7 0))

def execHmcmdReform (arg : W64) (s : State) : Host.Outcome State Fault Refusal := .next (hmcmd s 6 (bits arg 7 0))

def execHmcmdPartReset (arg : W64) (s : State) : Host.Outcome State Fault Refusal := .next (hmcmd s 7 (bits arg 7 0))

def execHmcmdWarmReset (arg : W64) (s : State) : Host.Outcome State Fault Refusal := .next (hmcmd s 8 (bits arg 7 0))

def execHmcmdFlashWrite (arg : W64) (s : State) : Host.Outcome State Fault Refusal := .next (hmcmd s 9 (bits arg 7 0))

def execHmcmdFlashErase (arg : W64) (s : State) : Host.Outcome State Fault Refusal := .next (hmcmd s 10 (bits arg 7 0))

/-! ## Owner and version commands (R380, R381) -/

/-- The signature of a command: the last 132 bytes, over everything before them. -/
def cmdSigned (key bs : List (BitVec 8)) : Bool :=
  Config.ecdsaVerify key (sha512 (bs.take (bs.length - 132))) (bs.drop (bs.length - 132))

/-- The current owner's key: that of the image in force, or of the image in flash, where its hash is the slot's. -/
def ownerKey (s : State) (o : OwnerSlot) : Option (List (BitVec 8)) :=
  [s.img.owner, rdBytes (fun i => flashByte s (0x1000000 + i)) 0x20 133].find? fun k => decide (sha512 k = o.hash)

/-- A command that blows fuses at the next reset: recorded and put into the history. -/
def ownerCmd (s : State) (cmd typ svn : Nat) (bl : List FuseBlow) : State :=
  let s1 := report (modTrust s fun t => { t with blows := t.blows ++ bl }) 0xD006 .none [BitVec.ofNat 64 cmd]
  endCmd (addHist s1 typ svn 0) hmOK

/-- A command signed by the current owner. -/
def ownerSigned (s : State) (bs : List (BitVec 8)) (run : Nat → State) : State :=
  match currentOwner s with
  | none => endCmd s hmNOT_ACCEPTED
  | some (i, o) =>
    match ownerKey s o with
    | some k => if cmdSigned k bs then run i else endCmd s hmBAD_SIGNATURE
    | none => endCmd s hmBAD_SIGNATURE

/-- ENROL. -/
def enrol (s : State) (bs : List (BitVec 8)) : State :=
  if s.trust.owners.isEmpty then ownerCmd s 2 4 0 [.owner 0 (sha512 (bs.take 133))] else endCmd s hmNOT_ACCEPTED

/-- TRANSFER: the next free slot above the current one takes the new hash. -/
def transfer (s : State) (bs : List (BitVec 8)) : State :=
  ownerSigned s bs fun i =>
    match ((List.range 4).filter fun j => decide (i < j) && !thas s.trust.owners j).head? with
    | some j => ownerCmd s 3 5 0 [.revoke i, .owner j (bs.take 64)]
    | none => endCmd s hmNOT_ACCEPTED

/-- REVOKE. -/
def revoke (s : State) (bs : List (BitVec 8)) : State := ownerSigned s bs fun i => ownerCmd s 4 6 0 [.revoke i]

/-- SVN_RAISE (R381): the firmware minimum under the key of the firmware slot that passed its check, the capsule minimum under Scacor's key for
capsules; a command that raises nothing changes nothing. -/
def svnRaise (s : State) (bs : List (BitVec 8)) : State :=
  let which := natOfBytesLE (bs.take 4)
  let n := natOfBytesLE ((bs.drop 4).take 4)
  let raise (now : Nat) (b : FuseBlow) : State :=
    if now < n then ownerCmd s 5 7 n [b] else endCmd (report s 0xD006 .none [5]) hmOK
  let scacor (key : List (BitVec 8)) (now : Nat) (b : FuseBlow) : State :=
    if cmdSigned key bs then raise now b else endCmd s hmBAD_SIGNATURE
  match which with
  | 0 => scacor (Config.fwKey (slotBytes s s.trust.active)) s.trust.fwSvnMin (.fwSvn n)
  | 1 => scacor Config.capsuleKey s.trust.capSvnMin (.capSvn n)
  | 2 => ownerSigned s bs fun i => raise (tget 0 s.trust.imgSvnMin i) (.imgSvn i n)
  | _ => endCmd s hmNOT_ACCEPTED

/-! ## Re-forming (R369, R370) -/

/-- Partition reset asked for by the host: one asked for while the partition is re-formed waits (R370). -/
def hostPartReset (s : State) (p : Nat) : State :=
  match s.hostIf.busy with
  | some c =>
    if c.cmd = 6 ∧ c.arg = p then modHost s fun h => { h with heldReset := if h.heldReset.contains p then h.heldReset else h.heldReset ++ [p] }
    else partitionReset s p
  | none => partitionReset s p

/-- Steps 2 and 3 of R369: the partition's flows and routes withdrawn, its queues disabled, and a sealed partition's memory filled and its keys
discarded. -/
def withdrawReform (s : State) (p : Nat) : State :=
  let s1 := ((s.flows.filter fun e => e.2.part == p).map Prod.fst).foldl withdrawFlow (withdrawRoutes s p)
  stopSealed ((queuesOf s1 p).foldl (fun s q => qcmd s q 2) s1) p

/-- Whether everything issued on the paths of a partition has been delivered or answered, and every withdrawal of them acknowledged (R25). -/
def pathsEmpty (s : State) (p : Nat) : Bool :=
  let flit (f : Flit) : Bool := f.part == p && decide (5 ≤ f.typ) && decide (f.typ ≤ 11)
  !(s.withdrawing.any fun e => e.part == p) && !(s.remotes.any fun r => r.part == p) &&
    !(s.outbox.any fun o => o.msg.part == p && (o.sent || o.msg.sun)) && !(s.msgs.any fun m => m.part == p) &&
    !(s.ports.any fun e => e.2.waiting.any flit || e.2.replay.any flit)

/-- Steps 4 to 6 of R369: the fields written and locked, the routes set up afresh, the flows admitted after every other, and BOOTCTX started. A
cluster whose `L2CFG` changes has its ways cleaned as for a write of it (R226); a queue that the partition no longer owns is no queue. -/
def applyReform (s : State) (p : Nat) (m : Image) : State :=
  let old := s.img.cache
  let s1 : State := { s with img := m, flows := s.flows.filter fun e => e.2.part != p }
  let s2 := ((List.range s.part.clusters).filter fun c => thas m.cache c && (tget 0 m.cache c != tget 0 old c)).foldl
    (fun s c => modCluster (l2cfgWrite s c (tget 0 m.cache c)) c fun k => fitWays k 16) s1
  let s3 := (queuesOf s2 p).foldl (fun s q => modQ s q fun _ => {}) s2
  match imgPart s3 p with
  | none => s3
  | some r =>
    let s4 := startSealed (modPart (loadPart s3 r) p fun q => { q with reformed := true }) p
    let twoHop := s4.img.routes.filter fun f => f.2.2 / 2 ^ p % 2 == 1 && (meshPort s4 f.1).isNone
    let s5 := if (routable s4).contains p then
        let s := (meshPeers s4).foldl (fun s d => askRoute s p d 0) s4
        twoHop.foldl (fun s f => match routeMid s p f.1 with
          | some v => askRoute s p f.1 (0x10 + v)
          | none => s) s
      else s4
    startBoot (tryFlows (enterFlows s5 p) fun f => f.part == p) r

/-- The STARTs that the re-forming held: refused once BOOTCTX runs, otherwise made (R370). -/
def heldStarts (s : State) (applied : Bool) : State :=
  s.hostIf.heldStart.foldl
    (fun s e => if applied then modRegs s e.1 fun r => { r with cmdst := true } else xcmdWrite s e.1 e.2 1)
    (modHost s fun h => { h with heldStart := [] })

/-- The partition resets that waited for a re-forming made. -/
def heldResets (s : State) : State :=
  s.hostIf.heldReset.foldl partitionReset (modHost s fun h => { h with heldReset := [] })

/-- A re-forming that ends with an outcome: it is recorded, what it held takes place, and the next one that waits runs. -/
def endReform (s : State) (p n detail : Nat) : State :=
  let s1 := endCmd (report s 0x0008 (.partition p) [BitVec.ofNat 64 n]) n detail
  let s2 := heldResets (heldStarts (modHost s1 fun h => { h with reform := none }) (n == hmOK))
  match s2.hostIf.reformQ with
  | [] => s2
  | c :: rest => modHost s2 fun h => { h with busy := some c, reformQ := rest }

/-- Step 1 of a re-forming: refused, rejected with the reason of R364, or accepted, when its withdrawals begin. -/
def reform (s : State) (p : Nat) (bs : List (BitVec 8)) : State :=
  let q := getPart s p
  if q.defined = false ∨ s.img.inForce = false then
    let (d, s1) := drawNat s
    endReform s1 p hmREJECTED (d % 256)
  else if q.mirrored then endReform s p hmMIRRORED 0
  else if q.quiesced = false then endReform s p hmNOT_QUIESCED 0
  else match validateReform s (fun i => ((bs[i]?).getD 0).toNat) p with
    | .error e =>
      endReform (report s 0x0004 .none [BitVec.ofNat 64 e.reason, BitVec.ofNat 64 e.sect, BitVec.ofNat 64 e.rec']) p hmREJECTED e.reason
    | .ok m => withdrawReform (modHost s fun h => { h with reform := some m }) p

/-- A re-forming moves on: from step 1 to the withdrawals, and, once they are acknowledged and the paths are empty, to its end (R25, R369). -/
def reformStep (s : State) (p : Nat) (bs : List (BitVec 8)) : State :=
  match s.hostIf.reform with
  | none => reform s p bs
  | some m => if pathsEmpty s p then endReform (addHist (applyReform s p m) 8 0 (BitVec.ofNat 64 p)) p hmOK 0 else s

/-! ## HOST_COMMAND_DONE -/

/-- The running command ends; a flash command once its operation has been performed. -/
def hostDone (s : State) : State :=
  match s.hostIf.busy with
  | none => s
  | some c =>
    match c.cmd with
    | 1 =>
      if attestOk s then
        endCmd (putWords s (c.addr + 16) (packWords (reportBytes s none (c.bytes.take 64) (c.bytes.drop 64)))) hmOK
      else endCmd s hmUNAVAILABLE
    | 2 => enrol s c.bytes
    | 3 => transfer s c.bytes
    | 4 => revoke s c.bytes
    | 5 => svnRaise s c.bytes
    | 6 => reformStep s c.arg c.bytes
    | 7 => if (imgPart s c.arg).isSome then endCmd (partitionReset s c.arg) hmOK else endCmd s hmNOT_ACCEPTED
    | 8 => warmReset (endCmd s hmOK)
    | _ => if s.flash.ops.any fun e => e.2 == 1 then s else endCmd s hmOK

def execHostCommandDone (s : State) : Host.Outcome State Fault Refusal := .next (hostDone s)

/-! ## Registers (R478) -/

def hmstatReg (s : State) : W64 :=
  field s.hostIf.detail 56 ||| field s.hostIf.last 8 ||| flagBit s.hostIf.takeover 3 ||| flagBit s.hostIf.alarm 2 |||
    flagBit (alertN s) 1 ||| flagBit s.hostIf.busy.isSome 0

def hmstatWrite (s : State) (v : W64) : State :=
  modHost s fun h => { h with takeover := h.takeover && !bit v 3, alarm := h.alarm && !bit v 2 }

end Sys2Proof.Machine
end

