-- ==== Sys2Proof/Machine/Dcs.lean ====
section
/-!
DEFINITION. Device control space (R474): who reaches which word, and every register and window read and written.
-/

namespace Sys2Proof.Machine
open Sys2Proof

/-- The offset of an address in device control space. -/
def dcsOff (a : Nat) : Nat := a - 0xC00000000

/-- An offset between two bounds. -/
def offIn (o lo hi : Nat) : Bool := decide (lo ≤ o) && decide (o ≤ hi)

/-- The windows of the recorder: ring, fallback bank, Penumbra table and lifetime block. -/
def isWindow (o : Nat) : Bool :=
  offIn o 0x100000 0x17FFFF || offIn o 0x180000 0x1807FF || offIn o 0x182000 0x182FFF || offIn o 0x183000 0x183202

/-- Whether an agent reaches a word; every other word is reserved to it. In RECOVERY the physical function has the mailbox and the
staging buffer alone (R374). -/
def dcsReach (s : State) (who : DcsWho) (a : Nat) : Bool :=
  let o := dcsOff a
  let common := offIn o 0x20000 0x20100 || offIn o 0x20200 0x20202 || offIn o 0x40000 0x4FFFF || isWindow o
  decide (0xC00000000 ≤ a) && decide (a < 0xC01000000) &&
    match who with
    | .part p => dcsForPart p a
    | .pf =>
      if inRecovery s then offIn o 0 2 || offIn o 0x190000 0x191FFF
      else offIn o 0 2 || common || offIn o 0x50000 0x50004 || offIn o 0x80000 0x8FFFF || offIn o 0x90000 0x901FF
    | .smb => common || offIn o 0x50000 0x50004

/-! ## Reading -/

/-- A register of the Afterglow and calendar block (R448). -/
def agReg (s : State) (o : Nat) : W64 :=
  match o with
  | 0 => agstatReg s
  | 1 => agdrainReg s
  | 2 => agcountReg s
  | 4 => pencntReg s
  | 8 => calsecReg s
  | 9 => calsubReg s
  | 10 => s.cal.trim &&& 0xFFFF
  | 11 => calstatReg s
  | 12 => ltcmdReg s
  | 13 => calalmReg s
  | _ => 0

/-- A register of the power block (R467). -/
def powerReg (s : State) (o : Nat) : W64 :=
  match o with
  | 0 => pwrctlReg s
  | 1 => pwrstatReg s
  | 2 => clcmdReg s
  | 3 => clstateReg s
  | 4 => wdctlReg s
  | _ => 0

/-- A register of a timer block (R467). -/
def timerReg (s : State) (p o : Nat) : W64 :=
  match o with
  | 0 => tmctxReg s p
  | 1 => tmdlReg s p
  | 2 => tmstatReg s p
  | _ => 0

/-- A register of the port block (R347). -/
def portReg (s : State) (o : Nat) : W64 :=
  if o = 0x100 then tbstatReg s
  else match o % 16 with
    | 0 => bpstatReg s (o / 16)
    | 1 => bpviolReg s (o / 16)
    | _ => 0

/-- A word of a host send block (R476). -/
def sendBlockWord (s : State) (p o : Nat) : Word :=
  if o < 8 then tget Word.zero s.hostIf.sendWords (p * 8 + o)
  else if o = 9 then Word.fixN (tget 0 s.hostIf.sendStat p)
  else Word.zero

/-- The word at an address of device control space. -/
def dcsRead (s : State) (a : Nat) : Word :=
  let o := dcsOff a
  if o = 1 then Word.fix s.hostIf.hmbuf
  else if o = 2 then Word.fix (hmstatReg s)
  else if offIn o 0x20000 0x20100 then Word.fix (portReg s (o - 0x20000))
  else if o = 0x20200 then Word.fix (rfstatReg s)
  else if o = 0x20201 then Word.fix (rfepochReg s)
  else if offIn o 0x30000 0x301FF then Word.fix (sealingReg s ((o - 0x30000) / 16) (o % 16))
  else if offIn o 0x40000 0x4FFFF then Word.fix (agReg s (o - 0x40000))
  else if offIn o 0x50000 0x50004 then Word.fix (powerReg s (o - 0x50000))
  else if offIn o 0x60000 0x601FF then Word.fix (timerReg s ((o - 0x60000) / 16) (o % 16))
  else if offIn o 0x80000 0x8FFFF then Word.fix (queueReg (getQ s (o - 0x80000)) 0x1C5)
  else if offIn o 0x90000 0x901FF then sendBlockWord s ((o - 0x90000) / 16) (o % 16)
  else if offIn o 0x100000 0x17FFFF then tget Word.zero s.glow.ring (o - 0x100000)
  else if offIn o 0x180000 0x1807FF then tget Word.zero s.glow.fb (o - 0x180000)
  else if offIn o 0x182000 0x182FFF then penWord s (o - 0x182000)
  else if offIn o 0x183000 0x183202 then lifeWord s (o - 0x183000)
  else if offIn o 0x190000 0x191FFF then tget Word.zero s.staging (o - 0x190000)
  else Word.zero

/-! ## Writing -/

/-- A write of a register of the Afterglow and calendar block; a word that is not FIX is discarded. -/
def glowWrite (s : State) (o : Nat) (w : Word) : State :=
  if w.tag ≠ tagFIX then s
  else match o with
    | 0 => modGlow s fun g => { g with
        alertFb := g.alertFb && !bit w.pay 2, alertSev := g.alertSev && !bit w.pay 1, alertRing := g.alertRing && !bit w.pay 0 }
    | 1 => modGlow s fun g => { g with drainSeq := bits w.pay 63 32 }
    | 3 => agcmdWrite s w.pay
    | 8 => calsecWrite s w
    | 10 => caltrimWrite s w
    | 11 => modCal s fun c => { c with vbakLoss := c.vbakLoss && !bit w.pay 1 }
    | 12 => if bit w.pay 0 then ltcmdSave s else s
    | 13 => calalmWrite s w.pay
    | _ => s

/-- A write of a register of the power block. -/
def powerWrite (s : State) (o : Nat) (w : Word) : State :=
  if w.tag ≠ tagFIX then s
  else match o with
    | 0 => pwrctlWrite s w.pay
    | 2 => clcmdWrite s w.pay
    | 4 => wdctlWrite s w
    | _ => s

/-- A write of a register of a timer block. -/
def timerWrite (s : State) (p o : Nat) (w : Word) : State :=
  match o with
  | 0 => tmctxWrite s p w
  | 1 => tmdlWrite s p w
  | _ => s

/-- A write of a word of a host send block. -/
def sendBlockWrite (s : State) (p o : Nat) (w : Word) : State :=
  if o < 8 then modHost s fun h => { h with sendWords := tput h.sendWords (p * 8 + o) w }
  else if o = 8 then hscmd s p w
  else s

/-- A write by the physical function or by SMBus (R474). -/
def dcsPoke (s : State) (fn a : Nat) (w : Word) : State :=
  let o := dcsOff a
  if o = 0 then hmcmd s (bits w.pay 7 0) (bits w.pay 15 8)
  else if o = 1 then modHost s fun h => { h with hmbuf := w.pay }
  else if o = 2 then hmstatWrite s w.pay
  else if offIn o 0x20000 0x200FF then (if o % 16 = 1 then bpviolWrite s ((o - 0x20000) / 16) w.pay else s)
  else if o = 0x20202 then rfcmd s (bits w.pay 3 0)
  else if offIn o 0x40000 0x4FFFF then glowWrite s (o - 0x40000) w
  else if offIn o 0x50000 0x50004 then powerWrite s (o - 0x50000) w
  else if offIn o 0x80000 0x8FFFF then hqhead s fn (o - 0x80000) w
  else if offIn o 0x90000 0x901FF then sendBlockWrite s ((o - 0x90000) / 16) (o % 16) w
  else if offIn o 0x190000 0x191FFF then { s with staging := tput s.staging (o - 0x190000) w }
  else s

/-- A write of a word of device control space: a partition writes its own Sealing and timer blocks alone (R474). -/
def dcsWrite (s : State) (who : DcsWho) (a : Nat) (w : Word) : State :=
  if dcsReach s who a = false then s
  else
    let o := dcsOff a
    match who with
    | .part p =>
      if offIn o 0x30000 0x301FF then sealingWrite s p (o % 16) w
      else if offIn o 0x60000 0x601FF then timerWrite s p (o % 16) w
      else s
    | _ => dcsPoke s 0 a w

/-- DCS_REGISTER_WRITE; a partition needs DEVACC (R353). -/
def execDcsRegisterWrite (who : DcsWho) (addr : Nat) (w : Word) (s : State) : Host.Outcome State Fault Refusal :=
  .next (match who with
    | .part p => if (getPart s p).devacc then dcsWrite s who addr w else s
    | _ => dcsWrite s who addr w)

end Sys2Proof.Machine
end

