-- ==== Sys2Proof/Machine/Pcie.lean ====
section
/-!
DEFINITION. PCI Express (R468 to R474, R480): memory requests through the BARs, configuration requests, Function Level Reset, what is
refused, and the link. A BAR is named by its number, 0, 2 or 4, and a request by its byte offset in it.
-/

namespace Sys2Proof.Machine
open Sys2Proof

/-! ## Words as bytes (R468) -/

/-- The 16 bytes of a word: the payload, least significant byte first, the tag, and zeros. -/
def hostBytes (w : Word) : List (BitVec 8) := bytesLE w.pay ++ [w.tag] ++ zeros 7

/-- The word that 16 bytes make. -/
def wordOfHost (bs : List (BitVec 8)) : Word :=
  ⟨(bs[8]?).getD 0, BitVec.ofNat 64 (natOfBytesLE (bs.take 8))⟩

/-- A word merged with the bytes written to it; a byte that is not covered keeps its value. -/
def mergeWord (w : Word) (bs : List (Option (BitVec 8))) : Word :=
  wordOfHost ((List.range 16).map fun i =>
    match (bs[i]?).getD none with
    | some b => b
    | none => ((hostBytes w)[i]?).getD 0)

/-! ## Sealed memory (R390, R394) -/

/-- The sealed partition whose memory holds a local word outside its open window. -/
def sealedAt (s : State) (a : Nat) : Option Nat :=
  (s.parts.find? fun e => e.2.sealed && (e.2.grants.any fun g => decide (g.1 ≤ a) && decide (a < g.1 + g.2)) &&
    !(e.2.winFill.isNone && inWindow e.2 a)).map Prod.fst

/-- A word of a mirrored partition's memory. -/
def mirroredWord (s : State) (a : Nat) : Bool := mirroredLine s (a / 8)

/-! ## Where a request leads (R473) -/

/-- What a 16-byte place of a BAR holds. -/
inductive HostPlace where
  | dcs (a : Nat)
  | mem (a : Nat)
  | head (q : Nat)
  | send (p o : Nat)
  | msix (fn v : Nat)
  | pba (fn : Nat)
  | sealed (p : Nat)
  | none
deriving DecidableEq, Repr

/-- Whether a local word is DRAM or scratchpad that exists. -/
def memExists (s : State) (a : Nat) : Bool :=
  match localKind s a with
  | .dram => true
  | .scratch _ _ => true
  | _ => false

/-- A word of memory, or the sealed partition that hides it. -/
def memPlace (s : State) (a : Nat) (reach : Bool) : HostPlace :=
  if !reach || !memExists s a then .none
  else match sealedAt s a with
    | some p => .sealed p
    | none => .mem a

/-- The place of 16-byte unit n of a function's BAR. -/
def placeOf (s : State) (fn bar n : Nat) : HostPlace :=
  if fn = 0 then
    match bar with
    | 0 => if n < 0x1000000 ∧ dcsReach s .pf (0xC00000000 + n) = true then .dcs (0xC00000000 + n) else .none
    | 2 => if inRecovery s = true ∨ 2 ^ 36 ≤ n then .none else memPlace s n true
    | 4 => if inRecovery s then .none else if n < 64 then .msix 0 n else if n = 0x800 then .pba 0 else .none
    | _ => .none
  else
    let p := fn - 1
    let q := getPart s p
    if q.defined = false ∨ s.img.inForce = false then .none
    else match bar with
      | 0 => if 2 ^ 36 ≤ n then .none else memPlace s n (q.grants.any fun g => decide (g.1 ≤ n) && decide (n < g.1 + g.2))
      | 2 =>
        if n < 0x10000 then
          (if (getQ s n).owned && (getQ s n).owner == p && (getQ s n).bind == 3 then
            (if ringOpen s n then .head n else .sealed p) else .none)
        else if 0x10000 ≤ n ∧ n < 0x10010 then (if q.sealed then .sealed p else .send p (n - 0x10000))
        else if 0x18000 ≤ n ∧ n < 0x18040 then .msix fn (n - 0x18000)
        else if n = 0x1C000 then .pba fn
        else .none
      | _ => .none

/-- The place through the physical function's windows, whose registers of a sealed partition are refused as R394 states. -/
def hostPlace (s : State) (fn bar n : Nat) : HostPlace :=
  match placeOf s fn bar n with
  | .dcs a =>
    let o := dcsOff a
    let hidden (p : Nat) : HostPlace := if (getPart s p).sealed then .sealed p else .dcs a
    if offIn o 0x80000 0x8FFFF && (getQ s (o - 0x80000)).owned && !ringOpen s (o - 0x80000) then .sealed (getQ s (o - 0x80000)).owner
    else if offIn o 0x90000 0x901FF then hidden ((o - 0x90000) / 16)
    else .dcs a
  | p => p

/-- Whether PCI Express is cut off from the device: in EXTEST, in a reset that is held, or gated by THERMTRIP (R459, R487, R501). -/
def pinsDead (s : State) : Bool := s.dbg.extest || s.power.trip || s.power.heldReset

/-- Whether a function answers memory requests at all: Memory Space Enable, D0, not isolated (R471, R472). -/
def memEnabled (s : State) (fn : Nat) : Bool :=
  s.hostIf.mse.contains fn && !s.hostIf.d3.contains fn && !s.hostIf.isolated.contains fn && decide (fn ≤ 32) && !pinsDead s

/-- The 16-byte units that a request covers. -/
def unitsOf (off len : Nat) : List Nat := (List.range ((off + len - 1) / 16 + 1 - off / 16)).map (off / 16 + ·)

/-! ## Memory reads -/

/-- The vectors of a function that are pending, as the PBA shows them. -/
def pbaOf (s : State) (fn : Nat) : W64 :=
  s.hostIf.msixPend.foldl (fun v e => if e.1 = fn then v ||| flagBit true e.2 else v) 0

/-- The 16 bytes of a place, whether they hold a POISON word, and whether they show a mirrored partition. -/
def readPlace (s : State) (pl : HostPlace) : State × List (BitVec 8) × Bool × Bool :=
  match pl with
  | .dcs a => (s, hostBytes (dcsRead s a), (dcsRead s a).tag == tagPOISON, offIn (dcsOff a) 0x80000 0x8FFFF && (getPart s (getQ s (dcsOff a - 0x80000)).owner).mirrored)
  | .mem a => let (w, s1) := homeRead (settleStale s (a / 8)) a; (s1, hostBytes w, w.tag == tagPOISON, mirroredWord s a)
  | .head q => (s, hostBytes (Word.fix (queueReg (getQ s q) 0x1C5)), false, (getPart s (getQ s q).owner).mirrored)
  | .send p o => (s, hostBytes (sendBlockWord s p o), (sendBlockWord s p o).tag == tagPOISON, (getPart s p).mirrored)
  | .msix fn v => (s, bytesLE (msixAddr s fn v) ++ bytesLE (msixCtl s fn v), false, false)
  | .pba fn => (s, bytesLE (pbaOf s fn) ++ zeros 8, false, false)
  | _ => (s, zeros 16, false, false)

/-- Several places read in order. -/
def readPlaces (s : State) (fn bar : Nat) : List Nat → State × List (BitVec 8) × Bool × Bool
  | [] => (s, [], false, false)
  | n :: ns =>
    let (s1, bs, ep, mi) := readPlace s (hostPlace s fn bar n)
    let (s2, bs2, ep2, mi2) := readPlaces s1 fn bar ns
    (s2, bs ++ bs2, ep || ep2, mi || mi2)

/-- The first place of a request that it may not reach. -/
def badPlace (s : State) (fn bar : Nat) (ns : List Nat) : Option HostPlace :=
  (ns.map (hostPlace s fn bar)).find? fun p => match p with
    | .none => true
    | .sealed _ => true
    | _ => false

/-- A request that is refused: UR for a read, nothing for a write; recorded, and for sealed memory in the security group too. -/
def refusePlace (s : State) (fn off : Nat) (read : Bool) (pl : HostPlace) : State :=
  match pl with
  | .sealed p => answerUr (sealedRefused s p 1 .device) fn off read
  | _ => answerUr s fn off read

/-- PCIE_MEMORY_READ. -/
def pcieRead (s : State) (fn bar off len : Nat) : State :=
  if pinsDead s || len == 0 then s
  else if memEnabled s fn = false then answerUr s fn off true
  else match badPlace s fn bar (unitsOf off len) with
    | some pl => refusePlace s fn off true pl
    | none =>
      let (s1, bs, ep, mi) := readPlaces s fn bar (unitsOf off len)
      complete s1 mi { fn, status := 0, ep, data := (bs.drop (off % 16)).take len }

def execPcieMemoryRead (fn bar off len : Nat) (s : State) : Host.Outcome State Fault Refusal := .next (pcieRead s fn bar off len)

/-! ## Memory writes -/

/-- The bits of a word of device control space that a written 1 clears (R347, R448, R467, R478). -/
def w1cMask (o : Nat) : W64 :=
  if o = 2 then field 3 2
  else if offIn o 0x20000 0x200FF && o % 16 == 1 then 0xFFFFFFFF
  else if o = 0x40000 then 7
  else if o = 0x4000B then 2
  else if o = 0x4000D then flagBit true 41
  else if o = 0x50004 then 8
  else 0

/-- The word that a place holds now, for the merge of a partial write (R468). DEDUCED: a byte that is not covered clears no
write-one-to-clear bit, since it keeps its value. -/
def placeWord (s : State) (pl : HostPlace) : Word :=
  match pl with
  | .dcs a => let w := dcsRead s a; { w with pay := w.pay &&& ~~~ w1cMask (dcsOff a) }
  | .mem a => cohRead s a
  | .head q => Word.fix (queueReg (getQ s q) 0x1C5)
  | .send p o => sendBlockWord s p o
  | _ => Word.zero

/-- An MSI-X table entry written, and a vector that this unmasks signalled if it is pending. -/
def msixWrite (s : State) (fn v : Nat) (bs : List (Option (BitVec 8))) : State :=
  let old := bytesLE (msixAddr s fn v) ++ bytesLE (msixCtl s fn v)
  let new := (List.range 16).map fun i => match (bs[i]?).getD none with
    | some b => b
    | none => (old[i]?).getD 0
  let half (l : List (BitVec 8)) : Word := Word.fixN (natOfBytesLE l)
  let s1 := modHost s fun h => { h with
    msixTable := tput (tput h.msixTable ((fn * 64 + v) * 2) (half (new.take 8))) ((fn * 64 + v) * 2 + 1) (half (new.drop 8)) }
  if s1.hostIf.msixPend.contains (fn, v) && !msixMasked s1 fn v then
    signalMsix (modHost s1 fun h => { h with msixPend := h.msixPend.filter fun e => e != (fn, v) }) fn v
  else s1

/-- The bytes that a write gives unit n. -/
def unitBytes (off n : Nat) (bytes : List (Option (BitVec 8))) : List (Option (BitVec 8)) :=
  (List.range 16).map fun i => if n * 16 + i < off then none else (bytes[n * 16 + i - off]?).getD none

/-- One place written. -/
def writePlace (s : State) (fn : Nat) (pl : HostPlace) (bs : List (Option (BitVec 8))) : State :=
  let w := mergeWord (placeWord s pl) bs
  if bs.all Option.isNone then s
  else match pl with
    | .dcs a => dcsPoke s fn a w
    | .mem a => homeWrite (settleStale s (a / 8)) a w
    | .head q => hqhead s fn q w
    | .send p o => sendBlockWrite s p o w
    | .msix f v => msixWrite s f v bs
    | _ => s

/-- Whether a write through a virtual function would leave a word tagged 0xC0 to 0xFF (R469). -/
def protectedWrite (s : State) (fn bar off : Nat) (bytes : List (Option (BitVec 8))) (ns : List Nat) : Bool :=
  fn != 0 && ns.any fun n => match hostPlace s fn bar n with
    | .mem a => decide (0xC0 ≤ (mergeWord (cohRead s a) (unitBytes off n bytes)).tag.toNat)
    | .send p o => decide (0xC0 ≤ (mergeWord (sendBlockWord s p o) (unitBytes off n bytes)).tag.toNat)
    | _ => false

/-- PCIE_MEMORY_WRITE. -/
def pcieWrite (s : State) (fn bar off : Nat) (ep : Bool) (bytes : List (Option (BitVec 8))) : State :=
  let ns := unitsOf off bytes.length
  if pinsDead s || bytes.isEmpty then s
  else if memEnabled s fn = false then answerUr s fn off false
  else if ep then refusedReq s fn off
  else match badPlace s fn bar ns with
    | some pl => refusePlace s fn off false pl
    | none =>
      if protectedWrite s fn bar off bytes ns then refusedReq s fn off
      else ns.foldl (fun s n => writePlace s fn (hostPlace s fn bar n) (unitBytes off n bytes)) s

def execPcieMemoryWrite (fn bar off : Nat) (ep : Bool) (bytes : List (Option (BitVec 8))) (s : State) :
    Host.Outcome State Fault Refusal := .next (pcieWrite s fn bar off ep bytes)

/-! ## Configuration (R470, R471, R505) -/

/-- Vendor and device identification of a function. -/
def deviceId (t : Part) (fn : Nat) : Nat :=
  (match t with
    | .ah9512 => 0x9512
    | .ah9256 => 0x9256
    | .ah9128L => 0x9128) + (if fn = 0 then 0 else 1)

/-- The Device Serial Number (R44, R470). -/
def serialNumber (s : State) : W64 :=
  if s.trust.idKey then sha512Low identityPublic
  else match Config.certKey s.flash.bytes with
    | some k => sha512Low k
    | none => 0

/-- A configuration register read: what the manual fixes of it, and otherwise what the device's layout gives. TotalVFs, beside InitialVFs in the
doubleword after SR-IOV control, is 32, and 0 in RECOVERY (R374, R470). -/
def cfgReadReg (s : State) (fn reg : Nat) : W64 :=
  let stored := tget 0 s.hostIf.cfg (fn * 1024 + reg)
  match reg with
  | 0 => field (deviceId s.part fn) 16 ||| 0x1FA7
  | 2 => field 0x120000 8 ||| field (Config.fusedStepping % 256) 0
  | 11 => field (deviceId s.part 0) 16 ||| 0x1FA7
  | _ =>
    if reg = Config.serialReg ∧ fn = 0 then field (bits (serialNumber s) 31 0) 0
    else if reg = Config.serialReg + 1 ∧ fn = 0 then field (bits (serialNumber s) 63 32) 0
    else if reg = Config.sriovCtlReg + 1 ∧ fn = 0 then (if inRecovery s then 0 else field 32 16 ||| field 32 0)
    else Config.cfgRead fn reg stored

/-- A function listed or not. -/
def setFn (l : List Nat) (fn : Nat) (on : Bool) : List Nat := if on then (if l.contains fn then l else l ++ [fn]) else l.filter fun f => f != fn

/-- Pending vectors of a function that nothing masks any more signalled. -/
def flushMsix (s : State) : State :=
  let go := s.hostIf.msixPend.filter fun e => !msixMasked s e.1 e.2
  go.foldl (fun s e => signalMsix s e.1 e.2) (modHost s fun h => { h with msixPend := h.msixPend.filter fun e => msixMasked s e.1 e.2 })

/-- A configuration register written: Memory Space Enable of the function, or of the virtual functions in SR-IOV control, the power
state, and MSI-X control. -/
def cfgWriteReg (s : State) (fn reg : Nat) (v : W64) : State :=
  let s1 := modHost s fun h => { h with cfg := tput h.cfg (fn * 1024 + reg) (v &&& 0xFFFFFFFF) }
  if reg = 1 then (if fn = 0 then modHost s1 fun h => { h with mse := setFn h.mse 0 (bit v 1) } else s1)
  else if reg = Config.sriovCtlReg ∧ fn = 0 then
    modHost s1 fun h => { h with mse := (List.range 32).foldl (fun l i => setFn l (i + 1) (bit v 3 && bit v 0)) h.mse }
  else if reg = Config.pmcsrReg then flushMsix (modHost s1 fun h => { h with d3 := setFn h.d3 fn (bits v 1 0 == 3) })
  else if reg = Config.msixCtlReg then
    flushMsix (modHost s1 fun h => { h with msixOn := setFn h.msixOn fn (bit v 31), msixHold := setFn h.msixHold fn (bit v 30) })
  else s1

/-- PCIE_CONFIG_REQUEST: Configuration Request Retry Status until the host is released, or RECOVERY has trained the link. -/
def pcieConfig (s : State) (fn reg : Nat) (write : Bool) (v : W64) : State :=
  let st := s.trust.stage
  if pinsDead s || st == 11 then s
  else if !(st == 8 || st == 9 || st == 10) then complete s false { fn, status := 2 }
  else if 32 < fn ∨ (inRecovery s = true ∧ fn ≠ 0) then answerUr s fn reg true
  else if write then complete (cfgWriteReg s fn reg v) false { fn, status := 0 }
  else complete s false { fn, status := 0, data := (bytesLE (cfgReadReg s fn reg)).take 4 }

def execPcieConfigRequest (fn reg : Nat) (write : Bool) (v : W64) (s : State) : Host.Outcome State Fault Refusal :=
  .next (pcieConfig s fn reg write v)

/-- PCIE_FLR (R470, R472): the partition of a virtual function is reset, and the function starts afresh. -/
def pcieFlr (s : State) (fn : Nat) : State :=
  if pinsDead s || fn == 0 || decide (32 < fn) then s
  else
    let s1 := hostPartReset s (fn - 1)
    modHost s1 fun h => { h with
      isolated := h.isolated.filter fun f => f != fn, refusals := tdel h.refusals fn, d3 := setFn h.d3 fn false
      msixOn := setFn h.msixOn fn false, msixHold := setFn h.msixHold fn false, msixPend := h.msixPend.filter fun e => e.1 != fn
      msixTable := h.msixTable.filter fun e => e.1 / 128 != fn, cfg := h.cfg.filter fun e => e.1 / 1024 != fn }

def execPcieFlr (fn : Nat) (s : State) : Host.Outcome State Fault Refusal := .next (pcieFlr s fn)

/-- PCIE_UNSUPPORTED_REQUEST (R471). Kinds: 0 locked read; 1 I/O; 2 Configuration Type 1; 3 AtomicOp; 4 Deferrable Memory Write;
5 Translation Request; 6 a request with a PASID; 7 Vendor-Defined Message Type 0, which has no completion; 8 Vendor-Defined Message
Type 1, discarded silently; 9 any other message; 10 a completion that matches no request, discarded. -/
def pcieUnsupported (s : State) (fn kind : Nat) : State :=
  if pinsDead s then s
  else if kind ≤ 6 then answerUr s fn 0 true
  else if kind = 7 then answerUr s fn 0 false
  else s

def execPcieUnsupportedRequest (fn kind : Nat) (s : State) : Host.Outcome State Fault Refusal := .next (pcieUnsupported s fn kind)

/-- PCIE_MALFORMED_TLP. -/
def pcieMalformed (s : State) (fn : Option Nat) (rule : Nat) : State :=
  let f : W64 := match fn with
    | some n => BitVec.ofNat 64 n
    | none => BitVec.ofInt 64 (-1)
  if pinsDead s then s
  else
    let s1 := report s 0x8002 .none [f, BitVec.ofNat 64 rule]
    match fn with
    | some n => countBad s1 n
    | none => s1

def execPcieMalformedTlp (fn : Option Nat) (rule : Nat) (s : State) : Host.Outcome State Fault Refusal :=
  .next (pcieMalformed s fn rule)

/-- PCIE_PME_TURN_OFF: answered with PME_TO_Ack, which stands as a completion with status 3. -/
def execPciePmeTurnOff (s : State) : Host.Outcome State Fault Refusal :=
  .next (if pinsDead s then s else complete s false { fn := 0, status := 3 })

/-- PCIE_LINK_DOWN (R472): recorded; nothing on the device is reset. -/
def linkDown (s : State) : State :=
  if s.hostIf.linkUp then pcieLinkEvent (modHost s fun h => { h with linkUp := false }) 1 else s

def execPcieLinkDown (s : State) : Host.Outcome State Fault Refusal := .next (linkDown s)

/-- PCIE_LINK_UP: the link comes up, or changes its rate or width, in RECOVERY at 16 GT/s at most (R374); it stays down in LOCKDOWN, during EXTEST, and
where the image in force has its domain off (PCIEOFF, R360). -/
def linkUp (s : State) (rate width : Nat) : State :=
  if pinsDead s || s.trust.stage == 11 || (s.power.pcieOff && s.img.pcieoff) then s
  else
    let ev := if s.hostIf.linkUp then 3 else 2
    let same := s.hostIf.linkUp && s.hostIf.linkRate == (if inRecovery s then min 16 rate else rate) && s.hostIf.linkWidth == width
    let s1 := modHost { s with power := { s.power with pcieOff := false } } fun h => { h with
      linkUp := true, linkRate := if inRecovery s then min 16 rate else rate, linkWidth := width }
    if same then s1 else pcieLinkEvent s1 ev

def execPcieLinkUp (rate width : Nat) (s : State) : Host.Outcome State Fault Refusal := .next (linkUp s rate width)

end Sys2Proof.Machine
end

