-- ==== Sys2Proof/Machine/Smbus.lean ====
section
/-!
DEFINITION. The SMBus target (R481 to R484): what each command does, its status, and what it puts on the bus.
-/

namespace Sys2Proof.Machine
open Sys2Proof

def modSmb (s : State) (f : Smbus → Smbus) : State := { s with smb := f s.smb }

def smbOK : Nat := 0
def smbBAD_ADDRESS : Nat := 1
def smbSEALED : Nat := 2
def smbBUSY : Nat := 3
def smbREFUSED : Nat := 4
def smbPEC_ERROR : Nat := 5
def smbPOISON : Nat := 6

/-- A command's status and what it returns. -/
def smbEnd (s : State) (status : Nat) (out : List (BitVec 8) := []) : State := modSmb s fun b => { b with last := status, out }

/-- The nine bytes of a word as SMBus carries them: payload, least significant byte first, and tag (R468). -/
def smbWordBytes (w : Word) : List (BitVec 8) := bytesLE w.pay ++ [w.tag]

/-- n bytes of which nothing is known. -/
def freeBytes (s : State) (n : Nat) : List (BitVec 8) × State :=
  let (w, s1) := drawNat s
  (natBytesBE n w, s1)

/-- LOCKDOWN (R374). -/
def inLockdown (s : State) : Bool := s.trust.stage == 11

/-- A device in EXTEST answers nothing on its pins but boundary scan (R394, R487). -/
def smbLive (s : State) : Bool := !s.dbg.extest

/-! ## Status commands -/

/-- SMB_GET_STATUS: eight bytes, in every stage. -/
def smbStatus (s : State) : State :=
  let b (n : Nat) : BitVec 8 := BitVec.ofNat 8 n
  smbEnd s smbOK [b s.trust.stage, b (alertBits s), b s.power.tj, b (partCode s.part), b s.dev, 0, 0, 0]

def execSmbGetStatus (s : State) : Host.Outcome State Fault Refusal := .next (if smbLive s then smbStatus s else s)

/-- SMB_GET_LAST: the status of the latest other command. -/
def smbLast (s : State) : State := modSmb s fun b => { b with out := [BitVec.ofNat 8 b.last] }

def execSmbGetLast (s : State) : Host.Outcome State Fault Refusal := .next (if smbLive s then smbLast s else s)

/-! ## Words -/

/-- The sealed partition that a local word belongs to: its memory, window or not, its queues' heads, its send block or its Sealing
block (R394). -/
def smbSealed (s : State) (a : Nat) : Option Nat :=
  let o := dcsOff a
  let held (p : Nat) : Option Nat := if (getPart s p).sealed then some p else none
  if a < 0xC00000000 then
    (s.parts.find? fun e => e.2.sealed && e.2.grants.any fun g => decide (g.1 ≤ a) && decide (a < g.1 + g.2)).map Prod.fst
  else if offIn o 0x30000 0x301FF then held ((o - 0x30000) / 16)
  else if offIn o 0x80000 0x8FFFF && (getQ s (o - 0x80000)).owned then held (getQ s (o - 0x80000)).owner
  else if offIn o 0x90000 0x901FF then held ((o - 0x90000) / 16)
  else none

/-- Whether SMBus reaches a local word; DRAM and scratchpad are not reached in RECOVERY (R374, R473, R474). -/
def smbReach (s : State) (a : Nat) : Bool :=
  if a < 0xC00000000 then !inRecovery s && memExists s a else dcsReach s .smb a

/-- SMB_SET_ADDR: five bytes, least significant first. -/
def smbSetAddr (s : State) (bytes : List (BitVec 8)) : State :=
  let a := natOfBytesLE bytes
  if inLockdown s then smbEnd s smbREFUSED
  else if a % 16 ≠ 0 then smbEnd s smbBAD_ADDRESS
  else smbEnd (modSmb s fun b => { b with addr := a }) smbOK

/-- The byte address past the word. -/
def smbAdvance (s : State) : State := modSmb s fun b => { b with addr := (b.addr + 16) % 2 ^ 40 }

/-- The answer of SMB_READ: its status and nine bytes; the data bytes of a refused or bad address are free. -/
def smbAnswer (s : State) (status : Nat) (w : Word) : State := smbEnd s status (BitVec.ofNat 8 status :: smbWordBytes w)

/-- SMB_READ. -/
def smbReadWord (s : State) : State :=
  let a := s.smb.addr / 16
  if inLockdown s then
    let (w, s1) := drawWord s
    smbAnswer s1 smbREFUSED w
  else
    let s0 := smbAdvance s
    match smbSealed s0 a with
    | some p => smbAnswer (sealedRefused s0 p 4 .device) smbSEALED Word.zero
    | none =>
      if smbReach s0 a = false then
        let (w, s1) := drawWord s0
        smbAnswer s1 smbBAD_ADDRESS w
      else
        let (w, s1) := if a < 0xC00000000 then homeRead (settleStale s0 (a / 8)) a else (dcsRead s0 a, s0)
        smbAnswer s1 (if w.tag = tagPOISON then smbPOISON else smbOK) w

def execSmbRead (s : State) : Host.Outcome State Fault Refusal := .next (if smbLive s then smbReadWord s else s)

/-- SMB_WRITE: nine bytes. -/
def smbWriteWord (s : State) (bytes : List (BitVec 8)) : State :=
  let a := s.smb.addr / 16
  if inLockdown s || inRecovery s then smbEnd s smbREFUSED
  else
    let s0 := smbAdvance s
    let w := wordOfHost bytes
    match smbSealed s0 a with
    | some p => smbEnd (sealedRefused s0 p 4 .device) smbSEALED
    | none =>
      if smbReach s0 a = false then smbEnd s0 smbBAD_ADDRESS
      else if a < 0xC00000000 then smbEnd (homeWrite (settleStale s0 (a / 8)) a w) smbOK
      else smbEnd (dcsWrite s0 .smb a w) smbOK

/-- A write: with a bad PEC it is discarded (R481); one whose byte count is not the command's has no effect. -/
def smbWriteCmd (s : State) (badPec lenOk : Bool) (run : State) : State :=
  if smbLive s = false then s else if badPec then smbEnd s smbPEC_ERROR else if lenOk then run else s

def execSmbSetAddr (bytes : List (BitVec 8)) (badPec : Bool) (s : State) : Host.Outcome State Fault Refusal :=
  .next (smbWriteCmd s badPec (bytes.length == 5) (smbSetAddr s bytes))

def execSmbWrite (bytes : List (BitVec 8)) (badPec : Bool) (s : State) : Host.Outcome State Fault Refusal :=
  .next (smbWriteCmd s badPec (bytes.length == 9) (smbWriteWord s bytes))

/-- SMB_WARM_RESET: the byte 0x5A confirms it. -/
def smbReset (s : State) (bytes : List (BitVec 8)) : State :=
  if inLockdown s || bytes != [0x5A] then smbEnd s smbREFUSED else warmReset (smbEnd s smbOK)

def execSmbWarmReset (bytes : List (BitVec 8)) (badPec : Bool) (s : State) : Host.Outcome State Fault Refusal :=
  .next (smbWriteCmd s badPec (bytes.length == 1) (smbReset s bytes))

/-! ## Flash -/

/-- The stages in which the flash commands are available. -/
def smbFlashOn (s : State) : Bool := s.trust.stage == 8 || s.trust.stage == 10

/-- SMB_FLASH_ADDR: four bytes, least significant first. -/
def smbFlashAddr (s : State) (bytes : List (BitVec 8)) : State :=
  if smbFlashOn s then smbEnd (modSmb s fun b => { b with flash := natOfBytesLE bytes }) smbOK else smbEnd s smbREFUSED

def execSmbFlashAddr (bytes : List (BitVec 8)) (badPec : Bool) (s : State) : Host.Outcome State Fault Refusal :=
  .next (smbWriteCmd s badPec (bytes.length == 4) (smbFlashAddr s bytes))

/-- SMB_FLASH_READ: 32 bytes, and the offset rises by 32; what a refused read returns is free. -/
def smbFlashRead (s : State) : State :=
  let off := s.smb.flash
  let bad (s : State) (status : Nat) : State :=
    let (bs, s1) := freeBytes s 32
    smbEnd s1 status bs
  if smbFlashOn s = false then bad s smbREFUSED
  else if s.flash.ops.isEmpty = false then bad s smbBUSY
  else
    let s0 := modSmb s fun b => { b with flash := (off + 32) % 2 ^ 32 }
    if 0x4000000 < off + 32 then bad s0 smbBAD_ADDRESS
    else smbEnd s0 smbOK ((List.range 32).map fun i => BitVec.ofNat 8 (flashByte s (off + i)))

def execSmbFlashRead (s : State) : Host.Outcome State Fault Refusal := .next (if smbLive s then smbFlashRead s else s)

/-- A flash operation asked for: refused outside its stages, while one is in progress, or off what it reaches. -/
def smbFlashOp (s : State) (ok : Bool) (op : FlashOp) : State :=
  if smbFlashOn s = false then smbEnd s smbREFUSED
  else if s.flash.ops.isEmpty = false then smbEnd s smbBUSY
  else if ok then smbEnd (queueFlash s op 0) smbOK
  else smbEnd s smbBAD_ADDRESS

/-- SMB_FLASH_WRITE: 1 to 32 bytes programmed at the offset. -/
def smbFlashWrite (s : State) (bytes : List (BitVec 8)) : State :=
  smbFlashOp s (flashRange s s.smb.flash bytes.length) (.write s.smb.flash bytes)

def execSmbFlashWrite (bytes : List (BitVec 8)) (badPec : Bool) (s : State) : Host.Outcome State Fault Refusal :=
  .next (smbWriteCmd s badPec (decide (1 ≤ bytes.length) && decide (bytes.length ≤ 32)) (smbFlashWrite s bytes))

/-- SMB_FLASH_ERASE: the byte 0x5A confirms it. -/
def smbFlashErase (s : State) (bytes : List (BitVec 8)) : State :=
  if bytes != [0x5A] then smbEnd s smbREFUSED
  else smbFlashOp s (flashReach s s.smb.flash) (.erase s.smb.flash)

def execSmbFlashErase (bytes : List (BitVec 8)) (badPec : Bool) (s : State) : Host.Outcome State Fault Refusal :=
  .next (smbWriteCmd s badPec (bytes.length == 1) (smbFlashErase s bytes))

/-! ## Alert Response -/

/-- SMB_ALERT_RESPONSE: the device's address, 0x60 plus its board slot, while ALERT_N is asserted; nothing is released (R481). -/
def smbAlert (s : State) : State :=
  if alertN s then modSmb s fun b => { b with out := [BitVec.ofNat 8 ((0x60 + s.dev) * 2)] } else s

def execSmbAlertResponse (s : State) : Host.Outcome State Fault Refusal := .next (if smbLive s then smbAlert s else s)

end Sys2Proof.Machine
end

