-- ==== Sys2Proof/Machine/Debug.lean ====
section
/-!
DEFINITION. JTAG and the debug chain (R394, R396, R487 to R492): EXTEST, the challenge and token, and every operation of `DBG_CMD`.
-/

namespace Sys2Proof.Machine
open Sys2Proof

def modDbg (s : State) (f : Debug → Debug) : State := { s with dbg := f s.dbg }

/-! ## EXTEST (R487) -/

/-- Every sealed partition reset (R393, R396). -/
def resetSealed (s : State) : State := ((s.parts.filter fun e => e.2.sealed).map Prod.fst).foldl partitionReset s

/-- JTAG_EXTEST: sealed partitions are reset first; then the ports fail, the link goes down and every functional pin is isolated
until a warm reset. The failing ports count cause 6, isolation. -/
def jtagExtest (s : State) : State :=
  if s.dbg.extest then s
  else
    let s1 := resetSealed s
    let s2 := (List.range s.part.ports).foldl (fun s p => linkFail s p 6) s1
    modDbg (linkDown s2) fun d => { d with extest := true }

def execJtagExtest (s : State) : Host.Outcome State Fault Refusal := .next (jtagExtest s)

/-! ## Challenge and token (R487, R488) -/

/-- DBG_CHAL_CAPTURE: a fresh nonce of 64 random bytes; the register also carries SHA-512 of the identity public key. -/
def chalCapture (s : State) : State :=
  if s.dbg.extest then s
  else modDbg s fun d => { d with
    nonce := (List.range 64).map fun i => Config.rngByte (d.draws * 64 + i), draws := d.draws + 1 }

def execDbgChalCapture (s : State) : Host.Outcome State Fault Refusal := .next (chalCapture s)

/-- Whether a token is accepted: level (1 byte), nonce (64), signer key (133), signature (132). -/
def tokenOk (s : State) (bs : List (BitVec 8)) : Bool :=
  let level := ((bs[0]?).getD 0).toNat
  let nonce := (bs.drop 1).take 64
  let key := (bs.drop 65).take 133
  let sig := (bs.drop 198).take 132
  let signer := match level with
    | 1 => match currentOwner s with
      | some (_, o) => decide (sha512 key = o.hash)
      | none => false
    | 2 => decide (sha512 key = Config.rootHash) && !s.trust.debugDisable
    | _ => false
  bs.length == 330 && s.trust.idKey && decide (nonce = s.dbg.nonce) && signer &&
    Config.ecdsaVerify key (sha512 (bs.take 65 ++ sha512 identityPublic)) sig

/-- DBG_TOKEN: the level rises, FULL after every sealed partition is reset; or the refusal is counted and recorded. After four
refusals tokens are ignored until the next reset. -/
def dbgTokenIn (s : State) (bs : List (BitVec 8)) : State :=
  if s.dbg.extest || decide (4 ≤ s.dbg.refusals) then s
  else if tokenOk s bs then
    let level := ((bs[0]?).getD 0).toNat
    let s1 := if level = 2 then resetSealed s else s
    report (modTrust s1 fun t => { t with dbgLevel := max t.dbgLevel level }) 0xA004 .none [BitVec.ofNat 64 level]
  else report (modDbg s fun d => { d with refusals := d.refusals + 1 }) 0xA004 .none [BitVec.ofInt 64 (-1)]

def execDbgToken (bytes : List (BitVec 8)) (s : State) : Host.Outcome State Fault Refusal := .next (dbgTokenIn s bytes)

/-! ## DBG_CMD (R489, R490) -/

/-- What an operation comes to: a status, and the word read. -/
structure DbgRes where
  st : State
  status : Nat := smbOK
  data : Option Word := none

/-- A word read; POISON is marked. -/
def dbgRead (s : State) (w : Word) : DbgRes := { st := s, status := if w.tag = tagPOISON then smbPOISON else smbOK, data := some w }

def dbgFail (s : State) (status : Nat) : DbgRes := { st := s, status }

/-- An operation with its CTX and ADDR shifted in: SEALED for state of a sealed partition, REFUSED below the level it needs,
else its own answer. The status and a word read stand in the register for the next capture. -/
def dbgOp (s : State) (op ctx addr level : Nat) (hidden : Option Nat) (run : State → DbgRes) : State :=
  if s.dbg.extest then s
  else
    let s0 := modDbg s fun d => { d with op, ctx := ctx % 2 ^ 14, addr := addr % 2 ^ 40 }
    let r := match hidden with
      | some p => dbgFail (sealedRefused s0 p 6 .device) smbSEALED
      | none => if s0.trust.dbgLevel < level then dbgFail s0 smbREFUSED else run s0
    modDbg r.st fun d => { d with status := r.status, data := r.data.getD d.data }

def execDbgNop (s : State) : Host.Outcome State Fault Refusal := .next (dbgOp s 0 0 0 0 none fun s => { st := s })

def execDbgReadBoot (s : State) : Host.Outcome State Fault Refusal :=
  .next (dbgOp s 1 0 0 0 none fun s => { st := s, data := some (Word.fixN s.trust.stage) })

/-! ### Device control space and memory -/

/-- The ring and the fallback bank, which every level reads. -/
def dbgOpenDcs (a : Nat) : Bool := decide (0xC00000000 ≤ a) && (offIn (dcsOff a) 0x100000 0x17FFFF || offIn (dcsOff a) 0x180000 0x1807FF)

/-- DBG_READ_DCS: what the physical function reads. -/
def dbgDcs (s : State) (a : Nat) : DbgRes := if dbgOpenDcs a || dcsReach s .pf a then dbgRead s (dcsRead s a) else dbgFail s smbBAD_ADDRESS

def execDbgReadDcs (addr : Nat) (s : State) : Host.Outcome State Fault Refusal :=
  .next (dbgOp s 2 0 addr (if dbgOpenDcs (addr % 2 ^ 36) then 0 else 1)
    (if 0xC00000000 ≤ addr % 2 ^ 36 then smbSealed s (addr % 2 ^ 36) else none) fun s => dbgDcs s (addr % 2 ^ 36))

/-- The sealed partition whose memory a local address lies in, its window included (R394). -/
def dbgSealedMem (s : State) (a : Nat) : Option Nat := if a < 0xC00000000 then smbSealed s a else none

def dbgReadMem (s : State) (a : Nat) : DbgRes :=
  if memExists s a then let (w, s1) := homeRead (settleStale s (a / 8)) a; dbgRead s1 w else dbgFail s smbBAD_ADDRESS

def execDbgReadMem (addr : Nat) (s : State) : Host.Outcome State Fault Refusal :=
  .next (dbgOp s 3 0 addr 1 (dbgSealedMem s (addr % 2 ^ 36)) fun s => dbgReadMem s (addr % 2 ^ 36))

def dbgWriteMem (s : State) (a : Nat) (w : Word) : DbgRes :=
  if memExists s a then { st := homeWrite (settleStale s (a / 8)) a w, data := some w } else { st := s, status := smbBAD_ADDRESS, data := some w }

def execDbgWriteMem (addr : Nat) (w : Word) (s : State) : Host.Outcome State Fault Refusal :=
  .next (dbgOp s 4 0 addr 1 (dbgSealedMem s (addr % 2 ^ 36)) fun s => dbgWriteMem s (addr % 2 ^ 36) w)

/-! ### Contexts -/

/-- The sealed partition that a context belongs to. -/
def dbgSealedCtx (s : State) (c : Nat) : Option Nat := if owned s c && (ctxPart s c).sealed then some (partOf s c) else none

/-- A latch or result port of the S bank; the derived ports as read. -/
def dbgBank (s : State) (c a : Nat) : Word :=
  let x := getCtx s c
  if a = 0x100 then Word.fixN x.pc
  else if a = 0x124 then rsTopValue s (envOf s c x) (latchOf x.s pRSsp)
  else if a = 0x180 then Word.fixN (repeatLeft x)
  else if a = 0x1AB then Word.fix (syId s.dev (partOf s c) c)
  else latchOf x.s a

/-- DBG_READ_CTX: a general register, a control register of the `SY` window, a latch or port of the S bank, or the status word. -/
def dbgReadCtx (s : State) (c ix : Nat) : DbgRes :=
  let x := getCtx s c
  let e := envOf s c x
  let n := ix - 0x1000
  if !owned s c then dbgFail s smbBAD_ADDRESS
  else if ix < 0x40 then dbgRead s (snapG x ix)
  else if 0x1000 ≤ ix ∧ ix < 0x1800 then
    if crAssigned n && !crSelectFault s e n false then dbgRead s (crValue s e n) else dbgFail s smbBAD_ADDRESS
  else if 0x2000 ≤ ix ∧ snapAddrs.contains (ix - 0x2000) = true then dbgRead s (dbgBank s c (ix - 0x2000))
  else if ix = 0x3000 then dbgRead s (Word.fix (snapState x))
  else dbgFail s smbBAD_ADDRESS

def execDbgReadCtx (ctx ix : Nat) (s : State) : Host.Outcome State Fault Refusal :=
  .next (dbgOp s 5 ctx ix 1 (dbgSealedCtx s ctx) fun s => dbgReadCtx s ctx (ix % 2 ^ 16))

/-- A control register written as `SY.crwr` writes it; a word that it would refuse is refused. -/
def dbgWriteCr (s : State) (c n : Nat) (w : Word) : DbgRes :=
  let e := envOf s c (getCtx s c)
  if !crAssigned n || crSelectFault s e n true then dbgFail s smbBAD_ADDRESS
  else if (!crAnyTag n && w.tag != tagFIX) || (crWordFault s e n w).isSome || (n == 0x193 && !s.part.full) then dbgFail s smbREFUSED
  else if n = 0x213 ∧ bits e.x.regs.rglen 31 0 ≠ 0 ∧ 8 ≤ (getCluster s (clusterOf c)).rangeQ.length then dbgFail s smbBUSY
  else { st := crWriteEffect e n w s }

/-- A latch or result port of the S bank written; the derived ports keep their values. -/
def dbgWriteBank (s : State) (c a : Nat) (w : Word) : DbgRes :=
  let pt := portAt a
  let bad := (operandFault (ctxPart s c) (if pt.kind = .latch then pt.op else .carry) w).isSome ||
    ((a == 0x120 || a == 0x121) && w.tag == tagFIX && !isVaddr w.pay)
  if bad then dbgFail s smbREFUSED
  else if a = 0x100 ∨ a = 0x124 ∨ a = 0x180 ∨ a = 0x1AB then { st := s }
  else { st := modCtx s c fun x => { x with s := setLatch x.s a w } }

/-- The status word written: `PC`, privilege and both banks' flags. -/
def dbgWriteState (s : State) (c : Nat) (w : Word) : DbgRes :=
  if w.tag ≠ tagFIX then dbgFail s smbREFUSED
  else { st := modCtx s c fun x => { x with
    pc := bits w.pay 47 0, priv := bit w.pay 48, fetched := none, ahead := none
    u := { x.u with flags := flagsOfNat (bits w.pay 53 49) }, s := { x.s with flags := flagsOfNat (bits w.pay 58 54) } } }

/-- DBG_WRITE_CTX: of a halted context. -/
def dbgWriteCtx (s : State) (c ix : Nat) (w : Word) : DbgRes :=
  if !owned s c then dbgFail s smbBAD_ADDRESS
  else if !(getCtx s c).dbgHalt then dbgFail s smbREFUSED
  else if ix < 0x40 then { st := writeG s c ix w }
  else if 0x1000 ≤ ix ∧ ix < 0x1800 then dbgWriteCr s c (ix - 0x1000) w
  else if 0x2000 ≤ ix ∧ snapAddrs.contains (ix - 0x2000) = true then dbgWriteBank s c (ix - 0x2000) w
  else if ix = 0x3000 then dbgWriteState s c w
  else dbgFail s smbBAD_ADDRESS

def execDbgWriteCtx (ctx ix : Nat) (w : Word) (s : State) : Host.Outcome State Fault Refusal :=
  .next (dbgOp s 6 ctx ix 1 (dbgSealedCtx s ctx) fun s => { dbgWriteCtx s ctx (ix % 2 ^ 16) w with data := some w })

/-- A change of a context's halt. -/
def dbgRun (s : State) (c : Nat) (f : Ctx → Ctx) : DbgRes := if owned s c then { st := modCtx s c f } else dbgFail s smbBAD_ADDRESS

def execDbgHalt (ctx : Nat) (s : State) : Host.Outcome State Fault Refusal :=
  .next (dbgOp s 7 ctx 0 1 (dbgSealedCtx s ctx) fun s => dbgRun s ctx fun x => { x with dbgHalt := true, dbgStep := false })

def execDbgStep (ctx : Nat) (s : State) : Host.Outcome State Fault Refusal :=
  .next (dbgOp s 8 ctx 0 1 (dbgSealedCtx s ctx) fun s => dbgRun s ctx fun x => { x with dbgStep := x.dbgHalt })

def execDbgResume (ctx : Nat) (s : State) : Host.Outcome State Fault Refusal :=
  .next (dbgOp s 9 ctx 0 1 (dbgSealedCtx s ctx) fun s => dbgRun s ctx fun x => { x with dbgHalt := false, dbgStep := false })

/-! ### Engines -/

/-- Part 0 to 2 of a 168-bit microword. -/
def mwPart (v : BitVec 168) (part : Nat) : Word :=
  let n := v.toNat / 2 ^ (72 * part)
  ⟨BitVec.ofNat 8 (n / 2 ^ 64), BitVec.ofNat 64 n⟩

def engineThere (s : State) (cluster engine : Nat) : Bool := decide (cluster < s.part.clusters) && decide (engine < 2)

/-- DBG_READ_MATCH; every engine holds the one patch set (R201). -/
def execDbgReadMatch (cluster engine ix : Nat) (s : State) : Host.Outcome State Fault Refusal :=
  .next (dbgOp s 10 (cluster * 2 + engine) ix 2 none fun s =>
    if engineThere s cluster engine && decide (ix < 64) then { st := s, data := some (Word.fixN (tget 0 s.trust.matchRegs ix)) }
    else dbgFail s smbBAD_ADDRESS)

def execDbgReadPatch (cluster engine ix part : Nat) (s : State) : Host.Outcome State Fault Refusal :=
  .next (dbgOp s 11 (cluster * 2 + engine) (part * 256 + ix) 2 none fun s =>
    if engineThere s cluster engine && decide (ix < 256) && decide (part < 3) then
      { st := s, data := some (mwPart (tget 0 s.trust.patch ix) part) }
    else dbgFail s smbBAD_ADDRESS)

def execDbgReadRom (ix part : Nat) (s : State) : Host.Outcome State Fault Refusal :=
  .next (dbgOp s 12 0 (part * 16384 + ix) 2 none fun s =>
    if ix < 16384 ∧ part < 3 then { st := s, data := some (mwPart (Config.romMicroword ix) part) } else dbgFail s smbBAD_ADDRESS)

/-! ### Trace (R204, R492) -/

def traceOf (s : State) (die : Nat) : TraceBuf := tget {} s.dbg.trace die

/-- DBG_TRACE_CTL: 0 off, 1 STOP, 2 WRAP. -/
def traceCtl (s : State) (die : Nat) (v : W64) : DbgRes :=
  let w := Word.fix v
  if s.part.dies ≤ die then { st := s, status := smbBAD_ADDRESS, data := some w }
  else if bits v 1 0 = 3 then { st := s, status := smbREFUSED, data := some w }
  else { st := modDbg s fun d => { d with trace := tput d.trace die { traceOf s die with mode := bits v 1 0 } }, data := some w }

def execDbgTraceCtl (die : Nat) (v : W64) (s : State) : Host.Outcome State Fault Refusal :=
  .next (dbgOp s 13 die 0 1 none fun s => traceCtl s die v)

/-- DBG_TRACE_READ: at OWNER the micro-address and the routine only, and no microword or value. -/
def traceRead (s : State) (die ix : Nat) : DbgRes :=
  let b := traceOf s die
  let w := tget Word.zero b.ents ix
  if s.part.dies ≤ die ∨ 8192 ≤ ix then dbgFail s smbBAD_ADDRESS
  else if s.trust.dbgLevel = 2 then { st := s, data := some w }
  else if b.extra.contains ix then dbgFail s smbREFUSED
  else { st := s, data := some { w with
    pay := field (bits w.pay 13 0) 0 ||| field (bits w.pay 27 20) 20 ||| flagBit (bit w.pay 28) 28 } }

def execDbgTraceRead (die ix : Nat) (s : State) : Host.Outcome State Fault Refusal :=
  .next (dbgOp s 14 die ix 1 none fun s => traceRead s die ix)

end Sys2Proof.Machine
end

