-- ==== Sys2Proof/Machine/Arrival.lean ====
section
/-!
DEFINITION. The arrival of variable-latency results (R90, R91, R94, R95, R146, R148, R161 to R163, R212, R299, R333) and the drain of
the store queue (R144, R165 to R167, R211).
-/

namespace Sys2Proof.Machine
open Sys2Proof

/-! ## Landing -/

/-- A destination register of an operation given its value: its PENDING replaced, and a delivery in flight made to carry it (R91);
a register that holds something else by now keeps it (R94). -/
def landReg (id : Nat) (x : Ctx) (r : Nat) (g : GReg) (v : DVal) : Ctx :=
  let land (b : Bank) : Bank :=
    { b with inflight := b.inflight.map fun d => if d.val = .op id ∧ d.dest = .greg r then { d with val := v } else d }
  let x1 := if gOf x r = .pending id then setG x r g else x
  { x1 with u := land x1.u, s := land x1.s }

/-- The words of an answer landed in an operation's destinations. -/
def landWords (s : State) (c id : Nat) (dsts : List Nat) (ws : List Word) : State :=
  modCtx s c fun x => (dsts.zip ws).foldl (fun x e => landReg id x e.1 (.word e.2) (.word e.2)) x

/-- A failed end landed in an operation's destinations (R95). -/
def landFault (s : State) (c id : Nat) (dsts : List Nat) (f : FaultRec) : State :=
  modCtx s c fun x => dsts.foldl (fun x r => landReg id x r (.failed f id) (.failed f id)) x

/-- The registers that a polled message writes with its first one (R299): at once when that one holds PENDING, at its visibility
point, in the receive's place of the trigger order (R80), when its delivery is in flight, not at all when its answer is discarded. -/
def landPoll (s : State) (c : Nat) (m : MissOp) (ws : List Word) : State :=
  match m.dsts with
  | [] => s
  | d :: ds =>
    let more := ds.zip (ws.drop 1)
    let x := getCtx s c
    let add (b : Bank) : Bank :=
      { b with inflight := b.inflight.flatMap fun y =>
          if y.val = .op m.id ∧ y.dest = .greg d then
            y :: more.map fun e => { y with dest := .greg e.1, val := .word e.2 }
          else [y] }
    if gOf x d = .pending m.id then more.foldl (fun s e => writeG s c e.1 e.2) s
    else setCtx s c { x with u := add x.u, s := add x.s }

/-- The operation in a context's slot ended: its answer landed, the slot freed. -/
def finishOp (s : State) (c : Nat) (m : MissOp) (r : OpResult) : State :=
  match r with
  | .fault f => freeSlot (landFault s c m.id m.dsts { f with deferred := true }) c
  | .words ws =>
    match m.kind with
    | .recv _ false => freeSlot (landWords (landPoll s c m ws) c m.id (m.dsts.take 1) ws) c
    | _ => freeSlot (landWords s c m.id m.dsts ws) c

/-- The slot's operation with another kind or answer. -/
def setOp (s : State) (c : Nat) (m : MissOp) : State := modCtx s c fun x => { x with slot := some m }

/-! ## Resolution for a context (R161 to R163, R333) -/

/-- Whether an operation's request to another device is outstanding. -/
def askedFar (s : State) (c id : Nat) : Bool := s.remotes.any fun r => r.who == .ctxOp c id

/-- A word read by a context resolved where its target lies: here, or by a RESOLVE of the device that holds it. -/
def ctxResolve (s : State) (c id va : Nat) (w : Word) (weak : Bool) : State × ResOut :=
  let g := agentOf s c
  if !colourMiss (ctxPart s c) g.goodc w then (s, .word w)
  else match farTarget s g w with
    | (s, none) => resolve s g w va weak
    | (s, some far) =>
      if leftToSoftware s (ctxPart s c) weak then (s, .fault (softFault va))
      else if askedFar s c id then (s, .wait)
      else match dataPort s g.part (far / 2 ^ 36) with
        | none => (s, .fault (statusFault 2 va .load))
        | some port => (sendRemote s 3 g.part g.cluster c (.ctxOp c id) va far port g.goodc [] [w], .wait)

/-- A word that a load has read: delivered, or resolved first. -/
def takeWord (s : State) (c : Nat) (m : MissOp) (pa va : Nat) (weak : Bool) (w : Word) : State :=
  match ctxResolve s c m.id va w weak with
  | (s1, .word h) =>
    if healWaits s1 (agentOf s c) va w h then setOp s1 c { m with kind := .resolve pa va w weak, result := some (.words [h]) }
    else finishOp (healSlot s1 (agentOf s c) c va w h) c m (.words [h])
  | (s1, .fault f) => finishOp s1 c m (.fault f)
  | (s1, .wait) => setOp s1 c { m with kind := .resolve pa va w weak, result := none }

/-! ## Loads and prefetches -/

/-- Whether a core's own line stands in its L1D; a line that is neither there nor on its way is asked for again. -/
def lineHere (s : State) (c pa : Nat) : Bool := l1Has (getCore s (coreOf c)) (pa % 2 ^ 36 / 8)

def askAgain (s : State) (c pa va : Nat) (why : FillWhy) : State := askFill s c (pa % 2 ^ 36 / 8) va why

/-- A word of a line in L1D. -/
def l1Word (s : State) (c pa : Nat) : Word := wordOf (l1Data (getCore s (coreOf c)) (pa % 2 ^ 36 / 8)) pa

/-- A device load: after every earlier access of the context to device pages (R144). -/
def deviceArrives (s : State) (c : Nat) (m : MissOp) (pa va : Nat) : State :=
  if (getCore s (coreOf c)).sq.any fun e => e.ctx == c && e.typ == 2 && decide (e.seq < m.seq) then s
  else takeWord s c m pa va false (dcsRead s (pa % 2 ^ 36))

/-- The physical address of a walk's next cell, by a background walk where the TLB lacks it (R256). DESIGN CHOICE (log entry 49): a cell that
the core's caches cannot hold drops what is left of the walk, counted in `ST.cnt` (R135). -/
def walkCell (s : State) (c va : Nat) (priv : Bool) : State × Option Nat :=
  let req : WalkReq := { va, acc := .load, priv, row := .cached }
  match translate s c req with
  | .ok pa _ _ => (s, if cacheable s c pa then some pa else none)
  | .fault _ => (s, none)
  | .miss =>
    let s1 := (walkInstall s c req).1
    match translate s1 c req with
    | .ok pa _ _ => (s1, if cacheable s1 c pa then some pa else none)
    | _ => (s1, none)

/-- A prefetched line that has reached L1D: the slot frees, or the walk goes on along word 1 of the cell (R135, R212). -/
def prefetchArrives (s : State) (c : Nat) (m : MissOp) (pa left : Nat) : State :=
  let p := ctxPart s c
  let w := l1Word s c (pa + 1)
  let drop (s : State) : State := freeSlot (modCtx s c fun x => countDrop x m.priv) c
  if left = 0 ∨ isPointer p w = false then freeSlot s c
  else if badPointer p w then drop s
  else match walkCell s c (ptrAddr w) m.priv with
    | (s1, none) => drop s1
    | (s1, some pa1) =>
      let beyond := (l2Sub (getCluster s1 (clusterOf c)) (pa1 % 2 ^ 36 / 8)).st == .i
      let s2 := setOp s1 c { m with kind := .prefetch pa1 (ptrAddr w) beyond (left - 1) }
      if lineHere s2 c pa1 then serveEvicted s2 (coreOf c) (pa1 % 2 ^ 36 / 8) else askAgain s2 c pa1 (ptrAddr w) .stream

/-! ## Evacuation (R148) -/

/-- The evacuation that a dereference waits for, while the phase still asks for it; the replay finds FORWARD. -/
def evacArrives (s : State) (c : Nat) (w : Word) (gen : Nat) : State :=
  let g := agentOf s c
  let ph := (ctxPart s c).phase
  if (agPeek s g (ptrAddr w)).tag = tagFORWARD ∨ (ph ≠ 6 ∧ ph ≠ 7) then freeSlot s c
  else match evacuate s g w gen with
    | (s1, .wait) => s1
    | (s1, _) => freeSlot s1 c

/-- A dereference whose target another device holds (R148, R333): that device resolves the pointer, and the replay uses the answer. -/
def derefArrives (s : State) (c : Nat) (m : MissOp) (pa va : Nat) (w : Word) : State :=
  match m.result with
  | some r => freeSlot (modCtx s c fun x => { x with derefs := x.derefs ++ [(w, r)] }) c
  | none =>
    let g := agentOf s c
    if askedFar s c m.id then s
    else match dataPort s g.part (pa / 2 ^ 36) with
      | none => freeSlot (modCtx s c fun x => { x with derefs := x.derefs ++ [(w, .fault (statusFault 2 va .load))] }) c
      | some port => sendRemote s 3 g.part g.cluster c (.ctxOp c m.id) va pa port g.goodc [] [w]

/-! ## Compare-and-swap (R146) -/

/-- The atomic step on a word of this device with the resolved word h of the word w that stands there. DEDUCED (log entry 49): a
successful swap of an unhealed slot logs h, as R146 says of this operation, where R167 speaks of the form in which words stood. On a line
that the core does not hold it is performed at the line's home and allocates the line in the L1D (R146, R211). -/
def casStep (s : State) (c : Nat) (m : MissOp) (a typ : Nat) (cmp new : Word) (card : Option (Nat × Nat)) (w h : Word) : State :=
  let core := coreOf c
  let put (v : Word) : State :=
    if typ = 1 || !cacheable s c a then homeWrite s a v
    else if mayWrite s core (a / 8) then writeHeld s core a v
    else match takeOwn s core (a / 8) with
      | some s1 => writeHeld s1 core a v
      | none => homeWrite s a v
  if h = cmp then
    finishOp (storeMarks (put new) { core, ctx := c, part := partOf s c, log := true, card } h) c m (.words [h])
  else finishOp (if h = w then s else put h) c m (.words [h])

/-- A compare-and-swap on a word of this device: after the context's earlier stores are visible, and once its line has been
shipped (R407). A slot that the resolution's own evacuation has changed is read afresh (R146). -/
def casHere (s : State) (c : Nat) (m : MissOp) (pa va typ : Nat) (cmp new : Word) (card : Option (Nat × Nat)) : State :=
  let a := pa % 2 ^ 36
  if !storesDone s c m.seq || shipWaits s (a / 8) then s
  else
    let (w, s0) := (cohRead s a, if typ = 1 then flushLine s (a / 8) else s)
    let again : State := setOp s c { m with result := none }
    match m.result with
    | some (.fault f) => finishOp s c m (.fault f)
    | some (.words (h :: w0 :: _)) => if w0 = w then casStep s0 c m a typ cmp new card w (farWord (agentOf s c).goodc false w h) else again
    | _ =>
      match ctxResolve s0 c m.id va w false with
      | (s1, .word h) => if cohRead s1 a = w then casStep s1 c m a typ cmp new card w h else s1
      | (s1, .fault f) => finishOp s1 c m (.fault f)
      | (s1, .wait) => s1

/-- A CAS request sent to the slot's device: `sent` is compared there. -/
def sendCas (s : State) (c : Nat) (m : MissOp) (pa va : Nat) (sent new : Word) : State :=
  match dataPort s (partOf s c) (pa / 2 ^ 36) with
  | none => finishOp s c m (.fault (statusFault 2 va .cas))
  | some port => askRemote (setOp s c { m with result := none }) 2 c (.ctxOp c m.id) va pa port 0 [sent, new]

/-- The word w that a remote slot holds resolves to h: where h compares, the slot is healed first and the swap asked for again, so that
the target logs h (R146); otherwise the slot is healed and h delivered. -/
def casFarStep (s : State) (c : Nat) (m : MissOp) (pa va : Nat) (cmp new w h : Word) : State :=
  if h = cmp then (if w = h then sendCas s c m pa va cmp new else sendCas s c m pa va w cmp)
  else if healWaits s (agentOf s c) va w h then s
  else finishOp (healSlot s (agentOf s c) c va w h) c m (.words [h])

/-- A compare-and-swap on a word of another device (R327, R333): sent once the earlier remote stores have left the store queue. The
comparison uses the resolved word (R146): a compare word that needs resolution matches no resolved word, so the request only reads the
slot, and an answer other than the compare word is resolved. The target marks the card and logs (R165, R167, log entry 16). -/
def casFar (s : State) (c : Nat) (m : MissOp) (pa va : Nat) (cmp new : Word) : State :=
  let judge (old : Word) : State :=
    match ctxResolve s c m.id va old false with
    | (s1, .word h) => casFarStep s1 c m pa va cmp new old h
    | (s1, .fault f) => finishOp s1 c m (.fault f)
    | (s1, .wait) => setOp s1 c { m with result := none }
  match m.result with
  | some (.fault f) => finishOp s c m (.fault f)
  | some (.words [h, w, _]) => casFarStep s c m pa va cmp new w (farWord (agentOf s c).goodc false w h)
  | some (.words [old, sent]) =>
    if sent = cmp then
      if old = cmp ∧ colourMiss (ctxPart s c) (agentOf s c).goodc cmp = false then finishOp s c m (.words [cmp]) else judge old
    else if old = sent ∨ old = cmp then sendCas s c m pa va cmp new else judge old
  | _ =>
    if askedFar s c m.id || (getCore s (coreOf c)).sq.any (fun e => e.ctx == c && e.typ == 3 && decide (e.seq < m.seq)) then s
    else sendCas s c m pa va cmp (casOffer (ctxPart s c) (agentOf s c).goodc cmp new)

/-! ## VALUE_ARRIVAL -/

/-- Whether a cluster's cores run: its contexts' results land and its stores drain. -/
def coresOn (s : State) (cl : Nat) : Bool := (getCluster s cl).power == .active || (getCluster s cl).power == .draining

/-- VALUE_ARRIVAL: the end of the operation in a context's slot, where its value has arrived. -/
def valueArrival (s : State) (c : Nat) : State :=
  match (getCtx s c).slot with
  | none => s
  | some m =>
    if !coresOn s (clusterOf c) then s
    else match m.kind, m.result with
      | .cas pa va typ cmp new card, _ =>
        if typ = 3 then casFar s c m pa va cmp new else casHere s c m pa va typ cmp new card
      | .evacuate _, some (.words (w :: gen :: _)) => evacArrives s c w gen.pay.toNat
      | .evacuate _, _ => freeSlot s c
      | .derefFar pa va w, _ => derefArrives s c m pa va w
      | _, some (.fault f) => finishOp s c m (.fault f)
      | .load pa va stream weak, _ =>
        if lineHere s c pa then takeWord (serveEvicted s (coreOf c) (pa % 2 ^ 36 / 8)) c m pa va weak (l1Word s c pa)
        else askAgain s c pa va (if stream then .stream else .demand)
      | .prefetch pa va _ left, _ => if lineHere s c pa then prefetchArrives s c m pa left else askAgain s c pa va .stream
      | .deviceLoad pa va, _ => deviceArrives s c m pa va
      | .resolve pa va w weak, none => takeWord s c m pa va weak w
      | .resolve _ va w weak, some (.words (h0 :: _)) =>
        let h := farWord (agentOf s c).goodc weak w h0
        if healWaits s (agentOf s c) va w h then s else finishOp (healSlot s (agentOf s c) c va w h) c m (.words [h])
      | .uncachedLoad pa va weak, some (.words (w :: _)) => takeWord s c m pa va weak w
      | .remoteLoad pa va weak, some (.words (w :: _)) => takeWord s c m pa va weak w
      | .routine, some r => finishOp s c m r
      | .recv _ _, some r => finishOp s c m r
      | _, _ => s

def execValueArrival (ctx : Nat) (s : State) : Host.Outcome State Fault Refusal := .next (valueArrival s ctx)

/-! ## STORE_DRAIN (R144, R211) -/

/-- Whether an entry at the head waits for an operation that its core committed before it: a compare-and-swap, a load of the same
word, or a device load of the same context (R143, R144). -/
def drainBlocked (s : State) (core : Nat) (e : StoreEnt) : Bool :=
  (List.range 32).any fun i =>
    let c := core * 32 + i
    match (getCtx s c).slot with
    | none => false
    | some m =>
      match m.kind with
      | .cas _ _ typ _ _ _ => (typ != 3 || c == e.ctx) && decide (m.seq < e.seq)
      | .load pa _ _ _ => c == e.ctx && pa == e.pa && decide (m.seq ≤ e.seq) && m.result.isNone
      | .uncachedLoad pa _ _ | .remoteLoad pa _ _ => c == e.ctx && pa == e.pa && decide (m.seq ≤ e.seq) && m.result.isNone
      | .deviceLoad _ _ => c == e.ctx && e.typ == 2 && decide (m.seq ≤ e.seq)
      | _ => false

/-- Whether an earlier uncached store of the same context is still to be performed at its home. -/
def uncAhead (s : State) (c : Nat) : Bool := s.unc.any fun r => match r.who with
  | .ctxStore c' _ => c' == c
  | _ => false

/-- The store queue without its head. -/
def popStore (s : State) (core : Nat) : State := modCore s core fun k => { k with sq := k.sq.drop 1 }

/-- A store to another device sent once a shared entry of the miss-tracking table is free (R22): as WRITE_BAR when it stores a pointer under a barrier (R333). -/
def drainFar (s : State) (core : Nat) (e : StoreEnt) : State :=
  let p := partOf s e.ctx
  let bar := e.log && barrierOf (getPart s p) e.word != 0
  match dataPort s p (e.pa / 2 ^ 36) with
  | none => storeFailed (popStore s core) e.ctx e.seq 2 e.va
  | some port =>
    if !sharedFree s (clusterOfCore core) then s
    else askRemote (popStore s core) (if bar then 4 else 1) e.ctx (.ctxStore e.ctx e.seq) e.va e.pa port 0
      (if bar then [e.word, Word.fixN e.va] else [e.word])

/-- The line of the head asked for with write permission, through a shared entry of the miss-tracking table when the request leaves
the cluster. -/
def askWrite (s : State) (core : Nat) (e : StoreEnt) (line : Nat) : State :=
  let cl := clusterOfCore core
  let st := (l2Sub (getCluster s cl) line).st
  let beyond := dramLine s line && (st == .i || st == .s)
  if (getCore s core).fills.any fun f => f.line == line && f.why != .fetch then s
  else if beyond && !sharedFree s cl then s
  else
    let s1 := modCore s core fun k => { k with fills := k.fills ++ [({ line, va := e.va, why := .store, ctx := e.ctx, shared := beyond } : FillReq)] }
    if beyond then modCluster s1 cl fun k => { k with missShared := k.missShared + 1 } else s1

/-- STORE_DRAIN: the head of a core's store queue made visible, or its line asked for. -/
def storeDrain (s : State) (core : Nat) : State :=
  match (getCore s core).sq with
  | [] => s
  | e :: _ =>
    let a := e.pa % 2 ^ 36
    let p := partOf s e.ctx
    let mark : StoreMark := { core, ctx := e.ctx, part := p, log := e.log, card := e.card }
    if !coresOn s (clusterOfCore core) || drainBlocked s core e then s
    else if e.typ = 3 then drainFar s core e
    else if e.typ = 2 then dcsWrite (popStore s core) (.part p) a e.word
    else if uncAhead s e.ctx then s
    else if e.typ = 1 ∨ cacheable s e.ctx e.pa = false then
      if !sharedFree s (clusterOfCore core) then s
      else askHome (popStore s core) { who := .ctxStore e.ctx e.seq, pa := a, kind := .write e.word, mark := some mark }
    else if mayWrite s core (a / 8) then
      storeMarks (writeHeld (popStore s core) core a e.word) mark (wordOf (l1Data (getCore s core) (a / 8)) a)
    else askWrite s core e (a / 8)

def execStoreDrain (core : Nat) (s : State) : Host.Outcome State Fault Refusal := .next (storeDrain s core)

end Sys2Proof.Machine
end

