-- ==== Sys2Proof/Machine/Dispatch.lean ====
section
/-!
DEFINITION. The dispatcher: one direct call of a meaning for each command.
-/

namespace Sys2Proof.Machine
open Sys2Proof

def exec (i : Instr) (s : State) : Host.Outcome State Fault Refusal :=
  match i with
  | .fetchPacket ctx => Sys2Proof.Machine.execFetchPacket ctx s
  | .packetIssue core loss => Sys2Proof.Machine.execPacketIssue core loss s
  | .interruptTaken core => Sys2Proof.Machine.execInterruptTaken core s
  | .receiveWaitWithdraw ctx => Sys2Proof.Machine.execReceiveWaitWithdraw ctx s
  | .deferredStoreFaultEntry ctx => Sys2Proof.Machine.execDeferredStoreFaultEntry ctx s
  | .nurserySuspendEntry ctx => Sys2Proof.Machine.execNurserySuspendEntry ctx s
  | .valueArrival ctx => Sys2Proof.Machine.execValueArrival ctx s
  | .tlbWalkComplete ctx => Sys2Proof.Machine.execTlbWalkComplete ctx s
  | .storeDrain core => Sys2Proof.Machine.execStoreDrain core s
  | .fenceWaitEnd ctx => Sys2Proof.Machine.execFenceWaitEnd ctx s
  | .udrainWaitEnd ctx => Sys2Proof.Machine.execUdrainWaitEnd ctx s
  | .tlbiReceive unit => Sys2Proof.Machine.execTlbiReceive unit s
  | .tlbiAck unit => Sys2Proof.Machine.execTlbiAck unit s
  | .routineRequestTaken cluster engine => Sys2Proof.Machine.execRoutineRequestTaken cluster engine s
  | .routineSegment cluster engine => Sys2Proof.Machine.execRoutineSegment cluster engine s
  | .routineYieldComplete ctx => Sys2Proof.Machine.execRoutineYieldComplete ctx s
  | .collectorPhaseAdvance part => Sys2Proof.Machine.execCollectorPhaseAdvance part s
  | .collectorMarkWork part => Sys2Proof.Machine.execCollectorMarkWork part s
  | .weakBoxVisit part => Sys2Proof.Machine.execWeakBoxVisit part s
  | .collectorEvacuation part => Sys2Proof.Machine.execCollectorEvacuation part s
  | .rangeOperationRun cluster => Sys2Proof.Machine.execRangeOperationRun cluster s
  | .rangeCompletionRetry cluster => Sys2Proof.Machine.execRangeCompletionRetry cluster s
  | .l1dFill core line => Sys2Proof.Machine.execL1dFill core line s
  | .l1dEvictionWrite core => Sys2Proof.Machine.execL1dEvictionWrite core s
  | .homeRead cluster line => Sys2Proof.Machine.execHomeRead cluster line s
  | .homeReadForOwnership cluster line => Sys2Proof.Machine.execHomeReadForOwnership cluster line s
  | .homeUpgrade cluster line => Sys2Proof.Machine.execHomeUpgrade cluster line s
  | .homeClaim cluster line => Sys2Proof.Machine.execHomeClaim cluster line s
  | .homeWriteback cluster line => Sys2Proof.Machine.execHomeWriteback cluster line s
  | .homeCleanEviction cluster line => Sys2Proof.Machine.execHomeCleanEviction cluster line s
  | .homeUncachedRead slice => Sys2Proof.Machine.execHomeUncachedRead slice s
  | .homeUncachedWrite slice => Sys2Proof.Machine.execHomeUncachedWrite slice s
  | .keepNotice cluster line => Sys2Proof.Machine.execKeepNotice cluster line s
  | .clusterRecall cluster line inv => Sys2Proof.Machine.execClusterRecall cluster line inv s
  | .queueReceiveRequest ctx => Sys2Proof.Machine.execQueueReceiveRequest ctx s
  | .messageRelease src => Sys2Proof.Machine.execMessageRelease src s
  | .queueMessageArrival src m => Sys2Proof.Machine.execQueueMessageArrival src m s
  | .slwinlWrite part w => Sys2Proof.Machine.execSlwinlWrite part w s
  | .windowFillDone part => Sys2Proof.Machine.execWindowFillDone part s
  | .slcmdAttest part => Sys2Proof.Machine.execSlcmdAttest part s
  | .slcmdExtend part => Sys2Proof.Machine.execSlcmdExtend part s
  | .sealingCommandDone part => Sys2Proof.Machine.execSealingCommandDone part s
  | .tmdlWrite part w => Sys2Proof.Machine.execTmdlWrite part w s
  | .contextTimerExpiry ctx => Sys2Proof.Machine.execContextTimerExpiry ctx s
  | .wdctlKick => Sys2Proof.Machine.execWdctlKick s
  | .wdctlEnable w => Sys2Proof.Machine.execWdctlEnable w s
  | .watchdogExpiry => Sys2Proof.Machine.execWatchdogExpiry s
  | .calalmExpiry => Sys2Proof.Machine.execCalalmExpiry s
  | .calsecWrite w => Sys2Proof.Machine.execCalsecWrite w s
  | .caltrimWrite w => Sys2Proof.Machine.execCaltrimWrite w s
  | .calOscFail => Sys2Proof.Machine.execCalOscFail s
  | .clcmdOff cluster => Sys2Proof.Machine.execClcmdOff cluster s
  | .clusterDrainDone cluster => Sys2Proof.Machine.execClusterDrainDone cluster s
  | .clcmdOn cluster => Sys2Proof.Machine.execClcmdOn cluster s
  | .clusterRetainEntry cluster => Sys2Proof.Machine.execClusterRetainEntry cluster s
  | .clusterWake cluster => Sys2Proof.Machine.execClusterWake cluster s
  | .stackSelfRefresh stack => Sys2Proof.Machine.execStackSelfRefresh stack s
  | .powerDomainOffRequest domain => Sys2Proof.Machine.execPowerDomainOffRequest domain s
  | .vcoreAdjust busy watts cap => Sys2Proof.Machine.execVcoreAdjust busy watts cap s
  | .thermalLimitChange tj => Sys2Proof.Machine.execThermalLimitChange tj s
  | .thermtrip => Sys2Proof.Machine.execThermtrip s
  | .vrqAlert asserted => Sys2Proof.Machine.execVrqAlert asserted s
  | .refclkLoss => Sys2Proof.Machine.execRefclkLoss s
  | .refclkReturn => Sys2Proof.Machine.execRefclkReturn s
  | .railLoss rail => Sys2Proof.Machine.execRailLoss rail s
  | .coldReset => Sys2Proof.Machine.execColdReset s
  | .warmReset cause => Sys2Proof.Machine.execWarmReset cause s
  | .afterglowReport r => Sys2Proof.Machine.execAfterglowReport r s
  | .aggEntryClose ix => Sys2Proof.Machine.execAggEntryClose ix s
  | .suppRecordTimeout ix => Sys2Proof.Machine.execSuppRecordTimeout ix s
  | .afterglowDrain => Sys2Proof.Machine.execAfterglowDrain s
  | .afterglowDrainRetry => Sys2Proof.Machine.execAfterglowDrainRetry s
  | .ringScrub bad => Sys2Proof.Machine.execRingScrub bad s
  | .penumbraWindowExpiry ix => Sys2Proof.Machine.execPenumbraWindowExpiry ix s
  | .agcmdClearFb => Sys2Proof.Machine.execAgcmdClearFb s
  | .agcmdFlushAgg => Sys2Proof.Machine.execAgcmdFlushAgg s
  | .ltcmdSave => Sys2Proof.Machine.execLtcmdSave s
  | .lifetimePageWrite => Sys2Proof.Machine.execLifetimePageWrite s
  | .dcsRegisterWrite who addr w => Sys2Proof.Machine.execDcsRegisterWrite who addr w s
  | .pcieMemoryRead fn bar off len => Sys2Proof.Machine.execPcieMemoryRead fn bar off len s
  | .pcieMemoryWrite fn bar off ep bytes => Sys2Proof.Machine.execPcieMemoryWrite fn bar off ep bytes s
  | .pcieConfigRequest fn reg write v => Sys2Proof.Machine.execPcieConfigRequest fn reg write v s
  | .pcieFlr fn => Sys2Proof.Machine.execPcieFlr fn s
  | .pcieUnsupportedRequest fn kind => Sys2Proof.Machine.execPcieUnsupportedRequest fn kind s
  | .pcieMalformedTlp fn rule => Sys2Proof.Machine.execPcieMalformedTlp fn rule s
  | .pciePmeTurnOff => Sys2Proof.Machine.execPciePmeTurnOff s
  | .pcieLinkDown => Sys2Proof.Machine.execPcieLinkDown s
  | .hqheadWrite fn queue w => Sys2Proof.Machine.execHqheadWrite fn queue w s
  | .hscmdSend part w => Sys2Proof.Machine.execHscmdSend part w s
  | .hmcmdAttest arg => Sys2Proof.Machine.execHmcmdAttest arg s
  | .hmcmdEnrol arg => Sys2Proof.Machine.execHmcmdEnrol arg s
  | .hmcmdTransfer arg => Sys2Proof.Machine.execHmcmdTransfer arg s
  | .hmcmdRevoke arg => Sys2Proof.Machine.execHmcmdRevoke arg s
  | .hmcmdSvnRaise arg => Sys2Proof.Machine.execHmcmdSvnRaise arg s
  | .hmcmdReform arg => Sys2Proof.Machine.execHmcmdReform arg s
  | .hmcmdPartReset arg => Sys2Proof.Machine.execHmcmdPartReset arg s
  | .hmcmdWarmReset arg => Sys2Proof.Machine.execHmcmdWarmReset arg s
  | .hmcmdFlashWrite arg => Sys2Proof.Machine.execHmcmdFlashWrite arg s
  | .hmcmdFlashErase arg => Sys2Proof.Machine.execHmcmdFlashErase arg s
  | .hostCommandDone => Sys2Proof.Machine.execHostCommandDone s
  | .flashOperationDone => Sys2Proof.Machine.execFlashOperationDone s
  | .rfcmdForm => Sys2Proof.Machine.execRfcmdForm s
  | .rfcmdStanddown => Sys2Proof.Machine.execRfcmdStanddown s
  | .rfcmdRelinquish => Sys2Proof.Machine.execRfcmdRelinquish s
  | .smbGetStatus => Sys2Proof.Machine.execSmbGetStatus s
  | .smbSetAddr bytes badPec => Sys2Proof.Machine.execSmbSetAddr bytes badPec s
  | .smbRead => Sys2Proof.Machine.execSmbRead s
  | .smbWrite bytes badPec => Sys2Proof.Machine.execSmbWrite bytes badPec s
  | .smbGetLast => Sys2Proof.Machine.execSmbGetLast s
  | .smbWarmReset bytes badPec => Sys2Proof.Machine.execSmbWarmReset bytes badPec s
  | .smbFlashAddr bytes badPec => Sys2Proof.Machine.execSmbFlashAddr bytes badPec s
  | .smbFlashRead => Sys2Proof.Machine.execSmbFlashRead s
  | .smbFlashWrite bytes badPec => Sys2Proof.Machine.execSmbFlashWrite bytes badPec s
  | .smbFlashErase bytes badPec => Sys2Proof.Machine.execSmbFlashErase bytes badPec s
  | .smbAlertResponse => Sys2Proof.Machine.execSmbAlertResponse s
  | .jtagExtest => Sys2Proof.Machine.execJtagExtest s
  | .dbgChalCapture => Sys2Proof.Machine.execDbgChalCapture s
  | .dbgToken bytes => Sys2Proof.Machine.execDbgToken bytes s
  | .dbgNop => Sys2Proof.Machine.execDbgNop s
  | .dbgReadBoot => Sys2Proof.Machine.execDbgReadBoot s
  | .dbgReadDcs addr => Sys2Proof.Machine.execDbgReadDcs addr s
  | .dbgReadMem addr => Sys2Proof.Machine.execDbgReadMem addr s
  | .dbgWriteMem addr w => Sys2Proof.Machine.execDbgWriteMem addr w s
  | .dbgReadCtx ctx ix => Sys2Proof.Machine.execDbgReadCtx ctx ix s
  | .dbgWriteCtx ctx ix w => Sys2Proof.Machine.execDbgWriteCtx ctx ix w s
  | .dbgHalt ctx => Sys2Proof.Machine.execDbgHalt ctx s
  | .dbgStep ctx => Sys2Proof.Machine.execDbgStep ctx s
  | .dbgResume ctx => Sys2Proof.Machine.execDbgResume ctx s
  | .dbgReadMatch cluster engine ix => Sys2Proof.Machine.execDbgReadMatch cluster engine ix s
  | .dbgReadPatch cluster engine ix part => Sys2Proof.Machine.execDbgReadPatch cluster engine ix part s
  | .dbgReadRom ix part => Sys2Proof.Machine.execDbgReadRom ix part s
  | .dbgTraceCtl die v => Sys2Proof.Machine.execDbgTraceCtl die v s
  | .dbgTraceRead die ix => Sys2Proof.Machine.execDbgTraceRead die ix s
  | .portTraining port lanes word tSend tEcho tTurn => Sys2Proof.Machine.execPortTraining port lanes word tSend tEcho tTurn s
  | .trainingStepTimeout port => Sys2Proof.Machine.execTrainingStepTimeout port s
  | .trainFlit port v tSend tEcho tTurn => Sys2Proof.Machine.execTrainFlit port v tSend tEcho tTurn s
  | .linkCtrlAck port seq => Sys2Proof.Machine.execLinkCtrlAck port seq s
  | .linkCtrlReplay port seq => Sys2Proof.Machine.execLinkCtrlReplay port seq s
  | .linkCtrlCredit port vc n => Sys2Proof.Machine.execLinkCtrlCredit port vc n s
  | .linkCtrlRetrain port lane => Sys2Proof.Machine.execLinkCtrlRetrain port lane s
  | .linkAckSend port => Sys2Proof.Machine.execLinkAckSend port s
  | .flitError port lane => Sys2Proof.Machine.execFlitError port lane s
  | .linkUnackTimeout port => Sys2Proof.Machine.execLinkUnackTimeout port s
  | .flitViolation port kind x rtag => Sys2Proof.Machine.execFlitViolation port kind x rtag s
  | .ctrlRouteOpen port h digest via => Sys2Proof.Machine.execCtrlRouteOpen port h digest via s
  | .ctrlRouteReply port h status digest => Sys2Proof.Machine.execCtrlRouteReply port h status digest s
  | .ctrlWithdraw port h kind ix => Sys2Proof.Machine.execCtrlWithdraw port h kind ix s
  | .ctrlWithdrawAck port h kind ix => Sys2Proof.Machine.execCtrlWithdrawAck port h kind ix s
  | .ctrlFlowRequest port h rec flowix => Sys2Proof.Machine.execCtrlFlowRequest port h rec flowix s
  | .ctrlFlowReply port h result flowix => Sys2Proof.Machine.execCtrlFlowReply port h result flowix s
  | .ctrlForwardDeclare port h mask dst => Sys2Proof.Machine.execCtrlForwardDeclare port h mask dst s
  | .ctrlRetrain port h => Sys2Proof.Machine.execCtrlRetrain port h s
  | .ctrlCollect port h v => Sys2Proof.Machine.execCtrlCollect port h v s
  | .ctrlPhaseEnd port h phase cycle => Sys2Proof.Machine.execCtrlPhaseEnd port h phase cycle s
  | .remoteReadRequest port x req => Sys2Proof.Machine.execRemoteReadRequest port x req s
  | .remoteResolveRequest port x req => Sys2Proof.Machine.execRemoteResolveRequest port x req s
  | .remoteWriteRequest port x req w => Sys2Proof.Machine.execRemoteWriteRequest port x req w s
  | .remoteCasRequest port x req cmp new => Sys2Proof.Machine.execRemoteCasRequest port x req cmp new s
  | .remoteWriteBarRequest port x req w va => Sys2Proof.Machine.execRemoteWriteBarRequest port x req w va s
  | .remoteResponse port x resp w => Sys2Proof.Machine.execRemoteResponse port x resp w s
  | .remoteRequestTimeout rtag => Sys2Proof.Machine.execRemoteRequestTimeout rtag s
  | .msgAckReceive port x v => Sys2Proof.Machine.execMsgAckReceive port x v s
  | .timeRequest port v t1 => Sys2Proof.Machine.execTimeRequest port v t1 s
  | .timeResponse port v t1 t2 t3 => Sys2Proof.Machine.execTimeResponse port v t1 t2 t3 s
  | .timeExchangeTick => Sys2Proof.Machine.execTimeExchangeTick s
  | .timebaseLockTimeout => Sys2Proof.Machine.execTimebaseLockTimeout s
  | .linkFailure port cause => Sys2Proof.Machine.execLinkFailure port cause s
  | .epochEndTrigger => Sys2Proof.Machine.execEpochEndTrigger s
  | .epochCapture => Sys2Proof.Machine.execEpochCapture s
  | .reflectLine port desc ws => Sys2Proof.Machine.execReflectLine port desc ws s
  | .reflectSnap port desc ws => Sys2Proof.Machine.execReflectSnap port desc ws s
  | .reflectPstate port desc ws => Sys2Proof.Machine.execReflectPstate port desc ws s
  | .reflectQdesc port desc ws => Sys2Proof.Machine.execReflectQdesc port desc ws s
  | .reflectFailed port desc ws => Sys2Proof.Machine.execReflectFailed port desc ws s
  | .reflectEmslot port desc ws => Sys2Proof.Machine.execReflectEmslot port desc ws s
  | .reflectAfterglow port desc ws => Sys2Proof.Machine.execReflectAfterglow port desc ws s
  | .reflectGcmTag port desc ws => Sys2Proof.Machine.execReflectGcmTag port desc ws s
  | .reflectEpochEnd port desc => Sys2Proof.Machine.execReflectEpochEnd port desc s
  | .journalApplyDone => Sys2Proof.Machine.execJournalApplyDone s
  | .reflectEpochAck port desc => Sys2Proof.Machine.execReflectEpochAck port desc s
  | .reflectHeartbeat port desc => Sys2Proof.Machine.execReflectHeartbeat port desc s
  | .heartbeatSend => Sys2Proof.Machine.execHeartbeatSend s
  | .pairFormationTimeout => Sys2Proof.Machine.execPairFormationTimeout s
  | .reflectRekey => Sys2Proof.Machine.execReflectRekey s
  | .reflectLinkLoss => Sys2Proof.Machine.execReflectLinkLoss s
  | .twinAliveEdge => Sys2Proof.Machine.execTwinAliveEdge s
  | .twinAliveSilent => Sys2Proof.Machine.execTwinAliveSilent s
  | .twinAlivePatternEdge => Sys2Proof.Machine.execTwinAlivePatternEdge s
  | .settleWindowEnd => Sys2Proof.Machine.execSettleWindowEnd s
  | .vaonLoss => Sys2Proof.Machine.execVaonLoss s
  | .vbakLoss => Sys2Proof.Machine.execVbakLoss s
  | .railReturn => Sys2Proof.Machine.execRailReturn s
  | .crystalTickReturn => Sys2Proof.Machine.execCrystalTickReturn s
  | .thermalExcursion => Sys2Proof.Machine.execThermalExcursion s
  | .thermalReadmission => Sys2Proof.Machine.execThermalReadmission s
  | .powerDomainWake domain => Sys2Proof.Machine.execPowerDomainWake domain s
  | .pcieLinkUp rate width => Sys2Proof.Machine.execPcieLinkUp rate width s
  | .rngHealthFail => Sys2Proof.Machine.execRngHealthFail s
  | .bootStageComplete => Sys2Proof.Machine.execBootStageComplete s
  | .flitSlot port => Sys2Proof.Machine.execFlitSlot port s
  | .routineRestartAbandon ctx => Sys2Proof.Machine.execRoutineRestartAbandon ctx s

end Sys2Proof.Machine
end

