-- ==== Sys2Proof/Machine/Time.lean ====
section
/-!
DEFINITION. The tick: what one nanosecond of timebase does on a device to which no command waits (R29, R30, R343, R443, R446, R454).
-/

namespace Sys2Proof.Machine
open Sys2Proof

/-- Nanoseconds that a tick stands for: 1 on REFCLK, 5 on the monitor oscillator (R30). -/
def tickNs (s : State) : Nat := if s.power.refLost then 5 else 1

/-- The timebase after a tick: slewed towards its partner by one count in 5,000, 200 ppm, and never backwards (R343). -/
def tickTime (s : State) : State :=
  let t := s.tsync
  let n := tickNs s
  if t.slew = 0 then { s with time := s.time + n, tsync := { t with slewNs := 0 } }
  else if t.slewNs + n < 5000 then { s with time := s.time + n, tsync := { t with slewNs := t.slewNs + n } }
  else if 0 < t.slew then { s with time := s.time + n + 1, tsync := { t with slewNs := 0, slew := t.slew - 1 } }
  else { s with time := s.time + n - 1, tsync := { t with slewNs := 0, slew := t.slew + 1 } }

/-- One crystal tick counted in the calendar. -/
def calCount (c : Calendar) : Calendar :=
  if c.sub + 1 < 32768 then { c with sub := c.sub + 1 } else { c with sub := 0, sec := (c.sec + 1) % 2 ^ 64 }

/-- A crystal tick with its trim: TRIM × 0.1 ppm of a tick is added or omitted, one whole tick at a time (R446). -/
def crystalTick (c : Calendar) : Calendar :=
  let acc := c.trimAcc + trimOf c
  if 10 ^ 7 ≤ acc then calCount (calCount { c with trimAcc := acc - 10 ^ 7 })
  else if acc ≤ -10 ^ 7 then { c with trimAcc := acc + 10 ^ 7 }
  else calCount { c with trimAcc := acc }

/-- The calendar after n ns: the crystal makes 32,768 ticks in a second; it holds while the crystal has failed. -/
def tickCal (n : Nat) (c : Calendar) : Calendar :=
  if c.oscFail then c
  else
    let ph := c.phase + 32768 * n
    if ph < 10 ^ 9 then { c with phase := ph } else crystalTick { c with phase := ph - 10 ^ 9 }

/-- VT_INT of the clusters that are on, sampled every 1 ms (R444). -/
def sampleVt (s : State) (l : Lifetime) : Lifetime :=
  (List.range s.part.clusters).foldl (fun l c =>
    if (getCluster s c).power = .off then l
    else
      let acc := tget 0 l.vtAcc c + s.power.vcore
      { l with vtInt := tput l.vtInt c (tget 0 l.vtInt c + acc / 1000), vtAcc := tput l.vtAcc c (acc % 1000) }) l

/-- The lifetime counters after n ns out of cold reset (R444). -/
def tickLife (n : Nat) (s : State) : State :=
  let ns := s.life.subNs + n
  let sampled := if ns / 10 ^ 6 = s.life.subNs / 10 ^ 6 then s.life else sampleVt s s.life
  let l := if ns < 10 ^ 9 then { sampled with subNs := ns }
    else { sampled with
      subNs := ns - 10 ^ 9, powerOnS := sampled.powerOnS + 1
      thermS := sampled.thermS + (if 105 < s.power.tj then 1 else 0) }
  { s with life := l }

/-- Which clusters that are on are idle, a tick being longer than a step (R18, R453), and since when each has slept (R454). -/
def tickIdle (s0 : State) : State :=
  (List.range s0.part.clusters).foldl (fun s0 c =>
    let s := if (getCluster s0 c).power == .active then noteIdle s0 c else s0
    let asleep := (getCluster s c).power == .active && clusterSleeps s c
    let p := s.power
    let since := if asleep then (if thas p.idleSince c then p.idleSince else tput p.idleSince c s.time) else tdel p.idleSince c
    { s with power := { p with idleSince := since } }) s0

/-- One tick; on VBAK alone only the calendar counts. -/
def tick (s : State) : State :=
  let n := tickNs s
  let s1 := { s with cal := tickCal n s.cal }
  if s.power.vaon = false then s1
  else
    let s2 := tickTime s1
    if s.power.heldReset then s2 else tickIdle (tickLife n s2)

end Sys2Proof.Machine
end

