-- ==== Sys2Proof/Machine/Step.lean ====
section
/-!
DEFINITION. The step: the command at the front of the queue is taken and carried out on the state with the queue's
rest; on an empty queue one tick of the timebase passes.
-/

namespace Sys2Proof.Machine
open Sys2Proof

/-- The state with the queue's front command removed. -/
def State.withPending (s : State) (p : List Instr) : State := { s with pending := p }

/-- One step of the block. DESIGN CHOICE: time passes only while no command waits. -/
def step (s : State) : Host.Outcome State Fault Refusal :=
  match s.pending with
  | [] => .next (tick s)
  | c :: rest => exec c (s.withPending rest)

/-- The command that a table word spells put at the front of the queue; the table gives its rows no bits, so no word
spells one and the state is unchanged. -/
def State.withFetchWord (s : State) (nbits w : Nat) : State :=
  match decodeTableWord nbits w with
  | some c => s.withPending (c :: s.pending)
  | none => s

end Sys2Proof.Machine
end

