-- ==== Sys2Proof/WellFormed.lean ====
section
/-!
DEFINITION. Which commands are well formed: every operand names something that the part can have (R20 to R22, R34, R136) and every
byte list has the length of its command (R482, R487).
-/

namespace Sys2Proof

/-- A context number names a context of the part. -/
def ctxOk (t : Part) (c : Nat) : Bool := decide (c < t.clusters * coresPerCluster * ctxPerCore)

/-- A core number. -/
def coreOk (t : Part) (k : Nat) : Bool := decide (k < t.clusters * coresPerCluster)

/-- A cluster number. -/
def clusterOk (t : Part) (c : Nat) : Bool := decide (c < t.clusters)

/-- A partition number. -/
def partOk (p : Nat) : Bool := decide (p < 32)

/-- A line of the 36-bit local address space. -/
def lineOk (l : Nat) : Bool := decide (l < 2 ^ 33)

/-- A local word address. -/
def addrOk (a : Nat) : Bool := decide (a < 2 ^ 36)

/-- A port number. -/
def portOk (t : Part) (p : Nat) : Bool := decide (p < t.ports)

/-- One of the two Routine Engines of a cluster. -/
def engineOk (t : Part) (c e : Nat) : Bool := clusterOk t c && decide (e < 2)

/-- The unit, entry or register of an error. -/
def lossOk : ParityLoss → Bool
  | .l1d i => decide (i < 2 ^ 8)
  | .l1i i => decide (i < 2 ^ 9)
  | .l2 i => decide (i < 2 ^ 15)
  | .tlb i => decide (i < 64)
  | .engineTlb e i => decide (e < 2) && decide (i < 32)
  | .rangeTlb i => decide (i < 16)
  | .reg j r => decide (j < 32) && decide (r < 64)

/-- A unit that translates. -/
def unitOk (t : Part) : TransUnit → Bool
  | .core n => coreOk t n
  | .engine c n => engineOk t c n
  | .range c => clusterOk t c

/-- A sender of a message. -/
def fromOk (t : Part) : MsgFrom → Bool
  | .cluster c => clusterOk t c
  | .host => true
  | .base => true
  | .port p => portOk t p

/-- A PCI Express function: 0 physical, 1 to 32 virtual. -/
def fnOk (f : Nat) : Bool := decide (f ≤ 32)

/-- A 16-bit queue number. -/
def queueOk (q : Nat) : Bool := decide (q < 65536)

/-- A device number. -/
def devOk (d : Nat) : Bool := decide (d < 16)

/-- The devices, the partition and the reserved bits of a flit. -/
def xportOk (x : XPort) : Bool :=
  devOk x.dst && devOk x.src && partOk x.part && decide (x.rsvd < 2 ^ 16) && decide (x.count < 8) && x.seq.all (· < 512)

/-- The devices, partition and token of a control message. -/
def hdrOk (h : CtrlHdr) : Bool :=
  devOk h.origin && devOk h.target && partOk h.part && decide (h.token < 256) && h.seq.all (· < 512)

/-- A message of a peer: one to eight words, its queue and its sender's context. -/
def msgOk (m : PeerMsg) : Bool :=
  xportOk m.x && decide (m.kind < 4) && decide (m.ctx < 2 ^ 14) && decide (m.qid < 2 ^ 20) && decide (1 ≤ m.words.length) &&
    decide (m.words.length ≤ 8)

/-- Who writes device control space. -/
def dcsWhoOk : DcsWho → Bool
  | .part p => partOk p
  | .pf => true
  | .smb => true

/-- An 8-bit event code's report has at most seven payload words (R426). -/
def reportOk (r : Report) : Bool := decide (r.code < 65536) && decide (r.pay.length ≤ 7)

/-- Whether a command is well formed for a part. -/
def Instr.wf (t : Part) : Instr → Bool
  | .fetchPacket c | .receiveWaitWithdraw c | .deferredStoreFaultEntry c | .nurserySuspendEntry c | .valueArrival c
  | .tlbWalkComplete c | .fenceWaitEnd c | .udrainWaitEnd c | .routineYieldComplete c | .queueReceiveRequest c
  | .contextTimerExpiry c | .routineRestartAbandon c => ctxOk t c
  | .packetIssue k l => coreOk t k && l.all lossOk
  | .interruptTaken k | .storeDrain k | .l1dEvictionWrite k => coreOk t k
  | .tlbiReceive u | .tlbiAck u => unitOk t u
  | .routineRequestTaken c e | .routineSegment c e => engineOk t c e
  | .collectorPhaseAdvance p | .collectorMarkWork p | .weakBoxVisit p | .collectorEvacuation p | .windowFillDone p
  | .slcmdAttest p | .slcmdExtend p | .sealingCommandDone p | .slwinlWrite p _ | .tmdlWrite p _ | .hscmdSend p _ => partOk p
  | .rangeOperationRun c | .rangeCompletionRetry c | .homeUncachedRead c | .homeUncachedWrite c | .clcmdOff c
  | .clusterDrainDone c | .clcmdOn c | .clusterRetainEntry c | .clusterWake c => clusterOk t c
  | .l1dFill k l => coreOk t k && lineOk l
  | .homeRead c l | .homeReadForOwnership c l | .homeUpgrade c l | .homeClaim c l | .homeWriteback c l
  | .homeCleanEviction c l | .keepNotice c l | .clusterRecall c l _ => clusterOk t c && lineOk l
  | .messageRelease f => fromOk t f
  | .queueMessageArrival f m => fromOk t f && (match m with | some m => msgOk m | none => true)
  | .wdctlKick | .watchdogExpiry | .calalmExpiry | .calOscFail | .thermtrip | .refclkLoss | .refclkReturn | .coldReset
  | .afterglowDrain | .afterglowDrainRetry | .agcmdClearFb | .agcmdFlushAgg | .ltcmdSave | .lifetimePageWrite
  | .pciePmeTurnOff | .pcieLinkDown | .hostCommandDone | .flashOperationDone | .rfcmdForm | .rfcmdStanddown | .rfcmdRelinquish
  | .smbGetStatus | .smbRead | .smbGetLast | .smbFlashRead | .smbAlertResponse | .jtagExtest | .dbgChalCapture | .dbgNop
  | .dbgReadBoot | .timeExchangeTick | .timebaseLockTimeout | .epochEndTrigger | .epochCapture | .journalApplyDone
  | .heartbeatSend | .pairFormationTimeout | .reflectRekey | .reflectLinkLoss | .twinAliveEdge | .twinAliveSilent
  | .twinAlivePatternEdge | .settleWindowEnd | .vaonLoss | .vbakLoss | .railReturn | .crystalTickReturn | .thermalExcursion
  | .thermalReadmission | .rngHealthFail | .bootStageComplete => true
  | .wdctlEnable _ | .calsecWrite _ | .caltrimWrite _ | .vrqAlert _ => true
  | .stackSelfRefresh n => decide (n < t.stacks)
  | .powerDomainOffRequest d | .powerDomainWake d => decide (d < 62)
  | .vcoreAdjust b w cap => decide (b ≤ 512) && decide (w < 1024) && decide (cap < 1024)
  | .thermalLimitChange tj => decide (tj < 256)
  | .railLoss r => decide (r < 16)
  | .warmReset _ => true
  | .afterglowReport r => match r with | some r => reportOk r | none => true
  | .aggEntryClose i => decide (i < 256)
  | .suppRecordTimeout code => decide (code < 65536)
  | .ringScrub bad => bad.all fun i => decide (i < 524288)
  | .penumbraWindowExpiry i => decide (i < 2048)
  | .dcsRegisterWrite who a _ => dcsWhoOk who && addrOk a
  | .pcieMemoryRead f b _ n => fnOk f && decide (b < 6) && decide (1 ≤ n) && decide (n ≤ 4096)
  | .pcieMemoryWrite f b _ _ bs => fnOk f && decide (b < 6) && decide (1 ≤ bs.length) && decide (bs.length ≤ 4096)
  | .pcieConfigRequest f r _ _ => fnOk f && decide (r < 1024)
  | .pcieFlr f => fnOk f
  | .pcieUnsupportedRequest f k => fnOk f && decide (k ≤ 10)
  | .pcieMalformedTlp f _ => match f with | some f => fnOk f | none => true
  | .hqheadWrite f q _ => fnOk f && queueOk q
  | .hmcmdAttest a | .hmcmdEnrol a | .hmcmdTransfer a | .hmcmdRevoke a | .hmcmdSvnRaise a | .hmcmdReform a
  | .hmcmdPartReset a | .hmcmdWarmReset a | .hmcmdFlashWrite a | .hmcmdFlashErase a => decide (a.toNat < 256)
  | .smbSetAddr bs _ => bs.length == 5
  | .smbWrite bs _ => bs.length == 9
  | .smbWarmReset bs _ | .smbFlashErase bs _ => bs.length == 1
  | .smbFlashAddr bs _ => bs.length == 4
  | .smbFlashWrite bs _ => decide (1 ≤ bs.length) && decide (bs.length ≤ 32)
  | .dbgToken bs => bs.length == 330
  | .dbgReadDcs a | .dbgReadMem a | .dbgWriteMem a _ => addrOk a
  | .dbgReadCtx c i | .dbgWriteCtx c i _ => decide (c < 2 ^ 14) && decide (i < 65536)
  | .dbgHalt c | .dbgStep c | .dbgResume c => decide (c < 2 ^ 14)
  | .dbgReadMatch c e i => engineOk t c e && decide (i < 64)
  | .dbgReadPatch c e i p => engineOk t c e && decide (i < 256) && decide (p < 4)
  | .dbgReadRom i p => decide (i < 16384) && decide (p < 4)
  | .dbgTraceCtl d _ => decide (d < 4)
  | .dbgTraceRead d i => decide (d < 4) && decide (i < 8192)
  | .portTraining p l _ _ _ _ => portOk t p && decide (l < 16)
  | .trainingStepTimeout p | .linkAckSend p | .linkUnackTimeout p | .flitSlot p => portOk t p
  | .trainFlit p _ _ _ _ => portOk t p
  | .linkCtrlAck p n | .linkCtrlReplay p n => portOk t p && decide (n < 65536)
  | .linkCtrlCredit p vc n => portOk t p && decide (vc < 16) && decide (n < 65536)
  | .linkCtrlRetrain p l | .flitError p l => portOk t p && decide (l < 4)
  | .flitViolation p _ x _ => portOk t p && xportOk x
  | .ctrlRouteOpen p h _ v => portOk t p && hdrOk h && decide (v < 32)
  | .ctrlRouteReply p h st _ => portOk t p && hdrOk h && decide (st < 16)
  | .ctrlWithdraw p h _ _ | .ctrlWithdrawAck p h _ _ | .ctrlFlowRequest p h _ _ | .ctrlFlowReply p h _ _
  | .ctrlForwardDeclare p h _ _ | .ctrlRetrain p h | .ctrlCollect p h _ | .ctrlPhaseEnd p h _ _ => portOk t p && hdrOk h
  | .remoteReadRequest p x _ | .remoteResolveRequest p x _ | .remoteWriteRequest p x _ _ | .remoteCasRequest p x _ _ _
  | .remoteWriteBarRequest p x _ _ _ | .remoteResponse p x _ _ | .msgAckReceive p x _ => portOk t p && xportOk x
  | .remoteRequestTimeout tag => decide (tag < 65536)
  | .timeRequest p _ _ | .timeResponse p _ _ _ _ => portOk t p
  | .linkFailure p c => portOk t p && decide (c < 16)
  | .reflectLine p _ ws | .reflectSnap p _ ws | .reflectPstate p _ ws | .reflectQdesc p _ ws | .reflectFailed p _ ws
  | .reflectEmslot p _ ws | .reflectAfterglow p _ ws | .reflectGcmTag p _ ws => portOk t p && decide (ws.length ≤ 192)
  | .reflectEpochEnd p _ | .reflectEpochAck p _ | .reflectHeartbeat p _ => portOk t p
  | .pcieLinkUp r w => decide (r < 256) && decide (w ≤ 16)

end Sys2Proof
end

