-- ==== Sys2Proof/Safety.lean ====
section
/-!
DEFINITION. What a safe run is, in the terms that claims use: the state's memory keeps its canonical form, the part stays, the device
number stays or is sampled from the straps, and every step answers a next state.
-/

namespace Sys2Proof
open Sys2Proof.Machine

/-- The invariant of every state: memory in its canonical form. -/
def Inv (s : State) : Prop := Memory.wf s.mem = true

/-- What no command changes: the part, the straps of BOARD_SLOT and the queue of waiting commands; and the device number is as it was,
or the number on the straps, which a reset samples (R495). -/
def SameDevice (s t : State) : Prop :=
  t.part = s.part ∧ (t.dev = s.dev ∨ t.dev = s.boardSlot) ∧ t.boardSlot = s.boardSlot ∧ t.pending = s.pending

/-- A state that a run of steps leads to. -/
inductive Reaches : State → State → Prop where
  | refl (s : State) : Reaches s s
  | step {s t u : State} : step s = .next t → Reaches t u → Reaches s u

/-- The next state of a step, where it has one. -/
def nextOf (s : State) : Option State :=
  match step s with
  | .next t => some t
  | _ => none

/-- A safe step: neither a fault nor a refusal. -/
def SafeStep (s : State) : Prop := ∃ t, step s = .next t

/-- What reading one word of local memory gives, cached copies included. -/
def readsAs (s : State) (a : Nat) : Word := cohRead s a

/-- Two states whose contexts, caches, memory and partitions are the same, and whose clusters are but for being idle (R453). -/
def SameCompute (s t : State) : Prop :=
  t.ctxs = s.ctxs ∧ t.cores = s.cores ∧ (∀ c, getCluster t c = { getCluster s c with idle := (getCluster t c).idle }) ∧
    t.mem = s.mem ∧ t.parts = s.parts

end Sys2Proof
end

