-- ==== Sys2Proof/Certificates/Slice0/Obligations.lean ====
section
/-!
DEFINITION. The statements: what the block's commands do by the spec's numbered rules, for every state, and what every step keeps.
-/

open Sys2Proof Sys2Proof.Machine

/-! ## The queue of commands, and reset -/

/-- A step takes the command at the front of the queue and carries it out with the queue's rest (the block's form; no rule). -/
def Obligations.StepRunsFrontCommand : Prop :=
  ∀ (s : State) (c : Instr) (rest : List Instr), step (s.withPending (c :: rest)) = exec c (s.withPending rest)

/-- On an empty queue a step is a tick: the timebase counts 1 ns on REFCLK and 5 ns on the monitor oscillator while no slew is
being made (R29, R30, R343; that time passes only while no command waits is the model's choice, log entry 2). -/
def Obligations.IdleStepTicks : Prop :=
  ∀ s : State, s.pending = [] → s.power.vaon = true → s.tsync.slew = 0 →
    ∃ t, step s = .next t ∧ t.time = s.time + (if s.power.refLost then 5 else 1) ∧ SameCompute s t ∧ t.queues = s.queues ∧
      t.msgs = s.msgs ∧ t.outbox = s.outbox ∧ t.ports = s.ports ∧ t.hostIf = s.hostIf ∧ t.trust = s.trust ∧ t.glow = s.glow ∧
      t.reports = s.reports ∧ t.refl = s.refl ∧ t.pending = []

/-- Reset: no command waits, every context is NOT_STARTED with `G`, latches and flags FIX 0 and 0, memory lists nothing, boot is at
HOLD, no image is in force, `PLIMIT`, `RETDLY` and `SRDLY` hold 760, 100 and 50, and time is 0 (R266, R374, R449, R463, R464; the
part and the device number are the model's choice, log entry 1). -/
def Obligations.ResetState : Prop :=
  State.reset.pending = [] ∧ State.reset.mem = [] ∧ State.reset.time = 0 ∧
    (∀ c, (getCtx State.reset c).run = .notStarted ∧ (getCtx State.reset c).priv = true ∧
      (∀ r, gOf (getCtx State.reset c) r = .word Word.zero) ∧
      (∀ a, latchOf (getCtx State.reset c).u a = Word.zero ∧ latchOf (getCtx State.reset c).s a = Word.zero) ∧
      (getCtx State.reset c).u.flags = {} ∧ (getCtx State.reset c).s.flags = {}) ∧
    State.reset.trust.stage = 0 ∧ State.reset.img.inForce = false ∧ State.reset.power.plimit = 760 ∧
    State.reset.power.retdly = 100 ∧ State.reset.power.srdly = 50 ∧ State.reset.queues = [] ∧ State.reset.reports = []

/-- The invariant holds right after reset. -/
def Obligations.InvAtReset : Prop := Inv State.reset

/-- Every step keeps memory's canonical form (addresses rising, FIX 0 never listed), from every state that has it. -/
def Obligations.EveryStepKeepsInv : Prop := ∀ s t : State, Inv s → step s = .next t → Inv t

/-- No command changes the part, the straps of BOARD_SLOT or the queue of waiting commands, and the device number stays as it is or becomes
the number on the straps, which a reset samples (R495). -/
def Obligations.CommandsKeepDevice : Prop := ∀ (c : Instr) (s t : State), exec c s = .next t → SameDevice s t

/-- Every command completes: from every state, with every operand, each of the 201 commands answers a next state, in which the part, the
straps and the waiting commands are as before; the device's own effect of each is what the statements of its family say. No command is
refused and none ends in a fault: what the spec calls a refusal (a status, a violation, a record) is state (R12). -/
def Obligations.EveryCommandCompletes : Prop := ∀ (c : Instr) (s : State), ∃ t, exec c s = .next t ∧ SameDevice s t

/-- No step stops: every command of the device has its effect as a next state. -/
def Obligations.EveryStepIsSafe : Prop := ∀ s : State, SafeStep s

/-! ## Memory -/

/-- A word written reads back, every other word is as before, and the canonical form is kept (R33, R34; how memory is held is the
model's).
A run of words written reads back word by word, and every word outside it is as before (the lines of R33 and R216). -/
def Obligations.MemoryWriteReads : Prop :=
  (∀ (s : State) (a b : Nat) (w : Word),
    readWord (writeWord s a w) b = (if b = a then w else readWord s b) ∧ (Inv s → Inv (writeWord s a w)) ∧
      (writeWord s a w).ctxs = s.ctxs) ∧
  (∀ (s : State) (a b : Nat) (ws : List Word),
    readWord (writeWords s a ws) b =
      (if a ≤ b ∧ b < a + ws.length then (ws[b - a]?).getD Word.zero else readWord s b) ∧ (Inv s → Inv (writeWords s a ws)))

/-- Memory in canonical form is fixed by what it reads as: two such memories that read alike at every address are equal. -/
def Obligations.MemoryIsCanonical : Prop :=
  ∀ m n : List (Nat × Word), Memory.wf m = true → Memory.wf n = true → (∀ a, memGet m a = memGet n a) → m = n

/-! ## Packets and frames -/

/-- Decoding the payload that the tables of R70 to R73 give a packet yields that packet, for every packet of templates 0 to 4 and
every field value. -/
def Obligations.PacketDecodesFromItsWord : Prop := ∀ p : Packet, decodePacket (encodePacket p) = some p

/-- Every payload that decodes is the payload of the packet that it decodes to, and templates 5 to 15 decode to none (R70).
Payloads written out from R70 to R73: four NULL moves are 0; template 3 with G1 to `AL.a` and immediate 5 to `AL.add`; template 4
with a FIX immediate to G2; and 0x5000_0000_0000_0000 is reserved. -/
def Obligations.PacketWordIsItsPacket : Prop :=
  ((∀ (w : W64) (p : Packet), decodePacket w = some p → encodePacket p = w) ∧
    ∀ w : W64, decodePacket w = none ↔ 5 ≤ bits w 63 60) ∧
  (decodePacket 0 = some (.t0 ⟨0, false, 0⟩ ⟨0, false, 0⟩ ⟨0, false, 0⟩ ⟨0, false, 0⟩) ∧
    decodePacket 0x3000401040024005 = some (.t3 ⟨0, 1, 0, 0x41⟩ ⟨0, 2, 1, 5⟩) ∧
    decodePacket 0x4108000000000009 = some (.t4 ⟨0x42, 0, 9⟩) ∧ decodePacket 0x5000000000000000 = none)

/-- What a frame holds comes back from it: the privilege, the program counter, IE, the flags of the bank in use, the repeat state, the
transfers in flight, CAUSE, FADDR and FINFO, and the stack addresses, for every context whose fields have their widths (R274,
R280); and the frame passes the field checks of R279. -/
def Obligations.FrameRoundTrip : Prop :=
  ∀ (x : Ctx) (kind resume base : Nat), kind ≤ 2 → resume < 2 ^ 48 → x.xfers.length ≤ 3 →
    (∀ t ∈ x.xfers, t.target < 2 ^ 48 ∧ t.dist < 4) → (∀ n, x.rpt = .armed n ∨ x.rpt = .active n → n < 2 ^ 16) →
    x.regs.cause.toNat < 256 → x.regs.faddr.toNat < 2 ^ 48 →
    frameFieldsOk (frameOf x kind resume base) = true ∧
    frameView (frameOf x kind resume base) =
      { priv := x.priv, pc := resume, ie := x.regs.ie, flags := (curBank x).flags, rpt := x.rpt, xfers := x.xfers
        cause := x.regs.cause, faddr := x.regs.faddr, finfo := x.regs.finfo
        sdsp := bits (latchOf x.s pDSsp).pay 47 0, srsp := bits (latchOf x.s pRSsp).pay 47 0 }

/-! ## The execution core: FETCH_PACKET to TLBI_ACK (R69, R78 to R84, R90 to R102, R144 to R148, R189, R251, R256 to R260, R270 to R286,
R299 to R301) -/

/-- FETCH_PACKET holds the next packet of a runnable context with the word met, from the L1I where it holds the line, or the fetch
fault of its translation; nothing else changes; a fetch whose translation misses only waits (R69, R206, R256). With that packet held the
one after it is fetched ahead, and a failure is held with it (R256).
Completes, `exec` answering a next state under the hypotheses of its clause alone: `fetchPacket`. -/
def Obligations.FetchHoldsPacket : Prop :=
  (∀ (s : State) (c pa typ i : Nat) (e : TlbEnt), (getCtx s c).run = .runnable → (getCtx s c).fetched = none →
    translate s c (fetchReq (getCtx s c)) = .ok pa typ e →
    l1iFind (getCore s (coreOf c)) (getCtx s c).pc (pa % 2 ^ 36 / 8) = some i →
    exec (.fetchPacket c) s = .next (setCtx s c { getCtx s c with
      fetched := some { pc := (getCtx s c).pc, word := .inl (wordOf (tget ({} : L1ILine) (getCore s (coreOf c)).l1i i).data pa) } })) ∧
  (∀ (s : State) (c : Nat) (f : FaultRec), (getCtx s c).run = .runnable → (getCtx s c).fetched = none →
    translate s c (fetchReq (getCtx s c)) = .fault f →
    exec (.fetchPacket c) s = .next (setCtx s c { getCtx s c with fetched := some { pc := (getCtx s c).pc, word := .inr f } })) ∧
  (∀ (s : State) (c : Nat), (getCtx s c).fetched = none → translate s c (fetchReq (getCtx s c)) = .miss →
    exec (.fetchPacket c) s = .next s) ∧
  ∀ (s : State) (c : Nat) (w : Word ⊕ FaultRec) (f : FaultRec), (getCtx s c).run = .runnable →
    (getCtx s c).fetched = some { pc := (getCtx s c).pc, word := w } → (getCtx s c).ahead = none →
    translate s c { fetchReq (getCtx s c) with va := ((getCtx s c).pc + 1) % 2 ^ 48 } = .fault f →
    exec (.fetchPacket c) s = .next (setCtx s c { getCtx s c with
      ahead := some { pc := ((getCtx s c).pc + 1) % 2 ^ 48, word := .inr f } })

/-- PACKET_ISSUE issues the packet of the first ready context: a packet that its examination accepts commits whole, one that it
faults is not executed and the context enters the supervisor, and one that must wait parks (R78 to R83). A step at which no context
is ready, or which a throttle takes away, only counts and notes an idle cluster (R84, R453). An error that the step meets is settled first (R222, R223, R249, R254).
The state of the core when context c of it issues (R82, R83): the step counted, the pointer behind c, the interval started, and a colour
that software wrote on an AH-9128L taken (R159).
Completes, `exec` answering a next state under the hypotheses of its clause alone: `packetIssue`. -/
def Obligations.PacketIssueExamines : Prop :=
  ((∀ (s : State) (core c : Nat) (w : Word), stepIssues s core = true → chooseCtx s core = some c →
    takesInterrupt (getCtx s c) = false → (getCtx s c).rpt ≠ .armed 0 →
    (getCtx s c).fetched = some { pc := (getCtx s c).pc, word := .inl w } →
    let s1 := modCtx (issuedBy s core c) c takeColour
    (∀ r, examine s1 c w = .ok r → exec (.packetIssue core none) s = .next (commit s1 c r)) ∧
    (∀ f, examine s1 c w = .error (.fault f) ∨ examine s1 c w = .error (.late f) →
      exec (.packetIssue core none) s = .next (faultEntry (modCtx (tellSealed s1 c f) c fun x =>
        { x with park := none, derefs := [] }) c f)) ∧
    (∀ r f, examine s1 c w = .error (.failed r f) →
      exec (.packetIssue core none) s = .next (faultEntry (modCtx (tellSealed s1 c f) c fun x =>
        { tellFail x r with park := none, derefs := [] }) c { f with deferred := true })) ∧
    ∀ p, examine s1 c w = .error (.park p) → ∃ t, exec (.packetIssue core none) s = .next t ∧ t.mem = s.mem) ∧
  (∀ (s : State) (core c : Nat) (f : FaultRec), stepIssues s core = true → chooseCtx s core = some c →
    takesInterrupt (getCtx s c) = false → (getCtx s c).rpt ≠ .armed 0 →
    (getCtx s c).fetched = some { pc := (getCtx s c).pc, word := .inr f } →
    let s1 := modCtx (issuedBy s core c) c takeColour
    exec (.packetIssue core none) s = .next (faultEntry (modCtx (tellSealed s1 c f) c fun x =>
      { x with park := none, derefs := [] }) c f)) ∧
  (∀ (s : State) (core c : Nat), stepIssues s core = true → chooseCtx s core = some c → takesInterrupt (getCtx s c) = true →
    exec (.packetIssue core none) s = .next s) ∧
  (∀ (s : State) (core : Nat), stepIssues s core = false ∨ chooseCtx s core = none →
    exec (.packetIssue core none) s = .next (countStep s core)) ∧
  ∀ (s : State) (core : Nat) (l : ParityLoss),
    exec (.packetIssue core (some l)) s = exec (.packetIssue core none) (parityLoss s core l)) ∧
  (∀ (s : State) (core c : Nat), core = coreOf c →
    (getCore (issuedBy s core c) core).step = (getCore s core).step + 1 ∧ (getCore (issuedBy s core c) core).ptr = (c % 32 + 1) % 32 ∧
      getCtx (issuedBy s core c) c = { getCtx s c with lastIssue := some (getCore s core).step, dbgStep := false } ∧
      (issuedBy s core c).mem = s.mem ∧ ∀ d, d ≠ c → getCtx (issuedBy s core c) d = getCtx s d)

/-- A packet that moves one word to a general register, its other slots NULL: a short FIX immediate, the FIX immediate of a wide move, or
another general register's word. PACKET_ISSUE completes: the register holds the word, the immediate sign-extended, and the
program counter advances by one packet; every other register, the flags, both banks' latches, the special registers, memory
and every other context are as before (R70, R71, R73, R74, R80, R89).
Completes, `exec` answering a next state under the hypotheses of its clause alone: `packetIssue`. -/
def Obligations.MoveImmediateToRegister : Prop :=
  ∀ (s : State) (core c r : Nat) (pk : Packet) (w : Word), r < 64 → core = coreOf c → stepIssues s core = true →
    chooseCtx s core = some c → takesInterrupt (getCtx s c) = false →
    (getCtx s c).rpt = .none → (getCtx s c).xfers = [] → (curBank (getCtx s c)).inflight = [] → (getCtx s c).regs.dchk = false →
    (getCtx s c).regs.aemuV = false →
    (getCtx s c).fetched = some { pc := (getCtx s c).pc, word := .inl (⟨tagCODE, encodePacket pk⟩ : Word) } →
    (∃ v, pk = .t0 ⟨BitVec.ofNat 7 (0x40 + r), true, v⟩ ⟨0, false, 0⟩ ⟨0, false, 0⟩ ⟨0, false, 0⟩ ∧ w = Word.fix (v.signExtend 64)) ∨
    (∃ v, pk = .t4 ⟨BitVec.ofNat 10 (0x40 + r), tagFIX, v⟩ ∧ w = Word.fix (v.signExtend 64) ∧
      creationFault (ctxPart s c) (getCtx s c).priv w = none) ∨
    (∃ q, q < 64 ∧ pk = .t0 ⟨BitVec.ofNat 7 (0x40 + r), false, BitVec.ofNat 7 (0x40 + q)⟩ ⟨0, false, 0⟩ ⟨0, false, 0⟩ ⟨0, false, 0⟩ ∧
      gOf (getCtx s c) q = .word w ∧ w.tag ≠ tagPOISON ∧ w.tag ≠ tagPENDING) →
    ∃ t, exec (.packetIssue core none) s = .next t ∧ gOf (getCtx t c) r = .word w ∧
      (∀ q, q ≠ r → gOf (getCtx t c) q = gOf (getCtx s c) q) ∧ (getCtx t c).pc = ((getCtx s c).pc + 1) % 2 ^ 48 ∧
      (getCtx t c).regs = (takeColour (getCtx s c)).regs ∧ (curBank (getCtx t c)).flags = (curBank (getCtx s c)).flags ∧
      (∀ a, latchOf (curBank (getCtx t c)) a = latchOf (curBank (getCtx s c)) a) ∧ t.mem = s.mem ∧
      (∀ k, getCluster t k = { getCluster s k with idle := if k = clusterOfCore core then false else (getCluster s k).idle }) ∧
      (∀ d, d ≠ c → getCtx t d = getCtx s d)

/-- An entry that is made (R271): the ten sealed frame words join the store order, the base rises by 10, the privilege becomes S, IE
becomes 0, CAUSE, FADDR and FINFO take the entry's values, repeat and transfers end, and the program counter is the target. Memory,
`G` and the U bank are as before.
An entry whose base fails a check of R272 is not made (R276): the context is HALTED_FAULT, its emergency slot is valid and takes
the frame, and nothing is stored. -/
def Obligations.EntryIsMadeOrHalts : Prop :=
  (∀ (s : State) (c : Nat) (e : EntryInfo) (pas : List (Nat × Nat)),
    checkBase s c (entryBase (getCtx s c) e) (latchOf (getCtx s c).s pDSlim) = .good pas →
    let t := takeEntry s c e
    let x := getCtx t c
    x.priv = true ∧ x.pc = e.target ∧ x.regs.ie = false ∧ x.regs.cause = BitVec.ofNat 64 e.cause ∧ x.regs.faddr = e.faddr ∧
      x.regs.finfo = e.finfo ∧ x.rpt = .none ∧ x.xfers = [] ∧ x.park = none ∧ x.hold = .none ∧
      latchOf x.s pDSsp = Word.fixN ((entryBase (getCtx s c) e).pay.toNat + 10) ∧ x.g = (getCtx s c).g ∧ x.u = (getCtx s c).u ∧
      t.mem = s.mem ∧ (∀ d, d ≠ c → getCtx t d = getCtx s d)) ∧
  (∀ (s : State) (c : Nat) (e : EntryInfo) (reason tcause : Nat),
    checkBase s c (entryBase (getCtx s c) e) (latchOf (getCtx s c).s pDSlim) = .bad reason tcause →
    let t := takeEntry s c e
    (getCtx t c).run = .haltedFault ∧ (getCtx t c).emv = true ∧ (getCtx t c).pc = (getCtx s c).pc ∧ t.mem = s.mem ∧
      t.cores = s.cores ∧ tget Word.zero (getCtx t c).em 10 = Word.fixN e.cause ∧ tget Word.zero (getCtx t c).em 11 = Word.fix e.faddr)

/-- INTERRUPT_TAKEN: the context that the schedule chooses enters at `EVEC` with cause INTERRUPT, FADDR the address of the packet not
yet executed and FINFO the enabled pending bits (R286).
DEFERRED_STORE_FAULT_ENTRY and NURSERY_SUSPEND_ENTRY: at an open packet boundary the oldest fault of a store, or the fault of a
suspended allocation, is entered with its own CAUSE at `EVEC` (R189, R330).
Completes, `exec` answering a next state under the hypotheses of its clause alone: `interruptTaken`, `deferredStoreFaultEntry`,
`nurserySuspendEntry`. -/
def Obligations.InterruptsAndDeferredFaultsEnter : Prop :=
  (∀ (s : State) (core c : Nat) (pas : List (Nat × Nat)), core = coreOf c → stepIssues s core = true →
    chooseCtx s core = some c → takesInterrupt (getCtx s c) = true →
    (let s1 := modCtx (issuedBy s core c) c fun x => { x with park := none }
     checkBase s1 c (latchOf (getCtx s c).s pDSsp) (latchOf (getCtx s c).s pDSlim) = .good pas) →
    ∃ t, exec (.interruptTaken core) s = .next t ∧ (getCtx t c).priv = true ∧ (getCtx t c).regs.ie = false ∧
      (getCtx t c).pc = evecOf s c ∧ (getCtx t c).regs.cause = 2 ∧ (getCtx t c).regs.faddr = BitVec.ofNat 64 (getCtx s c).pc ∧
      (getCtx t c).regs.finfo = field (Nat.land (getCtx s c).regs.ipend (getCtx s c).regs.ien) 0 ∧ t.mem = s.mem) ∧
  ((∀ (s : State) (c : Nat) (f : FaultRec) (rest : List FaultRec) (pas : List (Nat × Nat)), (getCtx s c).storeFaults = f :: rest →
    boundaryOpen (getCtx s c) = true →
    checkBase (setCtx s c { getCtx s c with storeFaults := rest }) c (latchOf (getCtx s c).s pDSsp) (latchOf (getCtx s c).s pDSlim) =
      .good pas →
    ∃ t, exec (.deferredStoreFaultEntry c) s = .next t ∧ (getCtx t c).storeFaults = rest ∧ (getCtx t c).pc = evecOf s c ∧
      (getCtx t c).regs.cause = BitVec.ofNat 64 f.cause ∧ (getCtx t c).regs.faddr = addr48 f.faddr ∧ (getCtx t c).priv = true) ∧
  ∀ (s : State) (c : Nat) (f : FaultRec) (pas : List (Nat × Nat)), (getCtx s c).nurseryFault = some f →
    boundaryOpen (getCtx s c) = true →
    checkBase (setCtx s c { getCtx s c with nurseryFault := none }) c (latchOf (getCtx s c).s pDSsp) (latchOf (getCtx s c).s pDSlim) =
      .good pas →
    ∃ t, exec (.nurserySuspendEntry c) s = .next t ∧ (getCtx t c).nurseryFault = none ∧ (getCtx t c).pc = evecOf s c ∧
      (getCtx t c).regs.cause = BitVec.ofNat 64 f.cause ∧ (getCtx t c).priv = true)

/-- RECEIVE_WAIT_WITHDRAW: the wait of a context that has entered leaves every queue's list and the miss slot frees (R301).
Completes, `exec` answering a next state under the hypotheses of its clause alone: `receiveWaitWithdraw`. -/
def Obligations.ReceiveWaitIsWithdrawn : Prop :=
  ∀ (s : State) (c q : Nat) (m : MissOp), (getCtx s c).recvEntry = true → (getCtx s c).slot = some m → m.kind = .recv q true →
    m.result = none → (getCtx s c).park = none → (getCtx s c).rqWant = false → (getCtx s c).recvWant = false →
    ∃ t, exec (.receiveWaitWithdraw c) s = .next t ∧
      getCtx t c = { getCtx s c with slot := none, withdrawn := some m, recvEntry := false } ∧
      (∀ e ∈ t.queues, ∀ w ∈ e.2.waiters, w.ctx ≠ c) ∧ t.mem = s.mem

/-- TLB_WALK_COMPLETE: the walk that a parked context awaits first is done and its result kept; a walk whose compare-and-swap finds
another word than the one read is counted in `WALKCNT`.CASFAIL and begun again (R251, R264).
Completes, `exec` answering a next state under the hypotheses of its clause alone: `tlbWalkComplete`. -/
def Obligations.WalkCompletes : Prop :=
  ∀ (s : State) (c : Nat) (req : WalkReq) (rest : List WalkReq), (getCtx s c).park = some (.tlb (req :: rest)) →
    (getCtx s c).walking = true →
    (walkOvertaken s c req = false → ∃ t, exec (.tlbWalkComplete c) s = .next t ∧ (getCtx t c).park = some (.tlb rest) ∧
      (getCtx t c).walks = (getCtx s c).walks ++ [{ req, res := (walkInstall s c req).2 }] ∧
      (getCore t (coreOf c)).walkCnt = ((getCore s (coreOf c)).walkCnt + 1) % 2 ^ 32 ∧
      (getCore t (coreOf c)).casFail = (getCore s (coreOf c)).casFail) ∧
    (walkOvertaken s c req = true → ∃ t, exec (.tlbWalkComplete c) s = .next t ∧ (getCtx t c).park = (getCtx s c).park ∧
      (getCtx t c).walks = (getCtx s c).walks ∧ t.mem = s.mem ∧
      (getCore t (coreOf c)).casFail = ((getCore s (coreOf c)).casFail + 1) % 2 ^ 32)

/-- FENCE_WAIT_END: the hold of a fence ends once its condition is met and not before, for DRAIN once the core's log buffer is empty and its
messages are placed too; nothing else changes (R116, R147, R168).
UDRAIN_WAIT_END: once every operation of the U bank has completed its deliveries are made, its count stands, and the hold ends
(R102); failed words that they overwrite are recorded (R95).
Completes, `exec` answering a next state under the hypotheses of its clause alone: `fenceWaitEnd`, `udrainWaitEnd`. -/
def Obligations.HoldsEnd : Prop :=
  ((∀ (s : State) (c kind : Nat), (getCtx s c).hold = .fence kind → fenceHolds s c kind = true →
    (kind = 3 → (logOf (getCore s (coreOf c)) (partOf s c)) = [] ∧ logsOfCore s (coreOf c) (partOf s c) = false) →
    exec (.fenceWaitEnd c) s = .next (setCtx s c { getCtx s c with hold := .none })) ∧
  ∀ (s : State) (c kind : Nat), (getCtx s c).hold = .fence kind → fenceHolds s c kind = false → exec (.fenceWaitEnd c) s = .next s) ∧
  (∀ (s : State) (c : Nat), (getCtx s c).hold = .udrain → uComplete (getCtx s c) = true →
    exec (.udrainWaitEnd c) s = .next (setCtx (lostFails s c (drainU (getCtx s c))) c { drainU (getCtx s c) with hold := .none }) ∧
      (drainU (getCtx s c)).u.inflight = [] ∧ (drainU (getCtx s c)).u.count = (getCtx s c).u.count ∧
      (drainU (getCtx s c)).s = (getCtx s c).s)

/-- TLBI_RECEIVE and TLBI_ACK (R258 to R260): a core that receives the oldest invalidation it may act on holds no entry that it
names; the last acknowledgement ends the invalidation and, where no other is waited for, the hold of its issuer.
Completes, `exec` answering a next state under the hypotheses of its clause alone: `tlbiReceive`, `tlbiAck`. -/
def Obligations.InvalidationIsReceived : Prop :=
  (∀ (s : State) (k : Nat) (v : Inval),
    (s.invals.find? fun v => unitOn s (.core k) && v.toRemove.contains (.core k) && storesDone s v.ctx v.seq) = some v →
    ∃ t, exec (.tlbiReceive (.core k)) s = .next t ∧ (∀ e ∈ (getCore t k).tlb, invalMatches v e.2 = false) ∧ t.mem = s.mem ∧
      (∀ j, j ≠ k → getCore t j = getCore s j) ∧ (∀ w ∈ t.invals, w.id = v.id → TransUnit.core k ∉ w.toRemove)) ∧
  ∀ (s : State) (u : TransUnit) (v : Inval),
    (s.invals.find? fun v => unitOn s u && !v.toRemove.contains u && v.toAck.contains u && accessesDone s v u) = some v →
    v.toAck = [u] → (getCtx s v.ctx).hold = .tlbsync [v.id] →
    ∃ t, exec (.tlbiAck u) s = .next t ∧ (getCtx t v.ctx).hold = .none ∧ v.id ∉ (getCtx t v.ctx).invOut ∧
      (∀ w ∈ t.invals, w.id ≠ v.id) ∧ t.mem = s.mem ∧ t.cores = s.cores

/-- VALUE_ARRIVAL of an uncached load whose word its home has read: a word that no read barrier concerns lands in the destination
register that still holds the operation's PENDING, and the miss slot frees; every other register is as before (R90, R91, R94, R145).
Completes, `exec` answering a next state under the hypotheses of its clause alone: `valueArrival`. -/
def Obligations.ValueArrives : Prop :=
  ∀ (s : State) (c r pa va : Nat) (weak : Bool) (m : MissOp) (w : Word) (ws : List Word), (getCtx s c).slot = some m →
    m.kind = .uncachedLoad pa va weak → m.dsts = [r] → m.result = some (.words (w :: ws)) → gOf (getCtx s c) r = .pending m.id →
    (getCluster s (clusterOf c)).power = .active → colourMiss (ctxPart s c) (agentOf s c).goodc w = false →
    (getCtx s c).rqWant = false → (getCtx s c).recvWant = false →
    ∃ t, exec (.valueArrival c) s = .next t ∧ gOf (getCtx t c) r = .word w ∧ (getCtx t c).slot = none ∧
      (∀ q, q ≠ r → gOf (getCtx t c) q = gOf (getCtx s c) q) ∧ (getCtx t c).pc = (getCtx s c).pc ∧ t.mem = s.mem ∧
      (∀ d, d ≠ c → getCtx t d = getCtx s d)

/-- STORE_DRAIN of an uncached store: it leaves the head of the core's queue for its word's home, in order, once a
shared miss-tracking entry is free (R22, R144, R217).
HOME_UNCACHED_READ answers its operation with the word at the home, and HOME_UNCACHED_WRITE writes it there; the request leaves the
home's queue (R145, R217).
Completes, `exec` answering a next state under the hypotheses of its clause alone: `storeDrain`, `homeUncachedRead`, `homeUncachedWrite`. -/
def Obligations.UncachedAccessesReachHome : Prop :=
  (∀ (s : State) (core : Nat) (e : StoreEnt) (rest : List StoreEnt), (getCore s core).sq = e :: rest →
    coresOn s (clusterOfCore core) = true → drainBlocked s core e = false → e.typ = 1 → uncAhead s e.ctx = false →
    sharedFree s (clusterOfCore core) = true →
    ∃ t, exec (.storeDrain core) s = .next t ∧ (getCore t core).sq = rest ∧ t.mem = s.mem ∧ t.ctxs = s.ctxs ∧
      ∃ r, t.unc = s.unc ++ [r] ∧ r.kind = .write e.word ∧ r.pa = e.pa % 2 ^ 36) ∧
  ((∀ (s : State) (slice i c op : Nat) (r : UncReq) (m : MissOp), nextUnc s slice true = some (i, r) → r.kind = .read →
    r.who = .ctxOp c op → (getCtx s c).slot = some m → m.id = op →
    ∃ t, exec (.homeUncachedRead slice) s = .next t ∧ t.unc = s.unc.eraseIdx i ∧
      (getCtx t c).slot = some { m with result := some (.words [(homeRead { s with unc := s.unc.eraseIdx i } (r.pa % 2 ^ 36)).1]) } ∧
      (∀ d, d ≠ c → getCtx t d = getCtx s d) ∧
      (lineDirty s (r.pa % 2 ^ 36 / 8) = false → (∀ o, dirOf s (r.pa % 2 ^ 36 / 8) ≠ some (.owned o)) →
        (getCtx t c).slot = some { m with result := some (.words [readWord s (r.pa % 2 ^ 36)]) } ∧ t.mem = s.mem)) ∧
  ∀ (s : State) (slice i b : Nat) (r : UncReq) (w : Word), nextUnc s slice false = some (i, r) → r.kind = .write w → r.mark = none →
    shipWaits s (r.pa % 2 ^ 36 / 8) = false → lineDirty s (r.pa % 2 ^ 36 / 8) = false → windowFills s (r.pa % 2 ^ 36 / 8) = false →
    ∃ t, exec (.homeUncachedWrite slice) s = .next t ∧ t.unc = s.unc.eraseIdx i ∧ t.ctxs = s.ctxs ∧
      readWord t b = if b = r.pa % 2 ^ 36 then w else readWord s b)

/-! ## Routine Engines (R182 to R205) -/

/-- ROUTINE_REQUEST_TAKEN: a free engine of a running cluster takes the next request that it may, a context's or a Collector's: the engine
serves it from a fresh run, the request leaves its queue, and working registers are cleared when the partition changes (R182, R183).
ROUTINE_SEGMENT: a segment of a catalogue routine that meets no fault commits its stores, its progress and, at its end, its results; a
failure that another device answered makes the record FAILED; a request whose results wait for its stores alone completes, and its
record is IDLE (R184, R185, R188, R192, R197).
Completes, `exec` answering a next state under the hypotheses of its clause alone: `routineRequestTaken`, `routineSegment`. -/
def Obligations.EnginesServeRequests : Prop :=
  (∀ (s : State) (cl en src : Nat) (q : RoutineReq), en < 2 → (engineOf s cl en).serving = none → (engineOf s cl en).job = none →
    (engineOf s cl en).stores = [] → engineLines s cl en = 0 → (engineOf s cl en).retired = false →
    (getCluster s cl).power = .active → nextRequest s cl en = some (src, q) →
    ∃ t, exec (.routineRequestTaken cl en) s = .next t ∧
      (engineOf t cl en).serving = (if q.coll.isSome then none else some q.ctx) ∧ (engineOf t cl en).job = q.coll ∧
      (engineOf t cl en).run = 0 ∧ (engineOf t cl en).lastPart = some (reqPart s q) ∧
      ((engineOf s cl en).lastPart ≠ some (reqPart s q) → (engineOf t cl en).e = []) ∧
      (getCluster t src).reqQ = (getCluster s src).reqQ.erase q ∧ t.ctxs = s.ctxs ∧ t.mem = s.mem ∧ t.cores = s.cores) ∧
  (∀ (s : State) (cl en c : Nat), (engineOf s cl en).serving = some c → (engineOf s cl en).job = none → (getCtx s c).rq.state = 1 →
    (s.remotes.any fun q => q.who == .engine cl en) = false → (engineOf s cl en).stores = [] → ctxStoresMade s c = true →
    sharedFree s cl = true →
    (∀ (s2 : State) (g : RtSeg) (st : List SegStore) (ws : Option (List Word)), (getCtx s c).rqFail = none →
      (getCtx s c).rqEnd = none → (engineOf s cl en).micro = none → microSeen s cl = false →
      let s1 := modEngine (drainStores cl en [] s) cl en fun e => { e with heals := [] }
      (rtWork (rtOf s cl en c) []).run s1 = (.ok (g, st, ws), s2) →
      exec (.routineSegment cl en) s = .next (commitSegment s2 (rtOf s cl en c) g st ws)) ∧
    (∀ f : FaultRec, (getCtx s c).rqFail = some f → (getCtx s c).rq.range = none →
      ∃ t, exec (.routineSegment cl en) s = .next t ∧ (getCtx t c).rq.state = 4 ∧ (engineOf t cl en).serving = none ∧ t.mem = s.mem ∧
        (∀ d, d ≠ c → getCtx t d = getCtx s d)) ∧
    ∀ (m : MissOp) (ws : List Word), (getCtx s c).rqFail = none → (getCtx s c).rqEnd = some ws →
      (getCtx s c).slot = some m → m.id = (getCtx s c).rq.op →
      ∃ t, exec (.routineSegment cl en) s = .next t ∧ (getCtx t c).rq.state = 0 ∧
        (getCtx t c).slot = some { m with result := some (.words ws) } ∧ (engineOf t cl en).serving = none ∧ t.mem = s.mem)

/-- ROUTINE_YIELD_COMPLETE and ROUTINE_RESTART_ABANDON complete: the request of a context that has entered leaves its engine and its queue,
its record is SUSPENDED with its committed progress as it stands, and the miss slot is free; a yield completes once the engine that
serves the request stands at a safe point, with no store and no access of its own outstanding (R194).
Completes, `exec` answering a next state under the hypotheses of its clause alone: `routineYieldComplete`, `routineRestartAbandon`. -/
def Obligations.SuspensionFreesSlot : Prop :=
  ∀ (s : State) (c : Nat), slotIsRoutine (getCtx s c) = true → (getCtx s c).rqSuspended = true → (getCtx s c).rqWant = false →
    (getCtx s c).recvWant = false → (getCtx s c).park = none →
    ((getCtx s c).rq.state = 3 → ∃ t, exec (.routineRestartAbandon c) s = .next t ∧ (getCtx t c).slot = none ∧
      (getCtx t c).rq = (getCtx s c).rq ∧ (getCtx t c).g = (getCtx s c).g ∧ t.mem = s.mem ∧
      (∀ d, d ≠ c → getCtx t d = getCtx s d)) ∧
    ((getCtx s c).rq.state = 2 →
      (∀ k ∈ s.clusters, ∀ e ∈ k.2.engines, e.2.serving = some c →
        e.2.stores = [] ∧ atPoll s e.2 = true ∧ ∀ q ∈ s.remotes, q.who ≠ .engine k.1 e.1) →
      ∃ t, exec (.routineYieldComplete c) s = .next t ∧ (getCtx t c).slot = none ∧
        (getCtx t c).rq = { (getCtx s c).rq with state := 3 } ∧ (getCtx t c).g = (getCtx s c).g ∧ t.mem = s.mem ∧
        (∀ d, d ≠ c → getCtx t d = getCtx s d))

/-! ## The Collector (R170 to R179) -/

/-- COLLECTOR_PHASE_ADVANCE completes each phase that has ended here and on every peer (R170, R171, R179): MARK_START with its handshake made
becomes MARK; MARK with its work empty becomes MARK_END; MARK_END, when a flush has yielded nothing and the work is empty, writes LIVE,
ends marking and becomes WEAK_CLEAR; WEAK_CLEAR with no box left ends in SELECT with `WEAKCLR` 0 and rings doorbell bit 48;
RELOCATE_START with its handshake made becomes RELOCATE; RELOCATE with no EVAC region left ends the cycle in IDLE and rings bit 48.
Completes, `exec` answering a next state under the hypotheses of its clause alone: `collectorPhaseAdvance`. -/
def Obligations.CollectorPhaseAdvances : Prop :=
  ∀ (s : State) (p cl : Nat), collCluster s p = some cl → reflPauses s p = false → peersEnded s p = true → sharedFree s cl = true →
    ((getPart s p).phase = 1 → (getPart s p).coll.started = true → (getPart s p).coll.shake = [] →
      ∃ t, exec (.collectorPhaseAdvance p) s = .next t ∧ (getPart t p).phase = 2 ∧ (getPart t p).marking = (getPart s p).marking ∧
        t.mem = s.mem ∧ t.ctxs = s.ctxs) ∧
    ((getPart s p).phase = 2 → markIdle s p = true →
      ∃ t, exec (.collectorPhaseAdvance p) s = .next t ∧ (getPart t p).phase = 3 ∧ (getPart t p).marking = (getPart s p).marking ∧
        t.mem = s.mem ∧ t.ctxs = s.ctxs ∧ ∀ q, q ≠ p → getPart t q = getPart s q) ∧
    ((getPart s p).phase = 3 → (getPart s p).coll.started = true → (getPart s p).coll.shake = [] → markIdle s p = true →
      logsHeld s p = false →
      ∃ t, exec (.collectorPhaseAdvance p) s = .next t ∧ (getPart t p).phase = 4 ∧ (getPart t p).marking = false ∧
        (getPart t p).weakclr = true ∧ t.ctxs = s.ctxs) ∧
    ((getPart s p).phase = 4 → weakLeft s p = false →
      ∃ t, exec (.collectorPhaseAdvance p) s = .next t ∧ (getPart t p).phase = 5 ∧ (getPart t p).weakclr = false ∧
        bit (getPart t p).pdbell 48 = true ∧ t.ctxs = s.ctxs) ∧
    ((getPart s p).phase = 6 → (getPart s p).coll.started = true → (getPart s p).coll.shake = [] →
      ∃ t, exec (.collectorPhaseAdvance p) s = .next t ∧ (getPart t p).phase = 7 ∧ t.mem = s.mem ∧ t.ctxs = s.ctxs) ∧
    ((getPart s p).phase = 7 → evacLeft s (collAgent s p cl) = false → jobsLeft s p = false →
      ∃ t, exec (.collectorPhaseAdvance p) s = .next t ∧ (getPart t p).phase = 0 ∧ bit (getPart t p).pdbell 48 = true ∧
        (getPart t p).status = (if (getPart s p).coll.poison then 6 else (getPart s p).status) ∧
        t.mem = (firstEvac s (collAgent s p cl)).1.mem ∧ t.ctxs = s.ctxs)

/-- COLLECTOR_MARK_WORK: in MARK and MARK_END, at a round of the maintenance port, the Collector takes its oldest grey object and scans it; a
logged message's words are marked and the message leaves the snapshot queue (R169, R171, R235); while the weak queue is full it waits
(R172); outside these phases nothing happens.
Completes, `exec` answering a next state under the hypotheses of its clause alone: `collectorMarkWork`. -/
def Obligations.CollectorMarks : Prop :=
  (∀ (s : State) (p cl : Nat), collCluster s p = some cl → reflPauses s p = false →
    (getPart s p).phase = 2 ∨ (getPart s p).phase = 3 →
    let s1 := portRound s cl false
    ((getPart s p).coll.weakFull = true → exec (.collectorMarkWork p) s = .next s1) ∧
    ((getPart s p).coll.weakFull = false → sharedFree s cl = true →
    (∀ (w : Word) (rest : List Word), (getPart s p).coll.markQ = w :: rest →
      exec (.collectorMarkWork p) s = .next (endTrace p (scanObject
        (modColl s1 p fun k => { k with markQ := rest, held := false }) (collAgent s1 p cl) w))) ∧
    ((getPart s p).coll.markQ = [] → (getPart s p).coll.rootsDone = true → (getPart s p).coll.cardsDone = true →
      ∀ (qn : Nat) (ws : List Word), hwHead s (bits (getPart s p).satbq 19 0) = some (qn, ws) →
      exec (.collectorMarkWork p) s = .next (ws.foldl (fun t w => markLogged t (collAgent s1 p cl) w) (dequeue s1 qn))))) ∧
  ∀ (s : State) (p : Nat), (getPart s p).phase ≠ 2 → (getPart s p).phase ≠ 3 → exec (.collectorMarkWork p) s = .next s

/-- WEAK_BOX_VISIT completes: in WEAK_CLEAR, at a round of the maintenance port, the oldest box leaves the weak queue and its body word 0 is
resolved under the weak rule, through the box's FORWARD where it has moved; a word that is no pointer only leaves the queue (R173, R235).
COLLECTOR_EVACUATION in RELOCATE: an EVAC region with no live object left becomes RELOCATED; an object whose first word is POISON
pins its region and STATUS will be POISON; an object that is FORWARD already is passed over (R174, R175).
Completes, `exec` answering a next state under the hypotheses of its clause alone: `weakBoxVisit`, `collectorEvacuation`. -/
def Obligations.CollectorEvacuates : Prop :=
  (∀ (s : State) (p cl : Nat), collCluster s p = some cl → reflPauses s p = false →
    rangePending s cl = false ∨ (getCluster s cl).rangeWon = true → (getPart s p).phase = phWEAK_CLEAR → sharedFree s cl = true →
    ∀ (qn : Nat) (ws : List Word), hwHead s (bits (getPart s p).weakq 19 0) = some (qn, ws) →
    let s1 := portRound s cl false
    let box := (ws[0]?).getD Word.zero
    let first := agLook (dequeue s1 qn) (collAgent s1 p cl) (ptrAddr box)
    (isPointer (getPart s p) box = false → exec (.weakBoxVisit p) s = .next (dequeue s1 qn)) ∧
    (isPointer (getPart s p) box = true →
      let r := traceSlot first.1 (collAgent s1 p cl) ((if first.2.tag = tagFORWARD then ptrAddr first.2 else ptrAddr box) + 1) true
      r.2 ≠ .wait → exec (.weakBoxVisit p) s = .next r.1)) ∧
  (∀ (s s2 s3 : State) (p cl r gen : Nat), collCluster s p = some cl → reflPauses s p = false →
    rangePending s cl = false ∨ (getCluster s cl).rangeWon = true → (getPart s p).phase = phRELOCATE → sharedFree s cl = true →
    let s1 := portRound s cl false
    let g := collAgent s1 p cl
    firstEvac s1 g = (s2, some (r, gen)) → (getPart s p).coll.region ≠ r + 1 →
    (nextLive s2 g r 0 = (s3, none) →
      exec (.collectorEvacuation p) s =
        .next (modColl (setRegion s3 g r rRELOCATED gen) p fun k => { k with region := 0, unit := 0 })) ∧
    (∀ a size, nextLive s2 g r 0 = (s3, some (a, size)) → (agLook s3 g a).2.tag = tagPOISON →
      exec (.collectorEvacuation p) s =
        .next (modColl (pinRegion (agLook s3 g a).1 g r gen) p fun k => { k with region := 0, unit := 0 })) ∧
    (∀ a size, nextLive s2 g r 0 = (s3, some (a, size)) → (agLook s3 g a).2.tag = tagFORWARD →
      exec (.collectorEvacuation p) s = .next (modColl (agLook s3 g a).1 p fun k =>
        { k with region := r + 1, unit := (a - ((getPart s p).heapbase.toNat + r * regionWords)) / 2 + 1 })))

/-! ## Range operations (R230 to R236) -/

/-- RANGE_OPERATION_RUN: an operation whose whole range is done leaves its cluster's queue and its completion [COOKIE, status 0, words
done, -1] is sent to its queue (R233, R234); one whose next line is local memory and waits for nothing does that line; a ZERO of a whole
line of local memory leaves FIX 0 in its eight words (R230).
RANGE_COMPLETION_RETRY sends the oldest completion held again.
Completes, `exec` answering a next state under the hypotheses of its clause alone: `rangeOperationRun`, `rangeCompletionRetry`. -/
def Obligations.RangeOperationRuns : Prop :=
  (∀ (s : State) (cl : Nat) (r : RangeOp) (rest : List RangeOp), (getCluster s cl).rangeQ = r :: rest →
    rangeOwing s cl < 8 → storesDone s r.ctx r.seq = true → reflPauses s r.part = false → r.done ≠ 0 →
    min r.len (2 ^ 48 - r.base) ≤ r.done → r.lockFull = false →
    exec (.rangeOperationRun cl) s = .next (sendHw (modCluster s cl fun k => { k with rangeQ := k.rangeQ.drop 1 }) (.rangeDone cl)
      r.part r.qid [Word.fixN r.cookie, Word.fixN 0, Word.fixN r.done, Word.fix (BitVec.ofInt 64 (-1))])) ∧
  (∀ (s s1 : State) (cl pa : Nat) (r : RangeOp) (rest : List RangeOp), (getCluster s cl).rangeQ = r :: rest →
    rangeOwing s cl < 8 → storesDone s r.ctx r.seq = true → reflPauses s r.part = false → r.done ≠ 0 ∨ zeroRefused s r = false →
    collWins s cl = false → rangeXlate s cl r (r.base + r.done) = (s1, some (pa, 0)) →
    rangeWaits s1 cl r.op (pa % 2 ^ 36 / 8) = false →
    let n := min (8 - (r.base + r.done) % 8) (min r.len (2 ^ 48 - r.base) - r.done)
    let q := rangeLine (portRound s1 cl true) cl r.op pa n (r.done == 0 || (r.base + r.done) % 32 == 0)
    r.done + n < min r.len (2 ^ 48 - r.base) → exec (.rangeOperationRun cl) s = .next (modCluster q.1 cl fun k =>
      { k with rangeQ := { r with done := r.done + n, lockFull := r.lockFull || !q.2 } :: rest })) ∧
  (∀ (s : State) (cl pa i : Nat) (first : Bool), pa < 2 ^ 36 → pa % 8 = 0 → i < 8 → windowFills s (pa / 8) = false →
    (rangeLine s cl 4 pa 8 first).2 = true ∧ readWord (rangeLine s cl 4 pa 8 first).1 (pa + i) = Word.zero ∧
      (rangeLine s cl 4 pa 8 first).1.ctxs = s.ctxs) ∧
  ∀ (s : State) (cl : Nat) (d : RangeDone) (rest : List RangeDone), (getCluster s cl).rangeHeld = d :: rest →
    exec (.rangeCompletionRetry cl) s =
      .next (sendHw (modCluster s cl fun k => { k with rangeHeld := rest }) (.rangeDone cl) d.part d.qid d.words)

/-! ## Caches and home slices (R206 to R223) -/

/-- L1D_FILL of a scratchpad line whose sector the L1D holds: the sub-block is valid, clean and holds the line's current words, and the
wait for it ends (R208, R210, R228).
L1D_EVICTION_WRITE: the oldest dirty victim of a DRAM line reaches the L2 in M with its data, and its entry is marked written
(R215, R219); with nothing to write the buffer empties.
Completes, `exec` answering a next state under the hypotheses of its clause alone: `l1dFill`, `l1dEvictionWrite`. -/
def Obligations.CachesFillAndEvict : Prop :=
  (∀ (s : State) (core line i : Nat) (f : FillReq), (getCore s core).fills = [f] → f.line = line → f.why = .demand →
    dramLine s line = false → l1Slot? (getCore s core) line = some i → l1Has (getCore s core) line = false →
    dirtyL1 s line = none → lostSource s line = none → (getCore s core).evict = [] → (getCluster s (clusterOfCore core)).nsp = false →
    ∃ t, exec (.l1dFill core line) s = .next t ∧
      l1Sub? (getCore t core) line = some { v := true, d := false, data := currentLine s line } ∧ (getCore t core).fills = [] ∧
      t.mem = s.mem ∧ t.ctxs = s.ctxs) ∧
  ((∀ (s : State) (core : Nat) (v : EvictEnt), ((getCore s core).evict.find? fun e => !e.written) = some v → dramLine s v.line = true →
    exec (.l1dEvictionWrite core) s = .next (modCluster (setCore s core { getCore s core with
        evict := ((getCore s core).evict.filter fun e => !e.written).map fun e => if e.line = v.line then { e with written := true } else e })
      (clusterOfCore core) fun x =>
        dropPresence (modL2Sub x v.line fun b => { b with st := .m, data := v.data, w := false }) core v.line)) ∧
  ∀ (s : State) (core : Nat), ((getCore s core).evict.find? fun e => !e.written) = none →
    exec (.l1dEvictionWrite core) s = .next (setCore s core { getCore s core with evict := [] }))

/-- HOME_READ: a line that nobody holds is granted in E and the directory names its owner; a shared one gains a sharer; an owned one
becomes shared by the old owner and the requester; memory is as before where the line's slice has room for its entry (R216).
HOME_READ_FOR_OWNERSHIP, HOME_UPGRADE and HOME_CLAIM leave the requester as the line's only owner; a claim takes the eight stores
that fill the line from the head of its core's queue (R211, R216).
Completes, `exec` answering a next state under the hypotheses of its clause alone: `homeRead`, `homeReadForOwnership`, `homeUpgrade`, `homeClaim`. -/
def Obligations.HomeGrantsLines : Prop :=
  (∀ (s : State) (c line : Nat), l2Misses s c line = true → wantsLine s c line false = true →
    (dirOf s line = none → ∃ t, exec (.homeRead c line) s = .next t ∧ dirOf t line = some (.owned c) ∧ t.ctxs = s.ctxs ∧
      ((s.dir.filter fun e => e.1 != line && homeOf s e.1 == homeOf s line).length < 16 → t.mem = s.mem)) ∧
    (∀ cs, dirOf s line = some (.shared cs) → c ∉ cs →
      ∃ t, exec (.homeRead c line) s = .next t ∧ dirOf t line = some (.shared (cs ++ [c])) ∧ t.mem = s.mem ∧ t.ctxs = s.ctxs) ∧
    (∀ o, dirOf s line = some (.owned o) → o ≠ c →
      ∃ t, exec (.homeRead c line) s = .next t ∧ dirOf t line = some (.shared [o, c]) ∧ t.ctxs = s.ctxs)) ∧
  ((∀ (s : State) (c line : Nat), l2Misses s c line = true → wantsLine s c line true = true →
    ∃ t, exec (.homeReadForOwnership c line) s = .next t ∧ dirOf t line = some (.owned c) ∧ t.ctxs = s.ctxs) ∧
  (∀ (s : State) (c line : Nat), homeOn s line = true → dramLine s line = true → (l2Sub (getCluster s c) line).st = .s →
    wbOf s c line = none → wbRoom s c = true → wantsLine s c line true = true → c ∈ DirEnt.holders (dirOf s line) →
    ∃ t, exec (.homeUpgrade c line) s = .next t ∧ dirOf t line = some (.owned c) ∧ t.mem = s.mem ∧ t.ctxs = s.ctxs) ∧
  ∀ (s : State) (c line k : Nat) (ws : List Word), homeOn s line = true → dramLine s line = true →
    (l2Sub (getCluster s c) line).st = .i ∨ (l2Sub (getCluster s c) line).st = .s → wbRoom s c = true → wbOf s c line = none →
    ((coresOf c).findSome? fun k => (claimWords (getCore s k) line).map fun ws => (k, ws)) = some (k, ws) →
    ∃ t, exec (.homeClaim c line) s = .next t ∧ dirOf t line = some (.owned c) ∧ t.ctxs = s.ctxs ∧
      (∀ f ∈ (getCore t k).fills, f.line = line → f.why = .fetch) ∧
      ((getCore s k).evict = [] → (s.dir.filter fun e => e.1 != line && homeOf s e.1 == homeOf s line).length < 16 → t.mem = s.mem))

/-- HOME_WRITEBACK of the owner writes the line's eight words to memory and leaves it UNCACHED; KEEP_NOTICE makes the cluster a sharer
again; HOME_CLEAN_EVICTION takes a cluster off the list of sharers; CLUSTER_RECALL for eviction flushes the line and reports it, the cluster
whose request needed the directory entry being free (R216, R220, R221; log entry 7).
Completes, `exec` answering a next state under the hypotheses of its clause alone: `homeWriteback`, `homeCleanEviction`, `keepNotice`,
`clusterRecall`. -/
def Obligations.HomeTakesLinesBack : Prop :=
  (∀ (s : State) (c line i : Nat) (w : WbEnt), ((getCluster s c).wb.find? fun e => e.line == line && !e.answered) = some w →
    w.sent = false → w.data.length = 8 → dirOf s line = some (.owned c) → shipWaits s line = false → i < 8 →
    ∃ t, exec (.homeWriteback c line) s = .next t ∧ readWord t (line * 8 + i) = (w.data[i]?).getD Word.zero ∧ dirOf t line = none ∧
      (∀ e ∈ (getCluster t c).wb, e.line ≠ line) ∧ t.ctxs = s.ctxs) ∧
  (∀ (s : State) (c line : Nat) (w : WbEnt) (cs : List Nat), ((getCluster s c).wb.find? fun e => e.line == line && e.answered) = some w →
    dirOf s line = some (.shared cs) → c ∉ cs →
    ∃ t, exec (.keepNotice c line) s = .next t ∧ dirOf t line = some (.shared (cs ++ [c])) ∧
      (∀ e ∈ (getCluster t c).wb, e.line ≠ line) ∧ t.mem = s.mem ∧ t.cores = s.cores) ∧
  (∀ (s : State) (c line : Nat) (cs : List Nat), (l2Sub (getCluster s c) line).st = .i → wbOf s c line = none →
    (getCluster s c).lost.contains line = false → dirOf s line = some (.shared cs) →
    exec (.homeCleanEviction c line) s = .next (setDir s line (cs.filter (· != c)))) ∧
  ∀ (s : State) (c line : Nat), (DirEnt.holders (dirOf s line)).contains c = true →
    exec (.clusterRecall c line true) s =
      .next (report (flushLine (drawNat s).2 line) 0x2005 (.cluster (homeOf s line)) [BitVec.ofNat 64 (line * 8)]
        (some (.cluster ((drawNat s).1 % s.part.clusters))))

/-! ## Queues (R289 to R311) -/

/-- QUEUE_RECEIVE_REQUEST, once a shared miss-tracking entry of the queue's home is free (R289): -1 where the queue is disabled, -2 where its
binding does not admit the context, NONE admitting nobody, the message at the head, which leaves the ring, where there is one, 0 for a poll of an empty queue, -3 when 64 contexts wait already,
and otherwise a place on the queue's list (R293, R299, R300).
Completes, `exec` answering a next state under the hypotheses of its clause alone: `queueReceiveRequest`. -/
def Obligations.ReceiveIsAnswered : Prop :=
  ∀ (s : State) (c q : Nat) (wait : Bool) (m : MissOp), (getCtx s c).slot = some m → m.kind = .recv q wait → m.result = none →
    ((getQ s q).waiters.any fun w => w.ctx == c && w.op == m.id) = false →
    ringFree s q = true →
    ((getQ s q).enabled = false → exec (.queueReceiveRequest c) s = .next (setResult s c m.id (recvAnswer (-1) wait))) ∧
    ((getQ s q).enabled = true → mayReceive s q c = false →
      exec (.queueReceiveRequest c) s = .next (setResult s c m.id (recvAnswer (-2) wait))) ∧
    ((getQ s q).enabled = true → mayReceive s q c = true →
      ((getQ s q).occ ≠ 0 →
        exec (.queueReceiveRequest c) s = .next (setResult (dequeue s q) c m.id (.words (recvWords (ringHead s q))))) ∧
      ((getQ s q).occ = 0 → wait = false → exec (.queueReceiveRequest c) s = .next (setResult s c m.id (recvAnswer 0 false))) ∧
      ((getQ s q).occ = 0 → wait = true → 64 ≤ (getQ s q).waiters.length →
        exec (.queueReceiveRequest c) s = .next (setResult s c m.id (recvAnswer (-3) true))) ∧
      ((getQ s q).occ = 0 → wait = true → (getQ s q).waiters.length < 64 →
        exec (.queueReceiveRequest c) s =
          .next (setQ s q { getQ s q with waiters := (getQ s q).waiters ++ [{ ctx := c, op := m.id }] })))

/-- MESSAGE_RELEASE: a message to a queue of this device departs once its context's earlier stores are visible, and its outbox entry
is marked sent (R295, R298).
QUEUE_MESSAGE_ARRIVAL: the oldest message of a source is judged at its home; one that is admitted is written into the ring with
its header and TAIL, and a context's message that is not admitted is bounced to the `MQBOUNCE` queue of its partition with its
status (R296, R297).
A message written into a ring of eight-word slots at an aligned base with room: its words, its header and TAIL (R290, R291).
Completes, `exec` answering a next state under the hypotheses of its clause alone: `messageRelease`, `queueMessageArrival`. -/
def Obligations.MessagesAreReleasedAndJudged : Prop :=
  (∀ (s : State) (src : MsgFrom) (i : Nat) (o : OutEnt), releasable s src = some (i, o) → outputsHeld s o.msg.part = false →
    o.msg.qid / 65536 = s.dev → o.msg.sun = false →
    ∃ t, exec (.messageRelease src) s = .next t ∧ t.msgs = s.msgs ++ [o.msg] ∧ t.outbox = s.outbox.set i { o with sent := true } ∧
      t.queues = s.queues ∧ t.mem = s.mem ∧ t.ctxs = s.ctxs) ∧
  (((∀ (s : State) (m : Msg) (rest : List Msg), s.msgs = m :: rest → m.src = .host → m.kind = .host →
    (∀ n ∈ m :: rest, n.sun = false) → m.qid / 65536 = s.dev → s.outbox = [] → ringFree s (m.qid % 65536) = true →
    (getCluster s (queueHome s (m.qid % 65536))).power ≠ .off → judge { s with msgs := rest } m = none →
    exec (.queueMessageArrival .host none) s =
      .next (acceptMsg (logArrival { s with msgs := rest } (m.qid % 65536) m.words) m)) ∧
  (∀ (s : State) (m : Msg) (rest : List Msg) (st : Nat), s.msgs = m :: rest → m.src = .host → m.kind = .host →
    (∀ n ∈ m :: rest, n.sun = false) → m.qid / 65536 = s.dev → s.outbox = [] → ringFree s (m.qid % 65536) = true →
    (getCluster s (queueHome s (m.qid % 65536))).power ≠ .off → judge { s with msgs := rest } m = some st →
    exec (.queueMessageArrival .host none) s = .next (bounce { s with msgs := rest } m st)) ∧
  ∀ (s : State) (m : Msg), (getQ s (m.qid % 65536)).enabled = false → m.sun = false → m.srcDev = s.dev →
    judge s m = some stNOT_BOUND) ∧
  (∀ (s : State) (q : Nat) (m : Msg), (getQ s q).wmen = false →
    ringThere s (getQ s q) ((getQ s q).slotAt (getQ s q).tail) = true →
    windowFills s ((getQ s q).slotAt (getQ s q).tail / 8) = false →
    let t := ringWrite s q m
    (getQ t q).tail = ((getQ s q).tail + 1) % 2 ^ 32 ∧ (getQ t q).head = (getQ s q).head ∧
      readWord t ((getQ s q).slotAt (getQ s q).tail) = msgHeader m (getQ s q).tail ∧ t.ctxs = s.ctxs ∧
      (∀ p, p ≠ q → getQ t p = getQ s p)))


/-! ## The Broif (R313 to R347) -/

/-- PORT_TRAINING, TRAINING_STEP_TIMEOUT and TRAIN_FLIT (R320, R324, R325, R35): step 1 ends with the lanes in service that passed, step 2 with
those of them that aligned, three at least, each lane excluded being charged; step 3 ends with the peer's DONE, once this side has received an ECHO and
sent its own, and then the port is held for wrong wiring or a wrong part, or goes on to step 5, whose end brings it UP (or into use by Reflection)
with every credit. A step over its limit ends the attempt with what the port still carried (R342), and the eighth within 1 s holds the
port down for NO_TRAIN. A TRAIN flit of step 3 shows the peer's number, part and port, and an ECHO is noted; on a port in use it is a
violation.
Completes, `exec` answering a next state under the hypotheses of its clause alone: `portTraining`, `trainingStepTimeout`, `trainFlit`. -/
def Obligations.PortTrains : Prop :=
  (∀ (s : State) (port lanes a b c : Nat) (v : W64), (getPort s port).st = 1 → s.dbg.extest = false →
    ((getPort s port).step = 1 → ∃ t, exec (.portTraining port lanes v a b c) s = .next t ∧ (getPort t port).st = 1 ∧ (getPort t port).step = 2 ∧
      (getPort t port).active = alignedLanes (getPort s port) lanes ∧ (getPort t port).stepTime = s.time ∧
      (∀ q, q ≠ port → getPort t q = getPort s q) ∧ t.mem = s.mem ∧ t.ctxs = s.ctxs) ∧
    ((getPort s port).step = 2 → 3 ≤ laneCount (Nat.land (getPort s port).active (lanes % 16)) →
      ∃ t, exec (.portTraining port lanes v a b c) s = .next t ∧ (getPort t port).st = 1 ∧ (getPort t port).step = 3 ∧
      (getPort t port).active = Nat.land (getPort s port).active (lanes % 16) ∧ (getPort t port).stepTime = s.time ∧
      (getPort t port).doneSent = false ∧ (∀ q, q ≠ port → getPort t q = getPort s q) ∧ t.mem = s.mem ∧ t.ctxs = s.ctxs) ∧
    ((getPort s port).step = 2 → laneCount (Nat.land (getPort s port).active (lanes % 16)) < 3 →
      exec (.portTraining port lanes v a b c) s = .next (attemptFailed (modPort (chargeMissing s port (getPort s port).active lanes) port fun q =>
        { q with active := Nat.land (getPort s port).active (lanes % 16), offered := false, echoSent := false, echoHeard := false
                 doneSent := false }) port)) ∧
    ((getPort s port).step = 3 → (getPort s port).doneSent = false ∨ bits v 63 60 ≠ 2 → exec (.portTraining port lanes v a b c) s = .next s) ∧
    ((getPort s port).step = 3 → (getPort s port).doneSent = true → bits v 63 60 = 2 → isReflPort s port = false →
      let heard := modPort s port fun q => { q with
        offered := true, trainEcho := a, trainHeard := s.time, peerDev := bits v 59 56, peerPart := bits v 55 48, peerPort := bits v 47 44 }
      (bits v 59 56 ≠ port ∨ bits v 47 44 ≠ s.dev → exec (.portTraining port lanes v a b c) s = .next (holdPort heard port 1)) ∧
      (bits v 59 56 = port → bits v 47 44 = s.dev → bits v 55 48 ≠ partCode s.part →
        exec (.portTraining port lanes v a b c) s = .next (holdPort heard port 2)) ∧
      (bits v 59 56 = port → bits v 47 44 = s.dev → bits v 55 48 = partCode s.part →
        exec (.portTraining port lanes v a b c) s = .next (modPort heard port fun q => { q with step := 5, stepTime := s.time }))) ∧
    ((getPort s port).step = 5 →
      let up (st : Nat) : State := modPort s port fun q => { q with
        st, step := 0, credits := fullCredits, attempts := [], ackTime := s.time, sinceCtrl := 16
        resend := q.replay, uncredited := q.replay.length, faultLane := none }
      (isReflPort s port = false → exec (.portTraining port lanes v a b c) s = .next (portUp (up 2) (getPort s port).peerDev)) ∧
      (isReflPort s port = true → exec (.portTraining port lanes v a b c) s = .next (up 5)))) ∧
  (∀ (s : State) (port : Nat), (getPort s port).st = 1 → (getPort s port).stepTime + stepLimit (getPort s port).step ≤ s.time →
    ((getPort s port).step = 3 ∨ (getPort s port).step = 5 → exec (.trainingStepTimeout port) s = .next (attemptFailed s port)) ∧
    ((getPort s port).step = 1 →
      exec (.trainingStepTimeout port) s = .next (attemptFailed (chargeMissing s port (15 - (getPort s port).retired % 16) 0) port)) ∧
    ((getPort s port).step = 2 →
      exec (.trainingStepTimeout port) s = .next (attemptFailed (chargeMissing s port (getPort s port).active 0) port))) ∧
  ([1, 2, 3, 5].map stepLimit = [1000000, 200000, 50000, 10000]) ∧
  (∀ (s : State) (port : Nat) (v : W64) (a b c : Nat), (getPort s port).st = 1 → (getPort s port).step = 3 →
    (bits v 63 60 = 0 ∨ bits v 63 60 = 2 → exec (.trainFlit port v a b c) s = .next (modPort s port fun q => { q with
      offered := true, trainEcho := a, trainHeard := s.time, peerDev := bits v 59 56, peerPart := bits v 55 48, peerPort := bits v 47 44 })) ∧
    (bits v 63 60 = 1 → ∃ t, exec (.trainFlit port v a b c) s = .next t ∧ (getPort t port).echoHeard = true ∧
      (getPort t port).trainEcho = a ∧ (getPort t port).peerDev = bits v 59 56 ∧ (getPort t port).step = 3 ∧
      (∀ q, q ≠ port → getPort t q = getPort s q) ∧ t.mem = s.mem ∧ t.ctxs = s.ctxs)) ∧
  (∀ (s : State) (port : Nat) (v : W64) (a b c : Nat), (getPort s port).st = 2 →
    exec (.trainFlit port v a b c) s = .next (countViolation s port 4)) ∧
  ∀ (s : State) (port : Nat),
    let s1 := dropTraffic s port
    let recent := ((getPort s1 port).attempts ++ [s1.time]).filter fun t => decide (s1.time < t + 1000000000)
    (recent.length < 8 → (getPort (attemptFailed s port) port).st = 1 ∧ (getPort (attemptFailed s port) port).attempts = recent ∧
      (getPort (attemptFailed s port) port).step = 1 ∧ (attemptFailed s port).reports = s1.reports) ∧
    (8 ≤ recent.length → (getPort (attemptFailed s port) port).st = 3 ∧ (getPort (attemptFailed s port) port).reason = 4)

/-- LINK_CTRL_ACK, LINK_CTRL_REPLAY, LINK_CTRL_CREDIT, LINK_CTRL_RETRAIN, LINK_ACK_SEND and FLIT_ERROR on a port in use (R316, R319,
R323): flits up to the one acknowledged leave the replay buffer, the named flit and all after it are sent again (sixteen replays of one
fail the link), credits come back up to the buffer, a lane is charged and the port retrains, the newest flit received and the freed
credits are acknowledged in one flit, and a flit in error asks for a replay and begins the discarding.
A withdrawal of a peer whose path that acknowledgement empties is acknowledged with it (R25), and one whose path is still busy waits.
LINK_UNACK_TIMEOUT, LINK_FAILURE and FLIT_VIOLATION (R323, R342, R345): a full replay buffer unacknowledged for 10 µs fails the link
with cause 2, and a younger one does nothing; LINK_FAILURE fails a link with its cause, and nothing where no link is up; a violation counts in
`BPVIOL`, its flit received in order, a flit out of order being discarded; the kind of an item of a reserved LINK_CTRL number is free (the
model's choice, log entry 23).
Completes, `exec` answering a next state under the hypotheses of its clause alone: `linkCtrlAck`, `linkCtrlReplay`, `linkCtrlCredit`,
`linkCtrlRetrain`, `linkAckSend`, `flitError`, `linkUnackTimeout`, `flitViolation`, `linkFailure`. -/
def Obligations.LinkLayerRuns : Prop :=
  ((∀ (s : State) (port seq i : Nat), linkRuns s port = true →
    ((List.range (getPort s port).replay.length).find? fun i => ((getPort s port).replay[i]?.map Flit.seq) == some seq) = some i →
    (∃ t, exec (.linkCtrlAck port seq) s = .next (settleWithdraw t) ∧ (getPort t port).replay = (getPort s port).replay.drop (i + 1) ∧
      (getPort t port).replayCount = 0 ∧ (getPort t port).st = (getPort s port).st ∧ (∀ p, p ≠ port → getPort t p = getPort s p) ∧
      t.reports = s.reports ∧ t.ctxs = s.ctxs ∧ t.mem = s.mem ∧ t.withdrawn = s.withdrawn) ∧
    ((getPort s port).replayCount = 0 ∨ (getPort s port).replaySeq ≠ seq →
      exec (.linkCtrlReplay port seq) s = .next (modPort s port fun q => { q with
        resend := q.replay.drop i, replaySeq := seq, replayCount := 1 })) ∧
    ((getPort s port).replayCount = 15 → (getPort s port).replaySeq = seq →
      exec (.linkCtrlReplay port seq) s = .next (linkFail (modPort s port fun q => { q with
        resend := q.replay.drop i, replaySeq := seq, replayCount := 16 }) port 2))) ∧
  (∀ (s : State) (port vc n : Nat), linkRuns s port = true →
    (vc < 6 → ∃ t, exec (.linkCtrlCredit port vc n) s = .next t ∧
      tget 0 (getPort t port).credits vc = min (tget 0 fullCredits vc) (tget 0 (getPort s port).credits vc + n) ∧
      (∀ v, v ≠ vc → tget 0 (getPort t port).credits v = tget 0 (getPort s port).credits v) ∧
      (∀ p, p ≠ port → getPort t p = getPort s p) ∧ t.reports = s.reports ∧ t.ctxs = s.ctxs ∧ t.mem = s.mem) ∧
    (6 ≤ vc → exec (.linkCtrlCredit port vc n) s = .next (countViolation s port 1))) ∧
  (∀ (s : State) (port lane : Nat), linkRuns s port = true → lane < 4 →
    exec (.linkCtrlRetrain port lane) s = .next (retrainPort (chargeLane s port lane) port) ∧
      (getPort (retrainPort (chargeLane s port lane) port) port).st = 1 ∧
      (getPort (retrainPort (chargeLane s port lane) port) port).lastLane = lane ∧
      (getPort (retrainPort (chargeLane s port lane) port) port).replay = (getPort s port).replay) ∧
  (∀ (s : State) (port : Nat), linkRuns s port = true → (getPort s port).rxSince ≠ 0 →
    exec (.linkAckSend port) s = .next (sendFlit
      (modPort s port fun q => { q with rxSince := 0, freed := [] }) port
      (linkCtrlFlit (⟨tagRAW, field 1 60 ||| field (((getPort s port).rxSeq + 511) % 512) 0⟩ :: creditItems (getPort s port))))) ∧
  (∀ (s : State) (port lane : Nat), linkRuns s port = true → (getPort s port).discarding = false ∨ replayAsked (getPort s port) = false →
    ∃ t, exec (.flitError port lane) s = .next t ∧ (getPort t port).discarding = true ∧
      (getPort t port).waiting = (getPort s port).waiting ++ [linkCtrlFlit [⟨tagRAW, field 2 60 ||| field (getPort s port).rxSeq 0⟩]] ∧
      (∀ p, p ≠ port → getPort t p = getPort s p) ∧ t.ctxs = s.ctxs ∧ t.mem = s.mem) ∧
  ∀ (s : State) (port lane : Nat), linkRuns s port = true → (getPort s port).discarding = true →
    replayAsked (getPort s port) = true → exec (.flitError port lane) s = .next s) ∧
  ((∀ (s : State) (port : Nat), linkRuns s port = true → 511 ≤ (getPort s port).replay.length →
    (getPort s port).ackTime + 10000 ≤ s.time → exec (.linkUnackTimeout port) s = .next (linkFail s port 2)) ∧
  (∀ (s : State) (port : Nat), (getPort s port).replay.length < 511 ∨ s.time < (getPort s port).ackTime + 10000 →
    exec (.linkUnackTimeout port) s = .next s) ∧
  (∀ (s : State) (port cause : Nat), 1 ≤ cause → cause ≤ 6 → exec (.linkFailure port cause) s = .next (linkFail s port cause)) ∧
  (∀ (s : State) (port kind : Nat) (x : XPort), linkOpen s port = true → inSeq s port x.seq = true → 1 ≤ kind → kind ≤ 9 →
    exec (.flitViolation port kind x none) s = .next (countViolation (modPort s port fun p => { p with
      rxSeq := (p.rxSeq + 1) % 512, rxSince := p.rxSince + 1, discarding := false, openItems := (0, 0) }) port kind)) ∧
  (∀ (s : State) (port kind : Nat) (x : XPort), linkOpen s port = true → inSeq s port x.seq = false → 1 ≤ kind →
    exec (.flitViolation port kind x none) s = .next s) ∧
  (∀ (s : State) (port : Nat) (x : XPort), linkOpen s port = true →
    exec (.flitViolation port 0 x none) s = .next (countViolation (drawNat s).2 port ((drawNat s).1 % 9 + 1))) ∧
  (∀ (s : State) (port kind : Nat), (getPort s port).violTimes = [] → 1 < (threshOf s 6).1 →
    (getPort (countViolation s port kind) port).viol =
      (if (getPort s port).viol = 0xFFFFFFFF then 0xFFFFFFFF else (getPort s port).viol + 1) ∧
    (getPort (countViolation s port kind) port).st = (getPort s port).st) ∧
  (∀ (s : State) (port cause : Nat), (getPort s port).st ≠ 2 → (getPort s port).st ≠ 5 → linkFail s port cause = s)) ∧
  ∀ s : State, (settleWithdraw s).withdrawn = s.withdrawn.filter (pathBusy s) ∧ (settleWithdraw s).ctxs = s.ctxs ∧
    (settleWithdraw s).mem = s.mem ∧ (settleWithdraw s).reports = s.reports ∧ (settleWithdraw s).remotes = s.remotes ∧
    ∀ p, (getPort (settleWithdraw s) p).replay = (getPort s p).replay ∧ (getPort (settleWithdraw s) p).st = (getPort s p).st

/-- FLIT_SLOT (R316, R319, R320, R323): what a failure or a retraining leaves to be sent goes first, then a control flit of the link, then the
flits of a replay, each with a credit once the port has retrained, then the next flit whose channel holds a credit, which takes the port's
sequence number, a credit and a place in the replay buffer; a full replay buffer, or nothing to send, sends IDLE. A port in step 3 of its
training sends the TRAIN exchange. Other ports, memory and contexts are as before.
Completes, `exec` answering a next state under the hypotheses of its clause alone: `flitSlot`. -/
def Obligations.FlitSlotSends : Prop :=
  (∀ (s : State) (port : Nat) (f : Flit) (rest : List Flit), (getPort s port).parting = f :: rest →
    ∃ t, exec (.flitSlot port) s = .next t ∧ (getPort t port).wire = some f ∧ (getPort t port).parting = rest ∧
      (getPort t port).st = (getPort s port).st ∧ (∀ p, p ≠ port → getPort t p = getPort s p) ∧ t.mem = s.mem ∧ t.ctxs = s.ctxs) ∧
  (∀ (s : State) (port : Nat), (getPort s port).parting = [] → (getPort s port).st = 1 → (getPort s port).step = 3 →
    ∃ t, exec (.flitSlot port) s = .next t ∧ (getPort t port).wire = some (trainOut s port (getPort s port)) ∧
      (getPort t port).echoSent = ((getPort s port).echoSent || (getPort s port).offered) ∧
      (getPort t port).doneSent = ((getPort s port).doneSent || ((getPort s port).echoSent && (getPort s port).echoHeard)) ∧
      (∀ p, p ≠ port → getPort t p = getPort s p) ∧ t.mem = s.mem ∧ t.ctxs = s.ctxs) ∧
  ∀ (s : State) (port : Nat), (getPort s port).parting = [] → (getPort s port).st = 2 →
    (∀ f, ((getPort s port).waiting.find? fun f => f.typ == 1) = some f →
      ∃ t, exec (.flitSlot port) s = .next t ∧ (getPort t port).wire = some f ∧
        (getPort t port).waiting = (getPort s port).waiting.erase f ∧ (getPort t port).replay = (getPort s port).replay ∧
        (getPort t port).txSeq = (getPort s port).txSeq ∧ (∀ p, p ≠ port → getPort t p = getPort s p) ∧ t.mem = s.mem ∧
        t.ctxs = s.ctxs) ∧
    (∀ f rest, ((getPort s port).waiting.find? fun f => f.typ == 1) = none → (getPort s port).resend = f :: rest →
      ((getPort s port).uncredited ≤ rest.length → ∃ t, exec (.flitSlot port) s = .next t ∧ (getPort t port).wire = some f ∧
        (getPort t port).resend = rest ∧ (getPort t port).credits = (getPort s port).credits ∧
        (getPort t port).replay = (getPort s port).replay ∧ (getPort t port).txSeq = (getPort s port).txSeq ∧
        (∀ p, p ≠ port → getPort t p = getPort s p) ∧ t.mem = s.mem ∧ t.ctxs = s.ctxs) ∧
      (rest.length < (getPort s port).uncredited → tget 0 (getPort s port).credits f.vc ≠ 0 → ∃ t, exec (.flitSlot port) s = .next t ∧
        (getPort t port).wire = some f ∧ (getPort t port).resend = rest ∧ (getPort t port).uncredited = rest.length ∧
        tget 0 (getPort t port).credits f.vc = tget 0 (getPort s port).credits f.vc - 1 ∧
        (getPort t port).replay = (getPort s port).replay ∧ (∀ p, p ≠ port → getPort t p = getPort s p) ∧ t.mem = s.mem ∧
        t.ctxs = s.ctxs)) ∧
    (((getPort s port).waiting.find? fun f => f.typ == 1) = none → (getPort s port).resend = [] →
      (511 ≤ (getPort s port).replay.length ∨ nextFlit (getPort s port) = none) →
      ∃ t, exec (.flitSlot port) s = .next t ∧ (getPort t port).wire = some { typ := 0 } ∧
        (getPort t port).replay = (getPort s port).replay ∧ (getPort t port).waiting = (getPort s port).waiting ∧
        (∀ p, p ≠ port → getPort t p = getPort s p) ∧ t.mem = s.mem ∧ t.ctxs = s.ctxs) ∧
    (∀ i f, ((getPort s port).waiting.find? fun f => f.typ == 1) = none → (getPort s port).resend = [] →
      (getPort s port).replay.length < 511 → nextFlit (getPort s port) = some (i, f) → f.typ ≠ 4 →
      ∃ t, exec (.flitSlot port) s = .next t ∧ (getPort t port).wire = some { f with seq := (getPort s port).txSeq } ∧
        (getPort t port).replay = (getPort s port).replay ++ [{ f with seq := (getPort s port).txSeq }] ∧
        (getPort t port).txSeq = ((getPort s port).txSeq + 1) % 512 ∧ (getPort t port).waiting = (getPort s port).waiting.eraseIdx i ∧
        tget 0 (getPort t port).credits f.vc = tget 0 (getPort s port).credits f.vc - 1 ∧
        (∀ p, p ≠ port → getPort t p = getPort s p) ∧ t.mem = s.mem ∧ t.ctxs = s.ctxs)

/-- REMOTE_READ_REQUEST, REMOTE_RESOLVE_REQUEST, REMOTE_WRITE_REQUEST, REMOTE_CAS_REQUEST and REMOTE_WRITE_BAR_REQUEST for this device
(R32, R326 to R328, R333): one that passes the checks wakes the cluster and the stack of its word, is performed at the word's home and
answered OK with its word (a RESOLVE with what the barrier answers for the pointer, or later where the barrier waits), or with the status
that its barrier or its card gives; the others are answered with the first check that fails, a missing route and a malformed request
counting as violations besides, and a sealed partition's refusal being recorded (R394). The word beside a status other than OK is free
(the model's choice, log entry 22).
Completes, `exec` answering a next state under the hypotheses of its clause alone: `remoteReadRequest`, `remoteResolveRequest`,
`remoteWriteRequest`, `remoteCasRequest`, `remoteWriteBarRequest`. -/
def Obligations.RemoteRequestsAreServed : Prop :=
  ∀ (s : State) (port : Nat) (x : XPort) (req : W64), linkOpen s port = true → (getPort s port).st = 2 → inSeq s port x.seq = true →
    x.dst = s.dev → x.rsvd % 65536 = 0 →
    let a := bits req 35 0
    let at' (typ : Nat) : State := wakeHome (rxItem s port typ (if x.src = (getPort s port).peerDev then 2 else 3) x) x a
    let answer (r : State × Nat × Word) : State :=
      if r.2.1 = 0 then remAnswer r.1 port x req 0 r.2.2 else remRefuse r.1 port x req r.2.1
    (remCheck (at' 5) x req 0 = 0 → exec (.remoteReadRequest port x req) s =
      .next (remAnswer (homeRead (at' 5) a).2 port x req 0 (homeRead (at' 5) a).1)) ∧
    (∀ w, remCheck (at' 6) x req 1 = 0 → exec (.remoteWriteRequest port x req w) s =
      .next (remAnswer (homeWrite (at' 6) a w) port x req 0 Word.zero)) ∧
    (∀ cmp new, remCheck (at' 7) x req 2 = 0 →
      exec (.remoteCasRequest port x req cmp new) s = .next (answer (farCas (at' 7) x.part a cmp new)) ∧
      (cohRead (at' 7) a ≠ cmp → farCas (at' 7) x.part a cmp new = ((homeCas (at' 7) a cmp new).2, 0, (homeCas (at' 7) a cmp new).1))) ∧
    (remCheck (at' 5) x req 3 = 0 → (s.part.full && colourAhead (getPart s x.part) (bits req 43 42)) = false →
      (cohRead s a).tag = tagPOISON → (cohRead (at' 5) a).tag = tagPOISON →
      exec (.remoteResolveRequest port x req) s = .next (remAnswer (drawWord (at' 5)).2 port x req 0 (cohRead (at' 5) a))) ∧
    (∀ r, remCheck (at' 5) x req 3 = 0 → (resolveFor s x.part req a).isSome = true → resolveFor (at' 5) x.part req a = some r →
      exec (.remoteResolveRequest port x req) s = .next (answer r)) ∧
    (remCheck s x req 3 = 0 → resolveFor s x.part req a = none → exec (.remoteResolveRequest port x req) s = .next s) ∧
    (∀ w va, remCheck (at' 7) x req 4 = 0 →
      exec (.remoteWriteBarRequest port x req w va) s = .next (answer (writeBar (at' 7) x.part a w va)) ∧
      (barrierOf (getPart (at' 7) x.part) w = 0 → ∃ t, writeBar (at' 7) x.part a w va = (t, 0, Word.zero) ∧ t.mem = (homeWrite (at' 7) a w).mem)) ∧
    (remCheck (at' 5) x req 0 = 1 → exec (.remoteReadRequest port x req) s = .next (remRefuse
      (if (getPart (at' 5) x.part).sealed = true then sealedRefused (at' 5) x.part 3 (.peer x.src) else at' 5) port x req 1)) ∧
    (remCheck (at' 5) x req 0 = 2 →
      exec (.remoteReadRequest port x req) s = .next (remRefuse (countViolation (at' 5) port 6) port x req 2)) ∧
    (remCheck (at' 5) x req 0 = 4 →
      exec (.remoteReadRequest port x req) s = .next (remRefuse (countViolation (at' 5) port 5) port x req 4)) ∧
    (dataPort s x.part x.src = none → ∀ op, remCheck s x req op = 2)

/-- REMOTE_RESPONSE, REMOTE_REQUEST_TIMEOUT and MSG_ACK_RECEIVE (R318, R329 to R331, R304): the answer of the outstanding request with
its tag completes it; a response to none is a violation; a request 100 µs old completes LINK_DOWN with one error charged to its
port, and a younger one waits; an acknowledgement frees the outbox entries that it names; SLOT_FREE returns the flow's credits.
Completes, `exec` answering a next state under the hypotheses of its clause alone: `remoteResponse`, `remoteRequestTimeout`, `msgAckReceive`. -/
def Obligations.RemoteAnswersComplete : Prop :=
  (∀ (s : State) (port : Nat) (x : XPort) (resp : W64) (w : Word), linkOpen s port = true → (getPort s port).st = 2 →
    inSeq s port x.seq = true → x.dst = s.dev → x.rsvd % 65536 = 0 →
    let s1 := rxItem s port 8 (if x.src = (getPort s port).peerDev then 4 else 5) x
    (∀ r, (s.remotes.find? fun r => r.rtag == bits resp 63 48) = some r → bits resp 47 44 < 4 ∨ bits resp 47 44 = 5 →
      exec (.remoteResponse port x resp w) s = .next (settleWithdraw (remoteDone s1 r (bits resp 47 44) w))) ∧
    ((s.remotes.find? fun r => r.rtag == bits resp 63 48) = none →
      exec (.remoteResponse port x resp w) s = .next (countViolation s1 port 8))) ∧
  (∀ (s : State) (r : RemReq) (c op : Nat) (w : Word), r.who = .ctxOp c op → r.op = 0 → r.words = [] →
    remoteDone s r 0 w = setResult { s with remotes := s.remotes.filter fun q => q.rtag != r.rtag } c op (.words [remoteWord r.pa w])) ∧
  (∀ (s : State) (rtag : Nat) (r : RemReq), (s.remotes.find? fun r => r.rtag == rtag) = some r →
    (r.time + 100000 ≤ s.time → exec (.remoteRequestTimeout rtag) s =
      .next (settleWithdraw (remoteDone (chargeLane s r.port (getPort s r.port).lastLane) r 3 Word.zero))) ∧
    (s.time < r.time + 100000 → exec (.remoteRequestTimeout rtag) s = .next s)) ∧
  (∀ (s : State) (port k : Nat) (f : Flow) (x : XPort) (v : W64), linkOpen s port = true → (getPort s port).st = 2 →
    inSeq s port x.seq = true → x.dst = s.dev → x.rsvd % 65536 = 0 → bits v 21 0 = 0 → bits v 29 26 = 8 → bit v 30 = true →
    (s.flows.find? fun e => e.2.cluster == bits v 43 39 && e.2.qid == bits v 63 44 && flowIxOf s e.1 == bits v 37 31) = some (k, f) →
    exec (.msgAckReceive port x v) s = .next ((List.range (bits v 25 22 + 1)).foldl (fun s _ => returnCredit s k) (rxItem s port 11 1 x))) ∧
  ∀ (s : State) (port c : Nat) (o : OutEnt) (x : XPort) (v : W64), linkOpen s port = true → (getPort s port).st = 2 →
    inSeq s port x.seq = true → x.dst = s.dev → x.rsvd % 65536 = 0 → bits v 21 0 = 0 → bits v 29 26 = 0 → bits v 25 22 = 0 → bit v 30 = false → bit v 38 = false → s.outbox = [o] → o.sent = true →
    o.msg.kind = .ctx → outboxCluster o.msg = some (bits v 43 39) → o.msg.qid = bits v 63 44 → o.msg.sun = false → o.msg.ctx = c →
    ∃ t, exec (.msgAckReceive port x v) s = .next t ∧ t.outbox = [] ∧ t.queues = s.queues ∧ t.msgs = s.msgs ∧ t.mem = s.mem ∧
      t.ctxs = s.ctxs

/-- CTRL_ROUTE_OPEN to CTRL_PHASE_END for this device over an open port (R25, R44, R179, R322, R326, R335, R357): a matching digest sets
the route up and is answered 0, one that does not is recorded and answered 1, an undefined, sealed or mirrored partition is
refused; a reply sets the route; a withdrawal ends the use of the route, flow or binding here, and is acknowledged when its path is
empty, at once where it is; an acknowledgement ends this device's own wait for it; a flow
request is admitted where every condition holds; its reply admits the flow, or withdraws it where a condition here no longer holds; a
declaration is recorded; the retraining, the Collector's
command and its end of phase reach their units.
Completes, `exec` answering a next state under the hypotheses of its clause alone: `ctrlRouteOpen`, `ctrlRouteReply`, `ctrlWithdraw`,
`ctrlWithdrawAck`, `ctrlFlowRequest`, `ctrlFlowReply`, `ctrlForwardDeclare`, `ctrlRetrain`, `ctrlCollect`, `ctrlPhaseEnd`. -/
def Obligations.ControlMessagesAct : Prop :=
  ∀ (s : State) (port : Nat) (h : CtrlHdr), linkOpen s port = true → inSeq s port h.seq = true → h.target = s.dev →
    let s1 := notePresent (rxFlit s port 0 1) h.origin
    let mine := tdtDigest (getPart s1 h.part)
    let answer (t : State) (st : Nat) : State := sendCtrl t h.origin 2 h.part [Word.fixN st, ⟨tagRAW, mine⟩] h.token
    ((getPart s1 h.part).defined = true → (getPart s1 h.part).sealed = false → (getPart s1 h.part).mirrored = false →
      exec (.ctrlRouteOpen port h mine 0) s = .next (answer (setRoute s1 h.part h.origin (directPort s1 h.origin)) 0) ∧
      ∀ d via, d ≠ mine → exec (.ctrlRouteOpen port h d via) s = .next (answer (digestMismatch s1 h.part h.origin) 1)) ∧
    (∀ d via, (getPart s1 h.part).defined = false → exec (.ctrlRouteOpen port h d via) s = .next (answer s1 2)) ∧
    (∀ d via, (getPart s1 h.part).defined = true → (getPart s1 h.part).sealed = true →
      exec (.ctrlRouteOpen port h d via) s = .next (answer s1 3)) ∧
    (h.part ∈ routable s1 →
      exec (.ctrlRouteReply port h 0 mine) s = .next (setRoute s1 h.part h.origin (viaPort s1 h.origin h.token)) ∧
      ∀ d, exec (.ctrlRouteReply port h 1 d) s = .next (digestMismatch s1 h.part h.origin)) ∧
    (∀ ix, let e (kind : Nat) : Withdrawal := { kind, part := h.part, dev := h.origin, ix, token := h.token }
      let wait (t : State) (kind : Nat) : State := settleWithdraw { t with withdrawn := t.withdrawn ++ [e kind] }
      exec (.ctrlWithdraw port h 0 ix) s = .next (wait (if ix = s1.dev then dropRoute s1 h.part h.origin
        else dropFar s1 h.part h.origin ix) 0) ∧
      exec (.ctrlWithdraw port h 1 ix) s = .next (wait (endInFlows s1 fun f =>
        f.dev == h.origin && f.cluster == ix / 256 % 32 && f.ix == ix % 256 && f.part == h.part) 1) ∧
      exec (.ctrlWithdraw port h 2 ix) s =
        .next (wait { s1 with unbound := (h.part, ix) :: s1.unbound.filter (· != (h.part, ix)) } 2) ∧
      ∀ (t : State) (kind : Nat), t.withdrawn = [] → t.withdrawing = [] →
        let u : State := { t with withdrawn := [e kind] }
        (pathBusy u (e kind) = false →
          wait t kind = sendCtrl t h.origin 4 h.part [Word.fixN kind, Word.fixN ix] h.token) ∧
        (pathBusy u (e kind) = true → wait t kind = u)) ∧
    (∀ kind ix, exec (.ctrlWithdrawAck port h kind ix) s = .next { s1 with withdrawing := s1.withdrawing.filter fun e =>
      !(e.kind == kind && e.part == h.part && e.dev == h.origin && e.ix == ix) }) ∧
    (∀ rec ix, let v := BitVec.ofNat 64 rec
      let f : InFlow := { dev := h.origin, cluster := bits v 24 20, ix := ix, part := h.part, queue := bits v 15 0,
                          rate := bits v 40 32, burst := bits v 27 25 + 1, flits := if bits v 31 28 ≤ 7 then 1 else 2 }
      let reply (t : State) (c : Nat) : State := sendCtrl t h.origin 6 h.part [Word.fixN c, Word.fixN ix] h.token
      (∀ g ∈ s1.inFlows, (g.dev, g.cluster, g.ix, g.queue) ≠ (f.dev, f.cluster, f.ix, f.queue)) → bits v 19 16 = s1.dev →
      (getPort s1 h.origin).st = 2 → (getPort s1 h.origin).flight = false → s1.tsync.lock = true → s1.power.nosun = false →
      (getQ s1 f.queue).owned = false ∨ (getPart s1 (getQ s1 f.queue).owner).mirrored = false →
      (dstRefusal s1 f.queue f.rate f.burst f.flits = none →
        exec (.ctrlFlowRequest port h rec ix) s = .next (reply (addInFlow s1 f) 0)) ∧
      ∀ c, dstRefusal s1 f.queue f.rate f.burst f.flits = some c → exec (.ctrlFlowRequest port h rec ix) s = .next (reply s1 c)) ∧
    (∀ ix k f, (s1.flows.find? fun e => !e.2.admitted && e.1 % 256 == h.token && e.2.part == h.part && e.2.qid / 65536 == h.origin &&
        flowIxOf s1 e.1 == ix) = some (k, f) →
      (srcRefusal s1 f = none → exec (.ctrlFlowReply port h 0 ix) s = .next (grantFlow s1 k)) ∧
      (∀ c, srcRefusal s1 f = some c → exec (.ctrlFlowReply port h 0 ix) s =
        .next (sendWithdraw (flowRefused s1 f c) 1 f.part h.origin (f.cluster * 256 + ix))) ∧
      ∀ c, c ≠ 0 → exec (.ctrlFlowReply port h c ix) s = .next (flowRefused s1 f c)) ∧
    (∀ mask dst, (h.origin, dst, mask) ∈ (forwardDeclare h mask dst { s1 with img := { s1.img with routes := [] } }).forwards ∧
      exec (.ctrlForwardDeclare port h mask dst) s = .next (forwardDeclare h mask dst s1)) ∧
    (exec (.ctrlRetrain port h) s = .next (orderRetrain s1 (directPort s1 h.origin))) ∧
    (∀ v, h.origin < s1.dev ∨ h.origin = s1.dev → (getPart s1 h.part).defined = true → s1.part.full = true →
      exec (.ctrlCollect port h v) s = .next (collCommand s1 h.part v)) ∧
    (∀ phase cycle, (getPart s1 h.part).defined = true → exec (.ctrlPhaseEnd port h phase cycle) s =
      .next (modColl s1 h.part fun k => { k with peers := tput k.peers h.origin (cycle * 16 + phase) }))

/-- TIME_REQUEST, TIME_RESPONSE, TIME_EXCHANGE_TICK and TIMEBASE_LOCK_TIMEOUT (R321, R343, R344): a request is answered with the times of
receipt; the first exchange with the partner sets the timebase and reports it, a later one slews it; an offset over 100 ns, or 1 ms
without an exchange, loses LOCK; a link whose peer's TIME flits show that it lost LOCK fails (R342). The offset is half the sum of the two one-way differences (the model's, log entry 22).
Completes, `exec` answering a next state under the hypotheses of its clause alone: `timeRequest`, `timeResponse`, `timeExchangeTick`,
`timebaseLockTimeout`. -/
def Obligations.TimebaseExchanges : Prop :=
  (∀ (s : State) (port : Nat) (v : W64) (t1 : Nat), linkOpen s port = true → bits v 63 60 = 0 →
    let s1 := notePeerLock (rxFlit s port 0 1) port v
    linkOpen s1 port = true → exec (.timeRequest port v t1) s = .next (sendFlit s1 port
      { typ := 4, vc := 0, dst := (getPort s port).peerDev, src := s.dev
        words := [timeHeader s 1, Word.fixN t1, Word.fixN s.time, Word.fixN s.time] ++ List.replicate 4 Word.zero })) ∧
  (∀ (s : State) (port : Nat) (v : W64) (t1 t2 t3 : Nat), linkOpen s port = true → bits v 63 60 = 1 →
    let s1 := notePeerLock (rxFlit s port 0 1) port v
    (getPort s1 port).st ≠ 5 → s1.tsync.t1 = some t1 → s1.tsync.master = false → (getPort s1 port).peerDev = s1.tsync.src →
    let offset : Int := (((t2 : Int) - t1) + ((t3 : Int) - s.time)) / 2
    (s1.tsync.isSet = false → ∃ t, exec (.timeResponse port v t1 t2 t3) s = .next t ∧ t.time = (s1.time + offset).toNat ∧
      t.tsync.isSet = true ∧ t.tsync.slew = 0 ∧ t.tsync.t1 = none ∧ t.mem = s1.mem ∧ t.ctxs = s1.ctxs) ∧
    (s1.tsync.isSet = true → s1.tsync.lock = false → s1.tsync.good = 0 →
      ∃ t, exec (.timeResponse port v t1 t2 t3) s = .next t ∧ t.time = s1.time ∧ t.tsync.slew = offset ∧
        t.tsync.good = (if -20 ≤ offset ∧ offset ≤ 20 then 1 else 0) ∧ t.tsync.lock = false ∧ t.mem = s1.mem ∧ t.ctxs = s1.ctxs)) ∧
  (∀ s : State, s.tsync.master = false → s.tsync.src ≠ s.dev → (getPort s s.tsync.src).st = 2 →
    (∀ e ∈ s.ports, e.2.st ≠ 5) → exec .timeExchangeTick s = .next (askTime s s.tsync.src)) ∧
  (∀ s : State, s.tsync.master = false → s.tsync.last + 1000000 ≤ s.time → s.tsync.lock = true → (∀ e ∈ s.ports, e.2.st ≠ 2) →
    exec .timebaseLockTimeout s = .next { s with tsync := { s.tsync with lock := false, good := 0 } }) ∧
  (∀ s : State, s.tsync.master = true ∨ s.time < s.tsync.last + 1000000 → exec .timebaseLockTimeout s = .next s) ∧
  ∀ (s : State) (port : Nat) (v : W64), (getPort s port).st = 2 → (getPort s port).peerLock = true → bit v 53 = false →
    notePeerLock s port v =
      linkFail (modPort s port fun q => { q with peerLock := false, peerSync := some (bits v 59 56, bit v 55) }) port 5

/-! ## Power, heat and reset (R30 to R32, R374, R449 to R465, R496, R501) -/

/-- CLCMD_OFF, CLUSTER_DRAIN_DONE, CLCMD_ON, CLUSTER_RETAIN_ENTRY, CLUSTER_WAKE, STACK_SELF_REFRESH, POWER_DOMAIN_OFF_REQUEST and
POWER_DOMAIN_WAKE (R31, R32, R454 to R457): a cluster that the conditions let go drains, and is off with its contexts reset when the
drain is done; one that they keep is refused and recorded; an undefined number leaves LAST 2; sleep for RETDLY µs retains a cluster and
work wakes it; a quiet stack sleeps and a quiet port and PCI Express switch off (their numbers are the model's choice, log entry 34).
Completes, `exec` answering a next state under the hypotheses of its clause alone: `clcmdOff`, `clusterDrainDone`, `clcmdOn`, `clusterRetainEntry`,
`clusterWake`, `stackSelfRefresh`, `powerDomainOffRequest`, `powerDomainWake`. -/
def Obligations.DomainsSwitch : Prop :=
  (∀ (s : State) (cl : Nat), s.part.clusters ≤ cl →
    exec (.clcmdOff cl) s = .next (setClLast s 2) ∧ exec (.clcmdOn cl) s = .next (setClLast s 2)) ∧
  (∀ (s : State) (cl : Nat), cl < s.part.clusters → (getCluster s cl).power ≠ .off →
    (mayGoOff s cl = true → exec (.clcmdOff cl) s = .next (setClLast (setClState s cl .draining) 3)) ∧
    (mayGoOff s cl = false → exec (.clcmdOff cl) s =
      .next (report (setDomLast (setClLast s 1) 1) 0x9001 .none [BitVec.ofNat 64 cl]))) ∧
  (∀ (s : State) (cl c : Nat), (getCluster s cl).power = .draining →
    (mayGoOff s cl = true → exec (.clusterDrainDone cl) s = .next (setClLast (loseCluster (drainCluster s cl) cl) 0) ∧
      (getCluster (loseCluster s cl) cl).power = .off ∧
      (clusterOf c = cl → (getCtx (loseCluster s cl) c).run = .notStarted ∧ (getCtx (loseCluster s cl) c).g = []) ∧
      (clusterOf c ≠ cl → getCtx (loseCluster s cl) c = getCtx s c) ∧ (loseCluster s cl).mem = s.mem) ∧
    (mayGoOff s cl = false → exec (.clusterDrainDone cl) s =
      .next (report (setDomLast (setClLast (setClState (drainCluster s cl) cl .active) 1) 1) 0x9001 .none [BitVec.ofNat 64 cl]))) ∧
  (∀ (s : State) (cl : Nat), cl < s.part.clusters → (getCluster s cl).power = .off → s.power.trip = false →
    s.power.heldReset = false → exec (.clcmdOn cl) s = .next (setClLast (clusterBack s cl) 0) ∧
      (cl < 32 → exec (.powerDomainWake cl) s = .next (clusterBack s cl)) ∧ (getCluster (clusterBack s cl) cl).power = .active ∧
      (clusterBack s cl).ctxs = s.ctxs ∧ (clusterBack s cl).mem = s.mem ∧ cl / 8 ∉ (clusterBack s cl).power.diesOff ∧
      (∀ k, k ≠ cl → getCluster (clusterBack s cl) k = getCluster s k)) ∧
  (∀ (s : State) (cl t : Nat), (s.power.idleSince.find? fun e => e.1 == cl) = some (cl, t) → (getCluster s cl).power = .active →
    s.power.retdly ≠ 0 → t + s.power.retdly * 1000 ≤ s.time → clusterSleeps s cl = true →
    exec (.clusterRetainEntry cl) s = .next (setClState s cl .retain)) ∧
  (∀ (s : State) (cl : Nat), (getCluster s cl).power = .retain → clusterSleeps s cl = false →
    exec (.clusterWake cl) s = .next (modPower (setClState s cl .active) fun p => { p with idleSince := tdel p.idleSince cl })) ∧
  (∀ (s : State) (st : Nat), s.power.srdly ≠ 0 → st < s.part.stacks → st ∉ s.power.stacksAsleep →
    exec (.stackSelfRefresh st) s = .next { s with power := { s.power with stacksAsleep := s.power.stacksAsleep ++ [st] } }) ∧
  (∀ (s : State) (p : Nat), p < s.part.ports → p < 16 →
    (portQuiet s p = true → ∃ t, exec (.powerDomainOffRequest (44 + p)) s = .next t ∧ (getPort t p).st = 0 ∧ p ∈ t.power.portsOff ∧
      (∀ q, q ≠ p → getPort t q = getPort s q) ∧ t.mem = s.mem ∧ t.ctxs = s.ctxs ∧ t.reports = s.reports) ∧
    (portQuiet s p = false → exec (.powerDomainOffRequest (44 + p)) s =
      .next (report (setDomLast s 1) 0x9001 .none [BitVec.ofNat 64 (44 + p)]))) ∧
  (∀ s : State, s.hostIf.linkUp = false →
    exec (.powerDomainOffRequest 60) s = .next { s with power := { s.power with domLast := 0, pcieOff := true } }) ∧
  (∀ s : State, s.hostIf.linkUp = true →
    exec (.powerDomainOffRequest 60) s = .next (report (setDomLast s 1) 0x9001 .none [60]))

/-- VCORE_ADJUST, VRQ_ALERT, THERMAL_LIMIT_CHANGE, THERMAL_EXCURSION, THERMAL_READMISSION and THERMTRIP (R451, R452, R458, R459, R496,
R338): VCORE moves by 5 mV within its limits, floor before ceiling, and without a regulator stays at 0.80 V; VRQ_ALERT limits
every cluster to 4 of 8 steps; HOT follows 95 °C, and above 105 °C Sunlit stops; 1 s above counts one excursion, 1 s at
100 °C or below readmits; THERMTRIP switches clusters and ports off and counts one trip.
Completes, `exec` answering a next state under the hypotheses of its clause alone: `vcoreAdjust`, `thermalLimitChange`, `thermtrip`, `vrqAlert`,
`thermalExcursion`, `thermalReadmission`. -/
def Obligations.HeatAndVoltage : Prop :=
  (∀ (s : State) (busy watts cap : Nat), s.power.trip = false → s.power.heldReset = false →
    ∃ t, exec (.vcoreAdjust busy watts cap) s = .next t ∧ t.power.watts = watts % 1024 ∧ t.mem = s.mem ∧ t.ctxs = s.ctxs ∧
      t.power.vcore = (if s.power.regulator then max (max s.img.vmin (if servesFlow s then 800 else 0))
          (min (if 75 < busy then s.power.vcore + 5 else if busy < 25 then s.power.vcore - 5 else s.power.vcore)
            (min (min s.img.vmax cap) (if 100 ≤ s.power.tj then 800 else s.img.vmax)))
        else 800)) ∧
  (∀ (s : State) (low : Bool) (c : Nat), c < s.part.clusters → ∃ t, exec (.vrqAlert low) s = .next t ∧ t.power.vrqAlert = low ∧
    (getCluster t c).throttle = (if low then 4 else 8) ∧ t.mem = s.mem ∧ t.ctxs = s.ctxs ∧ t.cores = s.cores) ∧
  (∀ (s : State) (tj : Nat), tj ≤ 105 → ∃ t, exec (.thermalLimitChange tj) s = .next t ∧ t.power.tj = tj ∧
    t.power.hot = decide (95 ≤ tj) ∧ t.power.nosun = s.power.nosun ∧ t.flows = s.flows ∧ t.mem = s.mem ∧ t.ctxs = s.ctxs ∧
    (tj < 100 → t.power.vcore = s.power.vcore)) ∧
  (∀ (s : State) (tj : Nat), 105 < tj → tj < 256 → s.flows = [] → s.inFlows = [] → ∃ t, exec (.thermalLimitChange tj) s = .next t ∧
    t.power.tj = tj ∧ t.power.hot = true ∧ t.power.nosun = true ∧ t.mem = s.mem ∧ t.ctxs = s.ctxs) ∧
  (∀ (s : State) (t0 : Nat), s.power.hotSince = some t0 → s.power.hotCounted = false → t0 + 1000000000 ≤ s.time →
    exec .thermalExcursion s = .next (report { s with
      power := { s.power with hotCounted := true }, life := { s.life with thermExc := (s.life.thermExc + 1) % 2 ^ 32 } }
        0x9003 .device [BitVec.ofNat 64 s.power.hotPeak])) ∧
  (∀ (s : State) (t0 : Nat), s.power.coolSince = some t0 → s.power.nosun = true → t0 + 1000000000 ≤ s.time → s.flows = [] →
    exec .thermalReadmission s = .next { s with power := { s.power with nosun := false } }) ∧
  (∀ s : State, s.power.trip = true → exec .thermtrip s = .next s) ∧
  ∀ s : State, s.power.trip = false →
    let peak := max 120 (max s.power.hotPeak s.power.tj)
    let s1 : State := { s with
      power := { s.power with trip := true, tj := max 120 s.power.tj, hot := true, nosun := true, pcieOff := true
                              stacksAsleep := List.range s.part.stacks }
      life := { s.life with thermTrips := (s.life.thermTrips + 1) % 2 ^ 32 } }
    let s3 := (List.range s.part.clusters).foldl loseCluster
      (withAlert s (recordReport s1 { code := 0x9004, subj := .device, pay := [BitVec.ofNat 64 peak], time := s.time }))
    exec .thermtrip s = .next (s3.ports.foldl (fun s e => modPort s e.1 fun l => { freshLink l s.time with
      st := if l.st = 4 then 4 else 0, step := 0 }) { s3 with dir := [], hostIf := { s3.hostIf with linkUp := false } })

/-- COLD_RESET, WARM_RESET, REFCLK_LOSS, REFCLK_RETURN, RAIL_LOSS, RAIL_RETURN, VAON_LOSS and VBAK_LOSS (R30, R446, R463 to R465, R495, R501):
both levels take away contexts, queues, routes, configuration and the debug level, and sample the device number on BOARD_SLOT; a warm reset leaves memory, flash and the
queue of commands, and keeps the L1D lines for the writeback; a lost clock or rail holds the reset until it returns, time going on
while the clock is away and starting at 0 after; losing VAON empties the ring and the sealed map, losing VBAK the calendar and the
lifetime block.
Completes, `exec` answering a next state under the hypotheses of its clause alone: `refclkLoss`, `refclkReturn`, `railLoss`, `coldReset`,
`warmReset`, `vaonLoss`, `vbakLoss`, `railReturn`. -/
def Obligations.ResetsTakeAway : Prop :=
  (∀ (s : State) (cause : Nat), ∃ t, exec (.warmReset cause) s = .next t ∧ t.ctxs = [] ∧ t.queues = [] ∧ t.routes = [] ∧ t.flows = [] ∧
    t.img.inForce = false ∧ t.trust.dbgLevel = 0 ∧ t.trust.keys = [] ∧ t.trust.stage = 0 ∧ t.trust.warm = true ∧
    t.trust.writeback = true ∧ t.mem = (flushAfterglow s).mem ∧ t.flash.bytes = (flushAfterglow s).flash.bytes ∧
    t.pending = (flushAfterglow s).pending ∧ t.dev = s.boardSlot ∧
    (∀ k, (getCore t k).l1d = (getCore (flushAfterglow s) k).l1d ∧ (getCore t k).sq = [] ∧ (getCore t k).tlb = [])) ∧
  (∀ s : State, ∃ t, exec .coldReset s = .next t ∧ t.ctxs = [] ∧ t.cores = [] ∧ t.clusters = [] ∧ t.queues = [] ∧ t.routes = [] ∧
    t.ports = [] ∧ t.img.inForce = false ∧ t.trust.dbgLevel = 0 ∧ t.trust.stage = 0 ∧ t.trust.warm = false ∧ t.time = 0 ∧
    t.power.vaon = true ∧ t.glow.pen = [] ∧ t.glow.drainSeq = 0 ∧ t.cal.oscFail = false ∧ t.dev = s.boardSlot) ∧
  (∀ s : State, s.power.refLost = false → ∃ t, exec .refclkLoss s = .next t ∧ t.power.refLost = true ∧ t.power.refAlert = true ∧
    t.power.heldReset = true ∧ t.ctxs = [] ∧ t.queues = [] ∧ t.trust.stage = 0) ∧
  (∀ s : State, s.power.refLost = true → s.power.railsLow = [] → exec .refclkReturn s =
    .next { s with time := 0, power := { s.power with refLost := false, refAlert := false, heldReset := false } }) ∧
  (∀ (s : State) (rail : Nat), rail ∉ s.power.railsLow → ∃ t, exec (.railLoss rail) s = .next t ∧ rail ∈ t.power.railsLow ∧
    t.power.heldReset = true ∧ t.ctxs = [] ∧ t.trust.stage = 0) ∧
  (∀ s : State, exec .railReturn s = .next { s with power := { s.power with railsLow := [], heldReset := s.power.refLost } }) ∧
  (∀ s : State, ∃ t, exec .vaonLoss s = .next t ∧ t.power.vaon = false ∧ t.glow.ring = [] ∧ t.glow.nextSeq = 0 ∧ t.reports = [] ∧
    t.trust.sealedMap = [] ∧ t.cal.almEn = false ∧ t.cal.sec = s.cal.sec ∧ t.ctxs = []) ∧
  ∀ s : State, ∃ t, exec .vbakLoss s = .next t ∧ t.cal.sec = 0 ∧ t.cal.sub = 0 ∧ t.cal.trim = 0 ∧ t.cal.valid = false ∧
    t.cal.vbakLoss = true ∧ t.life = {} ∧ t.mem = s.mem ∧ t.ctxs = s.ctxs ∧ t.trust = s.trust ∧ t.glow = s.glow

/-- BOOT_STAGE_COMPLETE and RNG_HEALTH_FAIL (R374, R375, R379, R393, R465): the stages follow one another, the warm
writeback before them; without a valid firmware slot stage 2 ends at 0xA; nothing boots while the device is held in reset or gated by THERMTRIP; a failed
random-number source is recorded, once, with a reason whose number is free.
Completes, `exec` answering a next state under the hypotheses of its clause alone: `rngHealthFail`, `bootStageComplete`. -/
def Obligations.BootStagesFollow : Prop :=
  (∀ s : State, s.power.heldReset = true ∨ s.power.vaon = false ∨ s.power.trip = true → exec .bootStageComplete s = .next s) ∧
  (∀ s : State, s.power.heldReset = false → s.power.vaon = true → s.power.trip = false →
    (s.trust.writeback = true →
      exec .bootStageComplete s = .next (enterStage (modTrust (warmWriteback s) fun t => { t with writeback := false }) 1)) ∧
    (s.trust.writeback = false →
      (s.trust.stage = 0 → exec .bootStageComplete s = .next (enterStage s 1)) ∧
      (s.trust.stage = 2 → ∀ n, n = s.trust.active → exec .bootStageComplete s = .next (match slotCheck s n with
        | none => acceptSlot s n
        | some c =>
          match slotCheck (rejectSlot s n c) (1 - n) with
          | none => acceptSlot (rejectSlot s n c) (1 - n)
          | some c' => enterStage (stageFailed (rejectSlot (rejectSlot s n c) (1 - n) c') 2 .none) 0xA)) ∧
      (s.trust.stage = 3 → s.trust.bootBad = false → s.trust.warm = false → ∃ t, exec .bootStageComplete s = .next t ∧
        t.trust.stage = 4 ∧ t.mem = [] ∧ t.power.vcore = 800 ∧ t.life.pendRows = []) ∧
      (s.trust.stage = 4 → s.trust.bootBad = false → ∃ t, exec .bootStageComplete s = .next t ∧ t.trust.stage = 5 ∧
        t.trust.sealedMap = [] ∧ t.trust.sealedOvf = false) ∧
      (s.trust.stage = 6 → exec .bootStageComplete s = .next (match validate s (imageByte s) with
        | .error e => releaseNoImage
            (report s 0x0004 .none [BitVec.ofNat 64 e.reason, BitVec.ofNat 64 e.sect, BitVec.ofNat 64 e.rec'])
        | .ok m => enterStage (addHist (report (loadImage s m) 0x0005 .none [m.id, BitVec.ofNat 64 m.svn]) 2 m.svn m.id) 7)) ∧
      (8 ≤ s.trust.stage → exec .bootStageComplete s = .next s))) ∧
  (∀ (s : State) (n : Nat), (enterStage s n).trust.stage = n) ∧
  (∀ s : State, s.trust.rngOk = true → ∃ t, exec .rngHealthFail s = .next t ∧ t.trust = { s.trust with rngOk := false } ∧
    t.mem = s.mem ∧ t.ctxs = s.ctxs) ∧
  ∀ s : State, s.trust.rngOk = false → exec .rngHealthFail s = .next s

/-! ## Timers, watchdog and calendar (R285, R446, R460 to R462) -/

/-- A write of `TMDL`, CONTEXT_TIMER_EXPIRY, WDCTL_KICK, WDCTL_ENABLE and WATCHDOG_EXPIRY (R460 to R462, R467): a timer takes the lowest free
comparator of 2 to 1023, or LAST is 1 where none is free and 2 where the context is not the partition's; a deadline reached pends TIMER;
comparators fire in the order of their deadlines; a kick starts PERIOD again, and its end sets EXPIRED and alerts.
CALSEC_WRITE, CALTRIM_WRITE, CAL_OSC_FAIL, CRYSTAL_TICK_RETURN and CALALM_EXPIRY (R446, R462, R477): a FIX word sets the calendar and is
recorded with what it was; the trim is taken; a crystal that stops is recorded and holds the count until it ticks; the alarm sets
FIRED and `HMSTAT`.ALARM.
Completes, `exec` answering a next state under the hypotheses of its clause alone: `tmdlWrite`, `contextTimerExpiry`, `wdctlKick`, `wdctlEnable`,
`watchdogExpiry`, `calalmExpiry`, `calsecWrite`, `caltrimWrite`, `calOscFail`, `crystalTickReturn`. -/
def Obligations.TimersAndCalendar : Prop :=
  ((∀ (s : State) (p : Nat) (w : Word), w.tag ≠ tagFIX → exec (.tmdlWrite p w) s = .next s) ∧
  (∀ (s : State) (p c : Nat) (w : Word), w.tag = tagFIX → c = (getPart s p).tmctx →
    (owned s c = false ∨ partOf s c ≠ p → exec (.tmdlWrite p w) s = .next (setTmLast s p 2)) ∧
    (owned s c = true → partOf s c = p →
      (w.pay = 0 → exec (.tmdlWrite p w) s =
        .next (setTmLast (modCtx s c fun x => { x with timer := none, timerCmp := 0 }) p 0)) ∧
      (∀ n, s.time < w.pay.toNat → (getCtx s c).timer = none →
        ((List.range 1022).map (2 + ·)).find? (fun n => !(timersArmed s).contains n) = some n →
        exec (.tmdlWrite p w) s =
          .next (modCtx (setTmLast s p 0) c fun x => { x with timer := some w.pay.toNat, timerCmp := n })) ∧
      (w.pay ≠ 0 → (getCtx s c).timer = none →
        ((List.range 1022).map (2 + ·)).find? (fun n => !(timersArmed s).contains n) = none →
        exec (.tmdlWrite p w) s = .next (setTmLast s p 1)))) ∧
  (∀ (s : State) (c d : Nat), (getCtx s c).timer = some d →
    (mayFire s (getCtx s c).timerCmp = true → ∃ t, exec (.contextTimerExpiry c) s = .next t ∧ (getCtx t c).timer = none ∧
      (getCtx t c).regs = { (getCtx s c).regs with ipend := Nat.lor (getCtx s c).regs.ipend 4 } ∧
      (∀ e, e ≠ c → getCtx t e = getCtx s e) ∧ t.mem = s.mem ∧ t.cores = s.cores) ∧
    (mayFire s (getCtx s c).timerCmp = false → exec (.contextTimerExpiry c) s = .next s)) ∧
  (∀ (s : State) (c n : Nat) (d : Nat), (n, d) ∈ dueList s → mayFire s c = true →
    ∃ e, (c, e) ∈ dueList s ∧ (e < d ∨ (e = d ∧ c ≤ n))) ∧
  (∀ s : State, exec .wdctlKick s = .next { s with power := { s.power with
    wdStart := if s.power.wdEn then some s.time else none } }) ∧
  (∀ (s : State) (w : Word), (w.tag ≠ tagFIX → exec (.wdctlEnable w) s = .next s) ∧
    (w.tag = tagFIX → bit w.pay 1 = false → s.power.wdEn = false → exec (.wdctlEnable w) s = .next { s with power := { s.power with
      wdPeriod := bits w.pay 63 32, wdExpired := s.power.wdExpired && !bit w.pay 3, wdAction := bit w.pay 2, wdEn := bit w.pay 0
      wdStart := if bit w.pay 0 then some s.time else none } })) ∧
  ∀ s : State, (mayFire s 0 = false → exec .watchdogExpiry s = .next s) ∧
    (mayFire s 0 = true → s.power.wdAction = false → ∃ t, exec .watchdogExpiry s = .next t ∧ t.power.wdExpired = true ∧
      t.power.wdStart = none ∧ alertN t = true ∧ t.mem = s.mem ∧ t.ctxs = s.ctxs) ∧
    (mayFire s 0 = true → s.power.wdAction = true → exec .watchdogExpiry s =
      .next (warmReset (withAlert s { s with power := { s.power with wdExpired := true, wdStart := none } })))) ∧
  ((∀ (s : State) (w : Word), w.tag ≠ tagFIX → exec (.calsecWrite w) s = .next s ∧ exec (.caltrimWrite w) s = .next s) ∧
  (∀ (s : State) (w : Word), w.tag = tagFIX → s.reports.length < 1024 → ∃ t, exec (.calsecWrite w) s = .next t ∧
    t.cal.sec = w.pay.toNat ∧ t.cal.sub = 0 ∧ t.cal.valid = true ∧ t.cal.trim = s.cal.trim ∧
    t.reports = s.reports ++ [{ code := 0xD004, subj := .none, pay := [BitVec.ofNat 64 s.cal.sec, w.pay], time := s.time }] ∧
    t.mem = s.mem ∧ t.ctxs = s.ctxs ∧ t.life = s.life) ∧
  (∀ (s : State) (w : Word), w.tag = tagFIX → ∃ t, exec (.caltrimWrite w) s = .next t ∧ t.cal.trim = field (bits w.pay 15 0) 0 ∧
    t.cal.sec = s.cal.sec ∧ t.cal.sub = s.cal.sub ∧ t.reports = s.reports ∧ t.mem = s.mem ∧ t.ctxs = s.ctxs) ∧
  (∀ s : State, (s.cal.oscFail = true → exec .calOscFail s = .next s) ∧
    (s.cal.oscFail = false → exec .calOscFail s = .next (report { s with cal := { s.cal with oscFail := true } } 0xD005 .none)) ∧
    exec .crystalTickReturn s = .next { s with cal := { s.cal with oscFail := false } } ∧
    ∀ n, s.cal.oscFail = true → tickCal n s.cal = s.cal) ∧
  ∀ s : State, (mayFire s 1 = false → exec .calalmExpiry s = .next s) ∧
    (mayFire s 1 = true → ∃ t, exec .calalmExpiry s = .next t ∧ t.cal = { s.cal with almFired := true, almDue := none } ∧
      t.hostIf.alarm = true ∧ t.mem = s.mem ∧ t.ctxs = s.ctxs))

/-! ## Afterglow and the lifetime block (R421 to R445, R506) -/

/-- AFTERGLOW_REPORT, AGG_ENTRY_CLOSE, SUPP_RECORD_TIMEOUT, PENUMBRA_WINDOW_EXPIRY, AGCMD_CLEAR_FB and AGCMD_FLUSH_AGG (R428, R432, R433, R437,
R439, R448): the recorder takes the oldest report; a report of the environment waits with its time, or is dropped and counted
when 1,024 wait, and a correction of more symbols than the line's code corrects is none (R40, R41); an entry 10 ms old closes and writes nothing for one witness; a suppressed code's record is written when due; a Penumbra
window passes after its WINDOW; CLEAR_FB empties the bank and FLUSH_AGG closes every entry.
Completes, `exec` answering a next state under the hypotheses of its clause alone: `afterglowReport`, `aggEntryClose`, `suppRecordTimeout`,
`penumbraWindowExpiry`, `agcmdClearFb`, `agcmdFlushAgg`. -/
def Obligations.RecorderTakesReports : Prop :=
  (∀ (s : State) (r : Report) (rest : List Report), s.reports = r :: rest →
    exec (.afterglowReport none) s = .next (tellLost (recordReport { s with reports := rest } r))) ∧
  (∀ (s : State) (r : Report) (sev : Nat), codeSev r.code = some sev → r.code ≠ 0xC003 →
    (r.code = 0x3001 → correctable s (((r.pay[0]?).getD 0).toNat % 2 ^ 36 / 8) ((r.pay[1]?).getD 0).toNat = true) →
    exec (.afterglowReport (some r)) s = .next (enterReport (unitError s r) { r with time := s.time }) ∧
    ∀ t : State, (t.reports.length < 1024 → (enterReport t r).reports = t.reports ++ [r] ∧ (enterReport t r).glow = t.glow) ∧
      (1024 ≤ t.reports.length → (enterReport t r).reports = t.reports ∧
        (enterReport t r).glow.repLost = min 0xFFFF (t.glow.repLost + 1))) ∧
  (∀ (s : State) (r : Report), r.code = 0x3001 →
    correctable s (((r.pay[0]?).getD 0).toNat % 2 ^ 36 / 8) ((r.pay[1]?).getD 0).toNat = false →
    exec (.afterglowReport (some r)) s = .next s) ∧
  (∀ (s : State) (ix : Nat) (a : AggEnt), (s.glow.agg.find? fun e => e.1 == ix) = some (ix, a) →
    (s.time < a.open' + 10000000 → exec (.aggEntryClose ix) s = .next s) ∧
    (a.open' + 10000000 ≤ s.time → a.count ≤ 1 →
      exec (.aggEntryClose ix) s = .next { s with glow := { s.glow with agg := tdel s.glow.agg ix } }) ∧
    (a.open' + 10000000 ≤ s.time → 1 < a.count → exec (.aggEntryClose ix) s =
      .next (limited { s with glow := { s.glow with agg := tdel s.glow.agg ix } } (aggRec a) a.open' a.subj))) ∧
  (∀ (s : State) (code : Nat) (x : Supp), (s.glow.supps.find? fun e => e.1 == code) = some (code, x) →
    (s.time < x.due → exec (.suppRecordTimeout code) s = .next s) ∧
    (x.due ≤ s.time → exec (.suppRecordTimeout code) s = .next (writeRec
      { s with glow := { s.glow with supps := tdel s.glow.supps code } }
      (mkRec code x.sev s.time x.subj [Word.fixN x.count, Word.fixN x.firstT, Word.fixN x.lastT] false true)))) ∧
  (∀ (s : State) (ix : Nat) (e : PenEnt), (s.glow.pen.find? fun e => e.1 == ix) = some (ix, e) →
    (s.time < e.start + (threshOf s e.cls).2 → exec (.penumbraWindowExpiry ix) s = .next s) ∧
    (e.start + (threshOf s e.cls).2 ≤ s.time → ∃ t, exec (.penumbraWindowExpiry ix) s = .next t ∧
      t.glow.pen = tdel s.glow.pen ix ∧ t.mem = s.mem ∧ t.ctxs = s.ctxs ∧ t.life = s.life ∧ t.reports = s.reports)) ∧
  (∀ s : State, exec .agcmdClearFb s = .next { s with glow := { s.glow with fb := [], fbCount := 0 } }) ∧
  ∀ s : State, exec .agcmdFlushAgg s = .next ((s.glow.agg.map Prod.fst).foldl (fun s i => closeAgg s i true) s) ∧
    (s.glow.agg = [] → exec .agcmdFlushAgg s = .next s)

/-- A record written in SERVICE mode (R421 to R423, R427, R436): its words stand in the slot of its sequence number, the next number
follows, and every other slot, the words of its slot past its end, memory and the contexts are as before. The window at
0xC_0010_0000 reads the ring word by word, and a write to it is discarded (R421). -/
def Obligations.RecordIsWritten : Prop :=
  (∀ (s : State) (r : Rec), s.glow.mode = 1 → s.glow.ringFail = false → s.glow.nextSeq < 2 ^ 32 - 1 → r.code ≠ 0x9002 →
    r.code ≠ 0x9004 → r.code ≠ 0xC004 → r.body.length ≤ 30 → s.refl.state ≠ 2 → s.refl.state ≠ 3 →
    let t := writeRec s r
    let base := s.glow.nextSeq % 16384 * 32
    t.glow.nextSeq = s.glow.nextSeq + 1 ∧
      (∀ i, i < r.body.length + 2 →
        tget Word.zero t.glow.ring (base + i) = ((recWords r s.glow.nextSeq false true)[i]?).getD Word.zero) ∧
      (∀ a, a < base ∨ base + r.body.length + 2 ≤ a → tget Word.zero t.glow.ring a = tget Word.zero s.glow.ring a) ∧
      (recHeader r s.glow.nextSeq false).pay = field r.code 48 ||| field (r.body.length + 2) 40 ||| field r.sev 36 |||
        flagBit r.agg 35 ||| flagBit r.supp 34 ||| field s.glow.nextSeq 0 ||| flagBit true 32 ∧
      t.mem = s.mem ∧ t.ctxs = s.ctxs ∧ t.reports = s.reports) ∧
  ∀ (s : State) (o : Nat), o < 0x80000 → dcsRead s (0xC00100000 + o) = tget Word.zero s.glow.ring o ∧
    ∀ (who : DcsWho) (w : Word), exec (.dcsRegisterWrite who (0xC00100000 + o) w) s = .next s

/-- AGG_ENTRY_CLOSE once the entry's 10 ms have passed (R434): an entry of one witness writes nothing; one of more writes one record of
its code and subject with the AGG flag and the code's severity, stamped with the first witness's time, whose payload is the witness
count and the first and the last witness with their times, of LENGTH 9; the entry is gone in both. The record takes its token as R431 says:
the clause is stated for a bucket that holds one, in SERVICE mode, with no suppression record of the code due.
Completes, `exec` answering a next state under the hypotheses of its clause alone: `aggEntryClose`. -/
def Obligations.AggregateRecordIsWritten : Prop :=
  ∀ (s : State) (ix sev : Nat) (a : AggEnt), (s.glow.agg.find? fun e => e.1 == ix) = some (ix, a) → a.open' + 10000000 ≤ s.time →
    codeSev a.code = some sev →
    (a.count ≤ 1 →
      exec (.aggEntryClose ix) s = .next { s with glow := { s.glow with agg := tdel s.glow.agg ix } }) ∧
    (1 < a.count → 10 ^ 9 ≤ bucketLevel s a.code → (s.glow.supps.find? fun e => e.1 == a.code) = none → s.glow.mode = 1 →
      s.glow.ringFail = false → s.glow.nextSeq < 2 ^ 32 - 1 → a.code ≠ 0x9002 → a.code ≠ 0x9004 → a.code ≠ 0xC004 → s.refl.state ≠ 2 →
      s.refl.state ≠ 3 → ∃ t, exec (.aggEntryClose ix) s = .next t ∧
        (let word (i : Nat) : Word := tget Word.zero t.glow.ring (s.glow.nextSeq % 16384 * 32 + i)
         bits (word 0).pay 63 48 = a.code ∧ bits (word 0).pay 47 40 = 9 ∧ bits (word 0).pay 39 36 = sev ∧ bit (word 0).pay 35 = true ∧
           bit (word 0).pay 34 = false ∧ word 1 = Word.fixN a.open' ∧ (word 2).pay = a.subj ∧ word 3 = Word.fixN a.count ∧
           (word 4).pay = a.first ∧ word 5 = Word.fixN a.open' ∧ (word 6).pay = a.last ∧ word 7 = Word.fixN a.lastT) ∧
        t.glow.agg = tdel s.glow.agg ix ∧ t.glow.nextSeq = s.glow.nextSeq + 1 ∧ t.mem = s.mem ∧ t.ctxs = s.ctxs)

/-- AFTERGLOW_DRAIN, AFTERGLOW_DRAIN_RETRY, RING_SCRUB, LTCMD_SAVE and LIFETIME_PAGE_WRITE (R430, R435, R445, R448): the drain sends the next
valid record's message and waits for its answer, and does the same when a retry is due; a word of the ring with an uncorrectable error
fails the ring; SAVE asks for a page write, which, when due, writes the sector that does not hold the current page (whether it reads back
right is free) and otherwise does not happen.
Completes, `exec` answering a next state under the hypotheses of its clause alone: `afterglowDrain`, `afterglowDrainRetry`, `ringScrub`,
`ltcmdSave`, `lifetimePageWrite`. -/
def Obligations.RingDrainsAndPagesAreWritten : Prop :=
  (∀ s : State, s.glow.mode = 1 → s.img.agen = true → s.glow.drainSent = false → s.glow.drainRetry = none → drainBehind s ≠ 0 →
    drainBehind s ≤ 16384 →
    (let base := s.glow.drainSeq % 16384 * 32
     let h := tget Word.zero s.glow.ring base
     let tr := tget Word.zero s.glow.ring (base + bits h.pay 47 40 - 1)
     h.tag = tagRAW → bit h.pay 32 = true → bits h.pay 31 0 = s.glow.drainSeq → bit tr.pay 16 = true → 4 ≤ bits h.pay 47 40 →
     let sent : State := sendHw { s with glow := { s.glow with drainSent := true, drainRetry := none } }
       (.drain s.glow.drainSeq) (getQ s (s.img.agq % 65536)).owner s.img.agq
       [h, tget Word.zero s.glow.ring (base + 1), tget Word.zero s.glow.ring (base + 2), Word.fixN (0xC00100000 + base)]
     exec .afterglowDrain s = .next sent ∧
       ∀ t, t ≤ s.time → exec .afterglowDrainRetry { s with glow := { s.glow with drainRetry := some t } } = .next sent)) ∧
  (∀ s : State, s.glow.drainSent = true ∨ s.glow.mode ≠ 1 ∨ s.img.agen = false → exec .afterglowDrain s = .next s) ∧
  (∀ (s : State) (i : Nat), i < 0x80000 → s.glow.ringFail = false → ∃ t, exec (.ringScrub [i]) s = .next t ∧
    t.glow.ringFail = true ∧ t.glow.alertRing = true ∧ t.glow.mode = 2 ∧ t.ctxs = s.ctxs ∧ t.mem = s.mem) ∧
  (∀ s : State, exec (.ringScrub []) s = .next s) ∧
  (∀ s : State, exec .ltcmdSave s = .next { s with life := { s.life with saveDue := true, busy := true } } ∧
    (s.life.failTime = none → pageDue { s with life := { s.life with saveDue := true, busy := true } } = true)) ∧
  (∀ s : State, pageDue s = false ∨ s.flash.ops ≠ [] → exec .lifetimePageWrite s = .next s) ∧
  ∀ (s : State) (o : Nat), pageDue s = true → s.flash.ops = [] → ∃ t, exec .lifetimePageWrite s = .next t ∧ t.life.saveDue = false ∧
    t.life.busy = false ∧ t.life.lastWrite = s.time ∧ t.mem = s.mem ∧ t.ctxs = s.ctxs ∧
    (t.life.failTime = none → t.life.generation = s.life.generation + 1) ∧
    (t.life.failTime ≠ none → t.life.generation = s.life.generation) ∧
    (o / 0x10000 ≠ (if currentPage s = some 0 then 2 else 1) → flashByte t o = flashByte s o)

/-! ## The Sealing block (R390, R391, R397, R398) -/

/-- A write of `SLWINL`, WINDOW_FILL_DONE, SLCMD_ATTEST, SLCMD_EXTEND and SEALING_COMMAND_DONE: a word that is not FIX, a partition that is not
sealed and a window outside one grant are refused, and otherwise the window moves and is busy; when the fill is done every word of both windows is FIX 0; a command takes its input unless one runs, its buffer
lies outside the grants or inside the window, or attestation is unavailable; EXTEND's end hashes M_RUN on.
Completes, `exec` answering a next state under the hypotheses of its clause alone: `slwinlWrite`, `windowFillDone`, `slcmdAttest`, `slcmdExtend`,
`sealingCommandDone`. -/
def Obligations.SealingBlockActs : Prop :=
  (∀ (s : State) (p : Nat) (w : Word),
    (w.tag ≠ tagFIX → exec (.slwinlWrite p w) s = .next (setSlLast s p 4)) ∧
    (w.tag = tagFIX → (getPart s p).sealed = false → exec (.slwinlWrite p w) s = .next (setSlLast s p 6)) ∧
    (w.tag = tagFIX → (getPart s p).sealed = true → (getPart s p).winFill = none →
      (bits w.pay 35 10 ≠ 0 → inOneGrant (getPart s p) (getPart s p).slwinb (bits w.pay 35 10 * 1024) = false →
        exec (.slwinlWrite p w) s = .next (setSlLast s p 2)) ∧
      (bits w.pay 35 10 = 0 ∨ inOneGrant (getPart s p) (getPart s p).slwinb (bits w.pay 35 10 * 1024) = true →
        ∃ t, exec (.slwinlWrite p w) s = .next t ∧ (getPart t p).slwinl = bits w.pay 35 10 * 1024 ∧
          (getPart t p).winBase = (getPart s p).slwinb ∧ (getPart t p).winFill.isSome = true ∧ t.ctxs = s.ctxs ∧ t.queues = s.queues))) ∧
  (∀ (s : State) (p b0 n0 b1 n1 : Nat), (getPart s p).winFill = some (b0, n0, b1, n1) →
    ∃ t, exec (.windowFillDone p) s = .next t ∧ (getPart t p).winFill = none ∧ (getPart t p).slLast = 0 ∧ t.ctxs = s.ctxs ∧
      ∀ a, readWord t a = if (b0 ≤ a ∧ a < b0 + n0) ∨ (b1 ≤ a ∧ a < b1 + n1) then Word.zero else readWord s a) ∧
  (∀ (s : State) (p : Nat), (getPart s p).slCmd = none → attestOk s = true → bufferOk (getPart s p) (getPart s p).slbuf 103 = true →
    exec (.slcmdAttest p) s = .next (modPart s p fun q => { q with slCmd := some (1, q.slbuf, readBytes s q.slbuf 16) })) ∧
  (∀ (s : State) (p : Nat), (getPart s p).slCmd = none → bufferOk (getPart s p) (getPart s p).slbuf 8 = true →
    exec (.slcmdExtend p) s = .next (modPart s p fun q => { q with slCmd := some (2, q.slbuf, readBytes s q.slbuf 8) })) ∧
  (∀ (s : State) (p : Nat), ((getPart s p).slCmd.isSome = true →
      exec (.slcmdAttest p) s = .next (setSlLast s p 5) ∧ exec (.slcmdExtend p) s = .next (setSlLast s p 5)) ∧
    ((getPart s p).slCmd = none → bufferOk (getPart s p) (getPart s p).slbuf 103 = false →
      exec (.slcmdAttest p) s = .next (setSlLast s p 1)) ∧
    ((getPart s p).slCmd = none → bufferOk (getPart s p) (getPart s p).slbuf 103 = true → attestOk s = false →
      exec (.slcmdAttest p) s = .next (setSlLast s p 3))) ∧
  (∀ (s : State) (p a : Nat) (bs : List (BitVec 8)), (getPart s p).slCmd = some (2, a, bs) →
    ∃ t, exec (.sealingCommandDone p) s = .next t ∧ (getPart t p).slCmd = none ∧ (getPart t p).slLast = 0 ∧
      (getPart t p).mrun = sha512 (padBytes 64 (getPart s p).mrun ++ bs) ∧ t.mem = s.mem ∧ t.ctxs = s.ctxs ∧
      ∀ r, r ≠ p → getPart t r = getPart s r) ∧
  ∀ (s : State) (p a : Nat) (bs : List (BitVec 8)), (getPart s p).slCmd = some (1, a, bs) →
    exec (.sealingCommandDone p) s = .next (modPart (putWords s (a + 16)
      (packWords (reportBytes s (some p) (bs.take 64) (bs.drop 64)))) p fun q => { q with slCmd := none, slLast := 0 })

/-! ## The host (R353, R369, R380, R381, R468 to R480, R486) -/

/-- HQHEAD_WRITE, HSCMD_SEND and DCS_REGISTER_WRITE (R353, R474 to R476): messages up to the new HEAD leave a HOST-bound queue, and no more
than it holds; a send takes its block's words into the outbox under a verdict of 0, and leaves its verdict otherwise; a partition
writes its own blocks with DEVACC and nothing without, and a word that an agent does not reach is left alone.
Completes, `exec` answering a next state under the hypotheses of its clause alone: `dcsRegisterWrite`, `hqheadWrite`, `hscmdSend`. -/
def Obligations.HostQueuesAndSends : Prop :=
  (∀ (s : State) (fn q : Nat) (w : Word), (getQ s q).owned = true → (getQ s q).bind = 3 → fn = 0 ∨ fn = (getQ s q).owner + 1 →
    ringOpen s q = true → w.tag = tagFIX →
    let n := (w.pay.toNat % 2 ^ 32 + 2 ^ 32 - (getQ s q).head) % 2 ^ 32
    (n ≤ (getQ s q).occ → exec (.hqheadWrite fn q w) s = .next ((List.range n).foldl (fun s _ => dequeue s q) s)) ∧
    ((getQ s q).occ < n → exec (.hqheadWrite fn q w) s = .next (refusedReq s fn (16 * q)))) ∧
  (∀ (s : State) (fn q : Nat) (w : Word), (getQ s q).owned = false ∨ (getQ s q).bind ≠ 3 →
    exec (.hqheadWrite fn q w) s = .next (if fn = 0 then refusedReq s 0 (16 * q) else answerUr s fn (16 * q) false)) ∧
  (∀ (s : State) (p : Nat) (w : Word), p < 32 → (getPart s p).defined = true → (getPart s p).sealed = false →
    (bits w.pay 23 20 = 0 ∨ 8 < bits w.pay 23 20 → exec (.hscmdSend p w) s = .next { s with
      hostIf := { s.hostIf with sendStat := tput s.hostIf.sendStat p vTOO_LONG } }) ∧
    (1 ≤ bits w.pay 23 20 → bits w.pay 23 20 ≤ 8 →
      (hostVerdict s p (bits w.pay 19 0) = 0 → exec (.hscmdSend p w) s = .next { s with
        hostIf := { s.hostIf with sendStat := tput s.hostIf.sendStat p 0 }
        outbox := s.outbox ++ [{ msg := { src := .host, kind := .host, part := p, srcDev := s.dev, qid := bits w.pay 19 0
                                          words := (List.range (bits w.pay 23 20)).map fun i =>
                                            tget Word.zero s.hostIf.sendWords (p * 8 + i) } }] }) ∧
      (hostVerdict s p (bits w.pay 19 0) ≠ 0 → exec (.hscmdSend p w) s = .next { s with
        hostIf := { s.hostIf with sendStat := tput s.hostIf.sendStat p (hostVerdict s p (bits w.pay 19 0)) } }))) ∧
  (∀ (s : State) (p a : Nat) (w : Word), (getPart s p).devacc = false → exec (.dcsRegisterWrite (.part p) a w) s = .next s) ∧
  (∀ (s : State) (who : DcsWho) (a : Nat) (w : Word), dcsReach s who a = false → exec (.dcsRegisterWrite who a w) s = .next s) ∧
  (∀ (s : State) (w : Word), exec (.dcsRegisterWrite .pf 0xC00000001 w) s =
    .next { s with hostIf := { s.hostIf with hmbuf := w.pay } }) ∧
  ∀ (s : State) (w : Word), w.tag = tagFIX → inRecovery s = false → bits w.pay 41 32 < 100 →
    exec (.dcsRegisterWrite .pf 0xC00050000 w) s =
      .next { s with power := { s.power with retdly := bits w.pay 31 16, srdly := bits w.pay 15 0 } }

/-- The mailbox commands HMCMD_ATTEST to HMCMD_FLASH_ERASE and HOST_COMMAND_DONE, FLASH_OPERATION_DONE (R369, R370, R374, R380, R478, R479,
R486): a command while one runs is BUSY, but while one re-forming runs another of its partition is recorded and one of another partition
waits its turn; in RECOVERY only the reset and the flash commands are taken; a short or unreachable buffer is
BAD_BUFFER; otherwise the command runs with its argument and bytes. Its end is stated for ATTEST without attestation,
ENROL, REVOKE without an owner, PART_RESET, WARM_RESET and the flash commands; a flash write turns bits from 1 to
0 at its place alone, and an erase makes the sector 0xFF.
Completes, `exec` answering a next state under the hypotheses of its clause alone: `hmcmdAttest`, `hmcmdEnrol`, `hmcmdTransfer`, `hmcmdRevoke`,
`hmcmdSvnRaise`, `hmcmdReform`, `hmcmdPartReset`, `hmcmdWarmReset`, `hmcmdFlashWrite`, `hmcmdFlashErase`, `hostCommandDone`, `flashOperationDone`. -/
def Obligations.MailboxCommandsRun : Prop :=
  (∀ (s : State) (arg : W64) (e : Instr × Nat),
    e ∈ [(Instr.hmcmdAttest arg, 1), (.hmcmdEnrol arg, 2), (.hmcmdTransfer arg, 3), (.hmcmdRevoke arg, 4), (.hmcmdSvnRaise arg, 5),
      (.hmcmdReform arg, 6), (.hmcmdPartReset arg, 7), (.hmcmdWarmReset arg, 8), (.hmcmdFlashWrite arg, 9),
      (.hmcmdFlashErase arg, 10)] →
    let a := bits s.hostIf.hmbuf 35 0
    let len := bits s.hostIf.hmbuf 63 36
    (∀ c, s.hostIf.busy = some c →
      (e.2 ≠ 6 ∨ c.cmd ≠ 6 → exec e.1 s = .next { s with hostIf := { s.hostIf with last := 1 } }) ∧
      (e.2 = 6 → c.cmd = 6 → c.arg = bits arg 7 0 → exec e.1 s =
        .next (report { s with hostIf := { s.hostIf with last := 1 } } 0x0008 (.partition c.arg) [1])) ∧
      (e.2 = 6 → c.cmd = 6 → c.arg ≠ bits arg 7 0 → 168 ≤ len → hmBufferOk s a ((len + 7) / 8) = true → exec e.1 s = .next { s with
        hostIf := { s.hostIf with
          reformQ := s.hostIf.reformQ ++ [{ cmd := 6, arg := bits arg 7 0, addr := a, bytes := hmBytes s a len }] } })) ∧
    (s.hostIf.busy = none → inRecovery s = true → e.2 < 8 → exec e.1 s = .next (endCmd s 10)) ∧
    (s.hostIf.busy = none → inRecovery s = false → hmNeeds e.2 ≠ 0 →
      len < hmNeeds e.2 ∨ hmBufferOk s a (hmSpan e.2 len) = false → exec e.1 s = .next (endCmd s 2)) ∧
    (s.hostIf.busy = none → inRecovery s = false → hmNeeds e.2 = 0 ∨ (hmNeeds e.2 ≤ len ∧ hmBufferOk s a (hmSpan e.2 len) = true) →
      let bs := if hmNeeds e.2 = 0 then [] else hmBytes s a (if e.2 = 1 then 128 else len)
      let run := modHost s fun h => { h with busy := some { cmd := e.2, arg := bits arg 7 0, addr := a, bytes := bs } }
      (e.2 < 9 → exec e.1 s = .next run) ∧
      (e.2 = 9 → flashRange s (natOfBytesLE (bs.take 4)) (len - 4) = true →
        exec e.1 s = .next (queueFlash run (.write (natOfBytesLE (bs.take 4)) (bs.drop 4)) 1)) ∧
      (e.2 = 10 → flashReach s (natOfBytesLE (bs.take 4)) = true →
        exec e.1 s = .next (queueFlash run (.erase (natOfBytesLE (bs.take 4))) 1)))) ∧
  (∀ s : State, s.hostIf.busy = none → exec .hostCommandDone s = .next s) ∧
  (∀ (s : State) (c : HostCmd), s.hostIf.busy = some c →
    (c.cmd = 1 → attestOk s = false → exec .hostCommandDone s = .next (endCmd s 8)) ∧
    (c.cmd = 2 → s.trust.owners ≠ [] → exec .hostCommandDone s = .next (endCmd s 4)) ∧
    (c.cmd = 2 → s.trust.owners = [] → ∃ t, exec .hostCommandDone s = .next t ∧ t.hostIf.busy = none ∧ t.hostIf.last = 0 ∧
      t.trust = { s.trust with blows := s.trust.blows ++ [.owner 0 (sha512 (c.bytes.take 133))] } ∧ t.mem = s.mem ∧ t.ctxs = s.ctxs) ∧
    (c.cmd = 4 → currentOwner s = none → exec .hostCommandDone s = .next (endCmd s 4)) ∧
    (c.cmd = 7 → imgPart s c.arg = none → exec .hostCommandDone s = .next (endCmd s 4)) ∧
    (c.cmd = 7 → (imgPart s c.arg).isSome = true → exec .hostCommandDone s = .next (endCmd (partitionReset s c.arg) 0)) ∧
    (c.cmd = 8 → exec .hostCommandDone s = .next (warmReset (endCmd s 0))) ∧
    (c.cmd = 9 ∨ c.cmd = 10 → (s.flash.ops.any fun e => e.2 == 1) = true → exec .hostCommandDone s = .next s) ∧
    (c.cmd = 9 ∨ c.cmd = 10 → (s.flash.ops.any fun e => e.2 == 1) = false → exec .hostCommandDone s = .next (endCmd s 0))) ∧
  (∀ (s : State) (off who o : Nat) (bs : List (BitVec 8)) (rest : List (FlashOp × Nat)), s.flash.ops = (.write off bs, who) :: rest →
    ∃ t, exec .flashOperationDone s = .next t ∧ t.flash.ops = rest ∧ t.mem = s.mem ∧ t.ctxs = s.ctxs ∧ t.hostIf = s.hostIf ∧
      flashByte t o = (if off ≤ o ∧ o < off + bs.length then Nat.land (flashByte s o) ((bs[o - off]?).getD 0).toNat else flashByte s o)) ∧
  ∀ (s : State) (off who o : Nat) (rest : List (FlashOp × Nat)), s.flash.ops = (.erase off, who) :: rest →
    ∃ t, exec .flashOperationDone s = .next t ∧ t.flash.ops = rest ∧ t.mem = s.mem ∧ t.ctxs = s.ctxs ∧
      flashByte t o = if o / 0x10000 = off / 0x10000 then 0xFF else flashByte s o

/-- The PCI Express requests and link events (R468 to R473): a word of memory outside sealed memory reads and writes as 16 bytes; a
function that does not answer memory requests gives UR, and so does a virtual function in RECOVERY, whose link runs at 16 GT/s at most (R374); a write through a virtual function may leave no protected tag; configuration
requests retry before the release; FLR resets the partition and frees the function; unsupported and malformed requests are recorded;
PME_Turn_Off is acknowledged; the link goes down and comes up; in EXTEST, in a held reset and gated by THERMTRIP nothing is answered (R459,
R487, R501).
Completes, `exec` answering a next state under the hypotheses of its clause alone: `pcieMemoryRead`, `pcieMemoryWrite`, `pcieConfigRequest`,
`pcieFlr`, `pcieUnsupportedRequest`, `pcieMalformedTlp`, `pciePmeTurnOff`, `pcieLinkDown`, `pcieLinkUp`. -/
def Obligations.HostRequestsAreServed : Prop :=
  (∀ (s : State) (n : Nat), memEnabled s 0 = true → hostPlace s 0 2 n = .mem n → mirroredWord s n = false →
    let r := homeRead (settleStale s (n / 8)) n
    exec (.pcieMemoryRead 0 2 (n * 16) 16) s = .next (modHost r.2 fun h => { h with
      cpls := h.cpls ++ [{ fn := 0, status := 0, ep := r.1.tag == tagPOISON, data := hostBytes r.1 }] })) ∧
  (∀ (s : State) (n : Nat), s.trust.stale = [] → settleStale s n = s) ∧
  (∀ (s : State) (n : Nat) (bs : List (BitVec 8)), memEnabled s 0 = true → hostPlace s 0 2 n = .mem n → bs.length = 16 →
    let t := homeWrite (settleStale s (n / 8)) n (wordOfHost bs)
    exec (.pcieMemoryWrite 0 2 (n * 16) false (bs.map some)) s = .next t ∧ (wordOfHost bs).tag = (bs[8]?).getD 0 ∧
      (windowFills s (n / 8) = false → readWord t n = wordOfHost bs)) ∧
  (∀ (s : State) (fn bar off len : Nat), pinsDead s = false → len ≠ 0 → memEnabled s fn = false →
    exec (.pcieMemoryRead fn bar off len) s = .next (answerUr s fn off true)) ∧
  (∀ (s : State) (fn n : Nat) (bs : List (BitVec 8)), fn ≠ 0 → memEnabled s fn = true → hostPlace s fn 0 n = .mem n → bs.length = 16 →
    0xC0 ≤ ((bs[8]?).getD 0).toNat → exec (.pcieMemoryWrite fn 0 (n * 16) false (bs.map some)) s = .next (refusedReq s fn (n * 16))) ∧
  (∀ (s : State) (fn reg : Nat) (write : Bool) (v : W64), pinsDead s = false → s.trust.stage < 8 →
    exec (.pcieConfigRequest fn reg write v) s = .next (complete s false { fn, status := 2 })) ∧
  (∀ (s : State) (fn : Nat) (v : W64), pinsDead s = false → s.trust.stage = 8 → fn ≤ 32 →
    exec (.pcieConfigRequest fn 0 false v) s = .next (complete s false
      { fn, status := 0, data := (bytesLE (field (deviceId s.part fn) 16 ||| 0x1FA7)).take 4 })) ∧
  (∀ (s : State) (fn reg : Nat) (write : Bool) (v : W64), pinsDead s = false → s.trust.stage = 10 → fn ≠ 0 →
    exec (.pcieConfigRequest fn reg write v) s = .next (answerUr s fn reg true)) ∧
  (∀ (s : State) (fn : Nat), pinsDead s = false → 1 ≤ fn → fn ≤ 32 → ∃ t, exec (.pcieFlr fn) s = .next t ∧
    fn ∉ t.hostIf.isolated ∧ fn ∉ t.hostIf.d3 ∧ fn ∉ t.hostIf.msixOn ∧ (∀ e ∈ t.hostIf.msixPend, e.1 ≠ fn) ∧
    t.mem = (hostPartReset s (fn - 1)).mem ∧ t.ctxs = (hostPartReset s (fn - 1)).ctxs ∧ t.parts = (hostPartReset s (fn - 1)).parts) ∧
  (∀ (s : State) (fn kind : Nat), pinsDead s = false →
    exec (.pcieUnsupportedRequest fn kind) s =
      .next (if kind ≤ 6 then answerUr s fn 0 true else if kind = 7 then answerUr s fn 0 false else s)) ∧
  (∀ (s : State) (fn rule : Nat), pinsDead s = false →
    exec (.pcieMalformedTlp (some fn) rule) s =
      .next (countBad (report s 0x8002 .none [BitVec.ofNat 64 fn, BitVec.ofNat 64 rule]) fn)) ∧
  (∀ s : State, pinsDead s = false → ∃ t, exec .pciePmeTurnOff s = .next t ∧
    t.hostIf.cpls = s.hostIf.cpls ++ [{ fn := 0, status := 3 }] ∧ t.mem = s.mem ∧ t.ctxs = s.ctxs) ∧
  (∀ s : State, (s.hostIf.linkUp = false → exec .pcieLinkDown s = .next s) ∧
    (s.hostIf.linkUp = true → ∃ t, exec .pcieLinkDown s = .next t ∧ t.hostIf.linkUp = false ∧ t.mem = s.mem ∧ t.ctxs = s.ctxs ∧
      t.parts = s.parts ∧ t.queues = s.queues)) ∧
  (∀ (s : State) (fn bar off len reg kind : Nat) (b : Bool) (v : W64) (bs : List (Option (BitVec 8))), pinsDead s = true →
    exec (.pcieMemoryRead fn bar off len) s = .next s ∧ exec (.pcieMemoryWrite fn bar off b bs) s = .next s ∧
    exec (.pcieConfigRequest fn reg b v) s = .next s ∧ exec (.pcieUnsupportedRequest fn kind) s = .next s) ∧
  ∀ (s : State) (rate width : Nat), pinsDead s = false → s.trust.stage ≠ 11 →
    (s.power.pcieOff && s.img.pcieoff) = false → ∃ t, exec (.pcieLinkUp rate width) s = .next t ∧ t.hostIf.linkUp = true ∧
      t.hostIf.linkRate = (if s.trust.stage = 10 then min 16 rate else rate) ∧ t.hostIf.linkWidth = width ∧
      t.power.pcieOff = false ∧ t.mem = s.mem ∧ t.ctxs = s.ctxs

/-- The SMBus commands (R481 to R484): GET_STATUS and GET_LAST answer, SET_ADDR sets the word address, READ and WRITE move a word and the
address, a sealed partition's word is SEALED, WARM_RESET resets with 0x5A and is refused with 0, FLASH_ERASE takes 0x5A, FLASH_ADDR needs its stage, a bad
PEC discards the command, and the alert answers while ALERT_N is asserted. The byte order of an address is the model's choice (log
entry 26).
Completes, `exec` answering a next state under the hypotheses of its clause alone: `smbGetStatus`, `smbSetAddr`, `smbRead`, `smbWrite`,
`smbGetLast`, `smbWarmReset`, `smbFlashAddr`, `smbFlashRead`, `smbFlashWrite`, `smbFlashErase`, `smbAlertResponse`. -/
def Obligations.SmbusCommandsAnswer : Prop :=
  ∀ s : State, s.dbg.extest = false →
    (exec .smbGetStatus s = .next { s with smb := { s.smb with last := 0, out := [BitVec.ofNat 8 s.trust.stage,
      BitVec.ofNat 8 (alertBits s), BitVec.ofNat 8 s.power.tj, BitVec.ofNat 8 (partCode s.part), BitVec.ofNat 8 s.dev, 0, 0, 0] } }) ∧
    (exec .smbGetLast s = .next { s with smb := { s.smb with out := [BitVec.ofNat 8 s.smb.last] } }) ∧
    (∀ bs, bs.length = 5 → s.trust.stage ≠ 11 →
      (natOfBytesLE bs % 16 = 0 → exec (.smbSetAddr bs false) s =
        .next { s with smb := { s.smb with addr := natOfBytesLE bs, last := 0, out := [] } }) ∧
      (natOfBytesLE bs % 16 ≠ 0 → exec (.smbSetAddr bs false) s = .next { s with smb := { s.smb with last := 1, out := [] } })) ∧
    (∀ bs, exec (.smbSetAddr bs true) s = .next { s with smb := { s.smb with last := 5, out := [] } } ∧
      exec (.smbWrite bs true) s = .next { s with smb := { s.smb with last := 5, out := [] } }) ∧
    (s.smb.addr / 16 < 0xC00000000 → s.trust.stage ≠ 11 → smbSealed s (s.smb.addr / 16) = none → smbReach s (s.smb.addr / 16) = true →
      (∃ t, exec .smbRead s = .next t ∧ t.smb.addr = (s.smb.addr + 16) % 2 ^ 40 ∧
        t.smb.last = (if (homeRead (settleStale s (s.smb.addr / 16 / 8)) (s.smb.addr / 16)).1.tag = tagPOISON then 6 else 0) ∧
        t.ctxs = s.ctxs) ∧
      (∀ bs, bs.length = 9 → ∃ t, exec (.smbWrite bs false) s = .next t ∧ t.smb.addr = (s.smb.addr + 16) % 2 ^ 40 ∧ t.smb.last = 0 ∧
        (windowFills s (s.smb.addr / 16 / 8) = false → readWord t (s.smb.addr / 16) = wordOfHost bs) ∧ t.ctxs = s.ctxs)) ∧
    (∀ p, s.trust.stage ≠ 11 → smbSealed s (s.smb.addr / 16) = some p → ∃ t, exec .smbRead s = .next t ∧ t.smb.last = 2 ∧
      t.smb.out = BitVec.ofNat 8 2 :: smbWordBytes Word.zero ∧ t.mem = s.mem ∧ t.ctxs = s.ctxs) ∧
    (s.trust.stage ≠ 11 → exec (.smbWarmReset [0x5A] false) s =
      .next (warmReset { s with smb := { s.smb with last := 0, out := [] } })) ∧
    (exec (.smbWarmReset [0] false) s = .next { s with smb := { s.smb with last := 4, out := [] } }) ∧
    (∀ bs, bs.length = 4 → (s.trust.stage = 8 ∨ s.trust.stage = 10 → exec (.smbFlashAddr bs false) s =
        .next { s with smb := { s.smb with flash := natOfBytesLE bs, last := 0, out := [] } }) ∧
      (s.trust.stage ≠ 8 → s.trust.stage ≠ 10 → exec (.smbFlashAddr bs false) s =
        .next { s with smb := { s.smb with last := 4, out := [] } })) ∧
    (s.trust.stage = 8 → s.flash.ops = [] →
      (s.smb.flash + 32 ≤ 0x4000000 → exec .smbFlashRead s = .next { s with smb := { s.smb with
        flash := (s.smb.flash + 32) % 2 ^ 32, last := 0
        out := (List.range 32).map fun i => BitVec.ofNat 8 (flashByte s (s.smb.flash + i)) } }) ∧
      (∀ bs, 1 ≤ bs.length → bs.length ≤ 32 → flashRange s s.smb.flash bs.length = true → exec (.smbFlashWrite bs false) s =
        .next { s with smb := { s.smb with last := 0, out := [] }, flash := { s.flash with ops := [(.write s.smb.flash bs, 0)] } }) ∧
      (flashReach s s.smb.flash = true → exec (.smbFlashErase [0x5A] false) s =
        .next { s with smb := { s.smb with last := 0, out := [] }, flash := { s.flash with ops := [(.erase s.smb.flash, 0)] } })) ∧
    (alertN s = true → exec .smbAlertResponse s =
      .next { s with smb := { s.smb with out := [BitVec.ofNat 8 ((0x60 + s.dev) * 2)] } }) ∧
    (alertN s = false → exec .smbAlertResponse s = .next s)

/-! ## JTAG and debug (R394, R396, R487 to R492) -/

/-- JTAG_EXTEST, DBG_CHAL_CAPTURE, DBG_TOKEN and the operations of `DBG_CMD`: each answers at its level, REFUSED below it and SEALED for a
sealed partition's state, and changes nothing then but the register and the record; a token accepted raises the level, one
refused counts, and the fifth is ignored.
Completes, `exec` answering a next state under the hypotheses of its clause alone: `jtagExtest`, `dbgChalCapture`, `dbgToken`, `dbgNop`,
`dbgReadBoot`, `dbgReadDcs`, `dbgReadMem`, `dbgWriteMem`, `dbgReadCtx`, `dbgWriteCtx`, `dbgHalt`, `dbgStep`, `dbgResume`, `dbgReadMatch`,
`dbgReadPatch`, `dbgReadRom`, `dbgTraceCtl`, `dbgTraceRead`. -/
def Obligations.DebugChainAnswers : Prop :=
  ∀ s : State, s.dbg.extest = false →
    (∃ t, exec .dbgNop s = .next t ∧ t.dbg.status = 0 ∧ t.dbg.op = 0 ∧ t.dbg.data = s.dbg.data ∧ t.mem = s.mem ∧ t.ctxs = s.ctxs) ∧
    (∃ t, exec .dbgReadBoot s = .next t ∧ t.dbg.status = 0 ∧ t.dbg.data = Word.fixN s.trust.stage ∧ t.mem = s.mem ∧ t.ctxs = s.ctxs) ∧
    (∃ t, exec .dbgChalCapture s = .next t ∧ t.dbg.draws = s.dbg.draws + 1 ∧ t.dbg.nonce.length = 64 ∧ t.mem = s.mem ∧ t.ctxs = s.ctxs) ∧
    (∀ bs, 4 ≤ s.dbg.refusals → exec (.dbgToken bs) s = .next s) ∧
    (∀ bs, s.dbg.refusals < 4 → (bs[0]?).getD 0 ≠ 2 → exec (.dbgToken bs) s = .next (if tokenOk s bs = true
      then report { s with trust := { s.trust with dbgLevel := max s.trust.dbgLevel ((bs[0]?).getD 0).toNat } } 0xA004 .none
        [BitVec.ofNat 64 ((bs[0]?).getD 0).toNat]
      else report { s with dbg := { s.dbg with refusals := s.dbg.refusals + 1 } } 0xA004 .none [BitVec.ofInt 64 (-1)])) ∧
    (s.trust.dbgLevel = 0 → ∀ c ix w a, dbgSealedCtx s c = none → dbgSealedMem s (a % 2 ^ 36) = none →
      ∀ i ∈ [Instr.dbgReadMem a, .dbgWriteMem a w, .dbgReadCtx c ix, .dbgHalt c, .dbgStep c, .dbgResume c,
        .dbgReadMatch 0 0 ix, .dbgReadPatch 0 0 ix 0, .dbgReadRom ix 0, .dbgTraceCtl 0 0, .dbgTraceRead 0 ix],
      ∃ t, exec i s = .next t ∧ t.dbg.status = 4 ∧ t.mem = s.mem ∧ t.ctxs = s.ctxs) ∧
    (∀ c ix w p, dbgSealedCtx s c = some p → ∀ i ∈ [Instr.dbgReadCtx c ix, .dbgWriteCtx c ix w, .dbgHalt c, .dbgStep c, .dbgResume c],
      ∃ t, exec i s = .next t ∧ t.dbg.status = 2 ∧ t.mem = s.mem ∧ t.ctxs = s.ctxs) ∧
    (∀ a, dbgOpenDcs (a % 2 ^ 36) = true → smbSealed s (a % 2 ^ 36) = none → (dcsRead s (a % 2 ^ 36)).tag ≠ tagPOISON →
      ∃ t, exec (.dbgReadDcs a) s = .next t ∧ t.dbg.status = 0 ∧ t.dbg.data = dcsRead s (a % 2 ^ 36) ∧ t.mem = s.mem) ∧
    (1 ≤ s.trust.dbgLevel → ∀ a w, dbgSealedMem s (a % 2 ^ 36) = none → memExists s (a % 2 ^ 36) = true →
      (∃ t, exec (.dbgReadMem a) s = .next t ∧ t.dbg.data = (homeRead (settleStale s (a % 2 ^ 36 / 8)) (a % 2 ^ 36)).1 ∧
        t.ctxs = s.ctxs) ∧
      ∃ t, exec (.dbgWriteMem a w) s = .next t ∧ t.dbg.status = 0 ∧ t.ctxs = s.ctxs ∧
        (windowFills s (a % 2 ^ 36 / 8) = false → readWord t (a % 2 ^ 36) = w)) ∧
    (1 ≤ s.trust.dbgLevel → ∀ c, owned s c = true → dbgSealedCtx s c = none →
      (∀ r, r < 64 → ∃ t, exec (.dbgReadCtx c r) s = .next t ∧ t.dbg.data = snapG (getCtx s c) r ∧ t.mem = s.mem ∧ t.ctxs = s.ctxs) ∧
      (∀ r w, r < 64 → (getCtx s c).dbgHalt = true → ∃ t, exec (.dbgWriteCtx c r w) s = .next t ∧ t.dbg.status = 0 ∧
        t.dbg.data = w ∧ gOf (getCtx t c) r = gOf (getCtx (writeG s c r w) c) r ∧ t.mem = (writeG s c r w).mem) ∧
      (∃ t, exec (.dbgHalt c) s = .next t ∧ getCtx t c = { getCtx s c with dbgHalt := true, dbgStep := false } ∧ t.mem = s.mem) ∧
      (∃ t, exec (.dbgStep c) s = .next t ∧ getCtx t c = { getCtx s c with dbgStep := (getCtx s c).dbgHalt } ∧ t.mem = s.mem) ∧
      ∃ t, exec (.dbgResume c) s = .next t ∧ getCtx t c = { getCtx s c with dbgHalt := false, dbgStep := false } ∧ t.mem = s.mem) ∧
    (2 ≤ s.trust.dbgLevel → ∀ cl en ix part, cl < s.part.clusters → en < 2 → part < 3 →
      (ix < 64 → ∃ t, exec (.dbgReadMatch cl en ix) s = .next t ∧ t.dbg.data = Word.fixN (tget 0 s.trust.matchRegs ix) ∧
        t.mem = s.mem ∧ t.ctxs = s.ctxs) ∧
      (ix < 256 → ∃ t, exec (.dbgReadPatch cl en ix part) s = .next t ∧ t.dbg.data = mwPart (tget 0 s.trust.patch ix) part ∧
        t.mem = s.mem ∧ t.ctxs = s.ctxs) ∧
      (ix < 16384 → ∃ t, exec (.dbgReadRom ix part) s = .next t ∧ t.dbg.data = mwPart (Config.romMicroword ix) part ∧
        t.mem = s.mem ∧ t.ctxs = s.ctxs)) ∧
    (1 ≤ s.trust.dbgLevel → ∀ die v ix, die < s.part.dies →
      (bits v 1 0 ≠ 3 → ∃ t, exec (.dbgTraceCtl die v) s = .next t ∧ (traceOf t die).mode = bits v 1 0 ∧
        (traceOf t die).ents = (traceOf s die).ents ∧ t.mem = s.mem ∧ t.ctxs = s.ctxs) ∧
      (s.trust.dbgLevel = 2 → ix < 8192 → ∃ t, exec (.dbgTraceRead die ix) s = .next t ∧ t.dbg.status = 0 ∧
        t.dbg.data = tget Word.zero (traceOf s die).ents ix ∧ t.mem = s.mem ∧ t.ctxs = s.ctxs)) ∧
    exec .jtagExtest s = .next (modDbg (linkDown ((List.range s.part.ports).foldl (fun s p => linkFail s p 6) (resetSealed s)))
      fun d => { d with extest := true })

/-! ## Reflection (R399 to R420) -/

/-- PAIR_FORMATION_TIMEOUT, HEARTBEAT_SEND, TWIN_ALIVE_EDGE, TWIN_ALIVE_SILENT, TWIN_ALIVE_PATTERN_EDGE, SETTLE_WINDOW_END, REFLECT_LINK_LOSS,
RFCMD_FORM, RFCMD_STANDDOWN and RFCMD_RELINQUISH (R401, R402, R408, R415 to R417, R420): a Primary without its pair runs SOLO after 10 ms; a
heartbeat goes out on every port in use each 20 µs; a flow that a takeover has left withdrawn is tried again with it
(log entry 43); edges classify TWIN_ALIVE_I by their spacing and its absence as SILENT; a
pattern's edge is driven when due; a lost link makes each side act by the table of R416.
Completes, `exec` answering a next state under the hypotheses of its clause alone: `rfcmdForm`, `rfcmdStanddown`, `rfcmdRelinquish`,
`heartbeatSend`, `pairFormationTimeout`, `reflectLinkLoss`, `twinAliveEdge`, `twinAliveSilent`, `twinAlivePatternEdge`, `settleWindowEnd`. -/
def Obligations.PairsFormAndPart : Prop :=
  (∀ (s : State) (t0 : Nat), s.refl.releaseTime = some t0 → s.refl.state = 1 → s.refl.role = false → s.refl.running = false →
    (t0 + 10000000 ≤ s.time → exec .pairFormationTimeout s = .next (setRefl (startMirrored s) 5)) ∧
    (s.time < t0 + 10000000 → exec .pairFormationTimeout s = .next s)) ∧
  (∀ s : State, (s.refl.state = 0 ∨ s.time < s.refl.lastHbOut + 20000 → exec .heartbeatSend s = .next s) ∧
    (s.refl.state ≠ 0 → s.refl.lastHbOut + 20000 ≤ s.time → exec .heartbeatSend s = .next ((reflUp s).foldl (fun t p => sendItem4 t p
        { desc := itemDesc 6 t.refl.current (t.refl.state + b2n t.refl.role * 16 + t.dev * 256), words := [] })
      (retryLate { s with refl := { s.refl with lastHbOut := s.time } })) ∧
    ((∀ e ∈ s.flows, e.2.late = false) → retryLate s = s))) ∧
  (∀ (s : State) (t0 : Nat), s.refl.lastEdgeIn = some t0 → t0 ≤ s.time →
    let s1 : State := { s with refl := { s.refl with pinIn := !s.refl.pinIn, lastEdgeIn := some s.time } }
    (30000 ≤ s.time - t0 → s.time - t0 ≤ 70000 → exec .twinAliveEdge s = .next (classify s1 1)) ∧
    (6000 ≤ s.time - t0 → s.time - t0 ≤ 14000 → exec .twinAliveEdge s = .next (classify s1 2)) ∧
    (1000 ≤ s.time - t0 → s.time - t0 ≤ 3000 → exec .twinAliveEdge s = .next (classify s1 3)) ∧
    (s.time - t0 < 1000 ∨ 70000 < s.time - t0 →
      exec .twinAliveEdge s = .next (report s1 0xB003 .device [BitVec.ofNat 64 (s.time - t0)] (some (twinWit s)))) ∧
    (t0 + 500000 ≤ s.time → exec .twinAliveSilent s = .next (classify s 0)) ∧
    (s.time < t0 + 500000 → exec .twinAliveSilent s = .next s)) ∧
  (∀ (s : State) (n : Nat), (s.refl.hbIn = n → classify s n = s) ∧
    (s.refl.hbIn ≠ n → s.refl.state ≠ 4 → s.refl.settle = none → classify s n = { s with refl := { s.refl with hbIn := n } })) ∧
  (∀ s : State, (alivePattern s = 0 → exec .twinAlivePatternEdge s = .next s) ∧
    (alivePattern s ≠ 0 → s.refl.lastEdgeOut + patternInterval (alivePattern s) ≤ s.time → exec .twinAlivePatternEdge s =
      .next { s with refl := { s.refl with pinOut := !s.refl.pinOut, lastEdgeOut := s.time } })) ∧
  (∀ (s : State) (t0 : Nat), s.refl.settle = some t0 →
    (s.time < t0 + 500000 → exec .settleWindowEnd s = .next s) ∧
    (t0 + 500000 ≤ s.time → s.refl.hbIn = 0 → exec .settleWindowEnd s = .next (beginTakeover s)) ∧
    (t0 + 500000 ≤ s.time → s.refl.hbIn = 1 → exec .settleWindowEnd s = .next (relinquish s))) ∧
  (∀ s : State, (linkLost s = false → exec .reflectLinkLoss s = .next s) ∧
    (linkLost s = true → s.refl.state = 3 →
      (s.refl.role = false → s.refl.hbIn = 1 → exec .reflectLinkLoss s = .next (setRefl s 4)) ∧
      (s.refl.role = false → s.refl.hbIn = 3 → exec .reflectLinkLoss s = .next (fence s)) ∧
      (s.refl.role = false → s.refl.hbIn = 0 ∨ s.refl.hbIn = 2 → exec .reflectLinkLoss s = .next (goSolo s)) ∧
      (s.refl.role = true → s.refl.hbIn = 0 → exec .reflectLinkLoss s = .next (beginTakeover s)) ∧
      (s.refl.role = true → s.refl.hbIn ≠ 0 → exec .reflectLinkLoss s =
        .next (setRefl { s with refl := { s.refl with settle := some s.time } } 4)))) ∧
  ∀ s : State,
    (s.refl.state = 6 ∨ s.refl.state = 5 ∨ s.refl.refuse ≠ 0 → exec .rfcmdForm s =
      .next (setRefl { s with refl := { s.refl with refuse := 0, relinq := false } } 1)) ∧
    (s.refl.state ≠ 6 → s.refl.state ≠ 5 → s.refl.refuse = 0 → exec .rfcmdForm s = .next (report s 0xB007 .device [1])) ∧
    (s.refl.running = true → exec .rfcmdStanddown s = .next (fence s)) ∧
    (s.refl.running = false → exec .rfcmdStanddown s = .next (report s 0xB007 .device [2])) ∧
    (s.refl.role = true → s.refl.state = 3 → exec .rfcmdRelinquish s = .next (relinquish s)) ∧
    (s.refl.role = false ∨ s.refl.state ≠ 3 → exec .rfcmdRelinquish s = .next (report s 0xB007 .device [3]))

/-- EPOCH_END_TRIGGER, EPOCH_CAPTURE and the items REFLECT_LINE to REFLECT_REKEY, with JOURNAL_APPLY_DONE (R395, R405 to R413, R417, R419): an epoch
that is due begins to end; once its contexts are quiet it is captured and the next one opens; a SYNCED Twin enters an item in its
journal, and a line of the copy in memory; an acknowledgement of the last epoch releases its outputs; a record whose tag holds is acted
on; keys are renewed when due; the committed lines reach memory.
Completes, `exec` answering a next state under the hypotheses of its clause alone: `epochEndTrigger`, `epochCapture`, `reflectLine`, `reflectSnap`,
`reflectPstate`, `reflectQdesc`, `reflectFailed`, `reflectEmslot`, `reflectAfterglow`, `reflectGcmTag`, `reflectEpochEnd`, `journalApplyDone`,
`reflectEpochAck`, `reflectHeartbeat`, `reflectRekey`. -/
def Obligations.EpochsReachTheTwin : Prop :=
  (∀ s : State, s.refl.running = true → s.refl.role = false → 2 ≤ s.refl.state → s.refl.state ≤ 4 → s.refl.ending = false →
    s.refl.acked = true → s.refl.epochStart + 10000000 ≤ s.time →
    exec .epochEndTrigger s = .next (holdMirrored { s with refl := { s.refl with ending := true } })) ∧
  (∀ s : State, s.refl.running = false ∨ s.refl.role = true ∨ s.refl.ending = true ∨ s.refl.acked = false ∨
    s.time < s.refl.epochStart + 100000 → exec .epochEndTrigger s = .next s) ∧
  (∀ s : State, (s.refl.ending = false → exec .epochCapture s = .next s) ∧
    (∀ c ∈ mirroredCtxs s, ctxQuiet s c = false → exec .epochCapture s = .next s) ∧
    (s.refl.ending = true → (∀ c ∈ mirroredCtxs s, ctxQuiet s c = true) → ∃ t, exec .epochCapture s = .next t ∧ t.refl.ending = false ∧
      t.refl.acked = false ∧ t.refl.current = s.refl.current + 1 ∧ t.refl.openLines = [] ∧ t.refl.epochStart = s.time ∧
      t.refl.state = s.refl.state)) ∧
  (∀ (s : State) (port : Nat) (d : W64) (ws : List Word), linkOpen s port = true → (getPort s port).st = 5 → bits d 59 56 = 0 →
    bits d 39 36 = 0 → s.refl.authed = false → s.refl.role = true → s.refl.state = 3 → halfBusy s d = false →
    (∀ e ∈ [(Instr.reflectLine port d ws, 0, ws), (.reflectSnap port d ws, 1, ws), (.reflectPstate port d ws, 2, ws),
        (.reflectQdesc port d ws, 3, ws), (.reflectEpochEnd port d, 4, []), (.reflectAfterglow port d ws, 7, ws),
        (.reflectFailed port d ws, 9, ws), (.reflectEmslot port d ws, 10, ws)],
      bits d 55 40 ≠ 0 → ({ desc := asKind d e.2.1, words := e.2.2 } : RefItem) ∉ s.refl.half →
      exec e.1 s = .next (commitEpoch (modRefl (rxFlit s port 2 1) fun r =>
        { r with half := r.half ++ [{ desc := asKind d e.2.1, words := e.2.2 }] }) port)) ∧
    (∀ k, bits d 55 40 = 0 → ws.length = 8 → k < 8 → ∃ t, exec (.reflectLine port d ws) s = .next t ∧
      readWord t (bits d 35 0 / 8 * 8 + k) = (ws[k]?).getD Word.zero ∧ t.ctxs = s.ctxs)) ∧
  (∀ (s : State) (port : Nat) (d : W64), linkOpen s port = true → (getPort s port).st = 5 → bits d 59 56 = 0 → bits d 39 36 = 0 →
    s.refl.authed = false →
    (s.refl.role = false → s.refl.acked = false → s.refl.state = 3 → bits d 31 0 = (s.refl.current + 2 ^ 32 - 1) % 2 ^ 32 →
      exec (.reflectEpochAck port d) s = .next (releaseOuts (modRefl (rxFlit s port 4 1) fun r =>
        { r with acked := true, committed := bits d 31 0 }) fun e => decide (e < s.refl.current))) ∧
    (s.refl.acked = true → exec (.reflectEpochAck port d) s = .next (rxFlit s port 4 1)) ∧
    (s.img.reflect = none → exec (.reflectHeartbeat port d) s =
      .next (modRefl (rxFlit s port 4 1) fun r => { r with lastHb := some s.time }))) ∧
  (∀ (s : State) (port : Nat) (d : W64) (ws : List Word), linkOpen s port = true → (getPort s port).st = 5 → s.refl.authed = true →
    bits d 59 56 = 0 → bits d 39 36 = 0 →
    let s2 := modRefl (rxFlit s port 2 1) fun r => { r with gcmBuf := [], gcmIn := r.gcmIn + 1 }
    s.refl.gcmBuf.length ≤ 64 → bits d 31 0 = s.refl.gcmIn % 2 ^ 32 →
    exec (.reflectGcmTag port d ws) s = .next (
      if Config.gcmVerify s.refl.gcmKey s.refl.gcmIn ((s.refl.gcmBuf.flatMap RefItem.all).map gcmWord) (fpay ws 0, fpay ws 1) = true
      then s.refl.gcmBuf.foldl (fun s i => actItem s port i) s2 else linkFail (drawNat s2).2 port (1 + (drawNat s2).1 % 5))) ∧
  (∀ s : State, (s.refl.authed = false → exec .reflectRekey s = .next s) ∧
    (s.refl.authed = true → s.refl.gcmSince + 3600000000000 ≤ s.time → exec .reflectRekey s = .next (
      let s2 := (drawBool (drawNat s).2).2
      if (drawBool (drawNat s).2).1 = true then (reflUp s2).foldl (fun s p => linkFail s p 6) s2
      else modRefl s2 fun r => { r with gcmKey := (drawNat s).1, gcmCount := 0, gcmIn := 0, gcmSince := s.time }))) ∧
  ∀ s : State, s.refl.taking = false → exec .journalApplyDone s =
    .next (modRefl (s.refl.applying.foldl (fun s i => writeWords s (bits i.desc 35 0 / 8 * 8) (i.words.take 8)) s) fun r =>
      { r with applying := [] })

/-! ## The fuses (R378, R380, R381) -/

/-- No step takes back what the fuses record: the minimum versions of firmware, capsules and images never fall. -/
def Obligations.FusesNeverFall : Prop :=
  ∀ s t : State, step s = .next t → s.trust.fwSvnMin ≤ t.trust.fwSvnMin ∧ s.trust.capSvnMin ≤ t.trust.capSvnMin ∧
    (∀ i, tget 0 s.trust.imgSvnMin i ≤ tget 0 t.trust.imgSvnMin i)
end

