-- ==== Sys2Proof/Laws/Tables.lean ====
section
/-!
SUPPORT. The laws of the sparse tables and of memory: reading after a write, and the canonical form kept by every write.
-/

namespace Sys2Proof.Machine
open Sys2Proof

@[simp] theorem tget_nil {α : Type} (d : α) (n : Nat) : tget d [] n = d := rfl

@[simp] theorem tget_cons_same {α : Type} (d : α) (n : Nat) (v : α) (t : Tab α) : tget d ((n, v) :: t) n = v := by simp [tget]

/-- A key just set reads as its value. -/
@[simp] theorem tget_tput_same {α : Type} (d : α) (t : Tab α) (n : Nat) (v : α) : tget d (tput t n v) n = v := by
  induction t with
  | nil => simp [tput]
  | cons e t ih =>
    simp only [tput]
    split
    · simp [tget]
    · split
      · simp [tget]
      · rename_i h1 _; simp [tget, h1, ih]

/-- Setting one key leaves every other key. -/
@[simp] theorem tget_tput_ne {α : Type} (d : α) (t : Tab α) {n m : Nat} (v : α) (h : m ≠ n) :
    tget d (tput t n v) m = tget d t m := by
  induction t with
  | nil => simp [tput, tget, h]
  | cons e t ih =>
    simp only [tput]
    split
    · rename_i h1; subst h1; simp [tget, h]
    · split
      · simp [tget, h]
      · simp [tget, ih]

theorem tget_tput {α : Type} (d : α) (t : Tab α) (n m : Nat) (v : α) :
    tget d (tput t n v) m = if m = n then v else tget d t m := by
  by_cases h : m = n
  · subst h; simp
  · simp [h]

/-- Setting one key twice is setting it once. -/
@[simp] theorem tput_tput_same {α : Type} (t : Tab α) (n : Nat) (v w : α) : tput (tput t n v) n w = tput t n w := by
  induction t with
  | nil => simp [tput]
  | cons e t ih =>
    simp only [tput]
    split
    · simp [tput]
    · split
      · simp [tput]
      · rename_i h1 h2; simp [tput, h1, h2, ih]

/-- A removed key reads as the default. -/
@[simp] theorem tget_tdel_same {α : Type} (d : α) (t : Tab α) (n : Nat) : tget d (tdel t n) n = d := by
  induction t with
  | nil => rfl
  | cons e t ih =>
    simp only [tdel, List.filter_cons]
    split
    · rename_i h
      have : ¬ n = e.1 := by intro h'; subst h'; simp at h
      simp only [tget, this, if_false]
      exact ih
    · exact ih

@[simp] theorem tget_tdel_ne {α : Type} (d : α) (t : Tab α) {n m : Nat} (h : m ≠ n) : tget d (tdel t n) m = tget d t m := by
  induction t with
  | nil => rfl
  | cons e t ih =>
    simp only [tdel, List.filter_cons]
    split
    · simp only [tget]; split
      · rfl
      · exact ih
    · rename_i h'
      have : e.1 = n := by simpa using h'
      have : ¬ m = e.1 := by rw [this]; exact h
      simp only [tget, this, if_false]
      exact ih

/-! ## Memory -/

/-- Reading the word just written. -/
@[simp] theorem memGet_memPut_same (m : List (Nat × Word)) (a : Nat) (w : Word) : memGet (memPut m a w) a = w := by
  unfold memGet memPut
  split
  · rename_i h; subst h; simp
  · simp

/-- A write leaves every other word. -/
@[simp] theorem memGet_memPut_ne (m : List (Nat × Word)) {a b : Nat} (w : Word) (h : b ≠ a) :
    memGet (memPut m a w) b = memGet m b := by
  unfold memGet memPut
  split
  · simp [h]
  · simp [h]

theorem mem_of_mem_tput {α : Type} {t : Tab α} {n : Nat} {v : α} {x : Nat × α} (h : x ∈ tput t n v) :
    x = (n, v) ∨ (x ∈ t ∧ x.1 ≠ n) ∨ x ∈ t := by
  induction t with
  | nil => simp [tput] at h; exact .inl h
  | cons e t ih =>
    simp only [tput] at h
    split at h
    · simp only [List.mem_cons] at h ⊢
      rcases h with h | h
      · exact .inl h
      · exact .inr (.inr (.inr h))
    · split at h
      · simp only [List.mem_cons] at h ⊢
        rcases h with h | h | h
        · exact .inl h
        · exact .inr (.inr (.inl h))
        · exact .inr (.inr (.inr h))
      · simp only [List.mem_cons] at h ⊢
        rcases h with h | h
        · exact .inr (.inr (.inl h))
        · rcases ih h with h | h | h
          · exact .inl h
          · exact .inr (.inr (.inr h.1))
          · exact .inr (.inr (.inr h))

theorem pairwise_tput {α : Type} (t : Tab α) (n : Nat) (v : α) (h : t.Pairwise fun a b => a.1 < b.1) :
    (tput t n v).Pairwise fun a b => a.1 < b.1 := by
  induction t with
  | nil => simp [tput]
  | cons e t ih =>
    obtain ⟨he, ht⟩ := List.pairwise_cons.mp h
    simp only [tput]
    split
    · rename_i h1; subst h1; exact List.pairwise_cons.mpr ⟨he, ht⟩
    · split
      · rename_i h2
        refine List.pairwise_cons.mpr ⟨?_, h⟩
        intro x hx
        rcases List.mem_cons.mp hx with hx | hx
        · subst hx; exact h2
        · exact Nat.lt_trans h2 (he x hx)
      · rename_i h1 h2
        refine List.pairwise_cons.mpr ⟨?_, ih ht⟩
        intro x hx
        rcases mem_of_mem_tput hx with hx | hx | hx
        · subst hx; simp only; omega
        · exact he x hx.1
        · exact he x hx

/-- Every write keeps memory's canonical form. -/
theorem wf_memPut (m : List (Nat × Word)) (a : Nat) (w : Word) (h : Memory.wf m = true) : Memory.wf (memPut m a w) = true := by
  unfold Memory.wf at h ⊢
  simp only [Bool.and_eq_true, decide_eq_true_eq, List.all_eq_true] at h ⊢
  obtain ⟨hp, hz⟩ := h
  unfold memPut
  split
  · exact ⟨List.Pairwise.filter _ hp, fun x hx => hz x (List.mem_filter.mp hx).1⟩
  · rename_i hw
    refine ⟨pairwise_tput m a w hp, fun x hx => ?_⟩
    rcases mem_of_mem_tput hx with hx | hx | hx
    · subst hx; exact hw
    · exact hz x hx.1
    · exact hz x hx

/-- Empty memory is in canonical form. -/
theorem wf_nil : Memory.wf [] = true := by decide

/-! ## Words written to the state's memory -/

@[simp] theorem writeWord_mem (s : State) (a : Nat) (w : Word) : (writeWord s a w).mem = memPut s.mem a w := by
  unfold writeWord; dsimp only; split <;> rfl

theorem readWord_writeWord (s : State) (a b : Nat) (w : Word) :
    readWord (writeWord s a w) b = if b = a then w else readWord s b := by
  unfold readWord
  by_cases h : b = a
  · subst h; simp
  · simp [h]

theorem readWord_writeWords_low (s : State) (a b : Nat) (ws : List Word) (h : b < a) :
    readWord (writeWords s a ws) b = readWord s b := by
  induction ws generalizing s a with
  | nil => rfl
  | cons w ws ih =>
    simp only [writeWords]
    rw [ih _ _ (by omega), readWord_writeWord]
    have : ¬ b = a := by omega
    simp [this]

/-- A run of words written reads back word by word; every other word is as before. -/
theorem readWord_writeWords (s : State) (a b : Nat) (ws : List Word) :
    readWord (writeWords s a ws) b = if a ≤ b ∧ b < a + ws.length then (ws[b - a]?).getD Word.zero else readWord s b := by
  induction ws generalizing s a with
  | nil => simp only [writeWords, List.length_nil]; rw [if_neg (by omega)]
  | cons w ws ih =>
    simp only [writeWords, List.length_cons]
    rw [ih]
    by_cases h1 : b = a
    · subst h1
      rw [if_neg (by omega), if_pos (by omega), readWord_writeWord]
      simp
    · rw [readWord_writeWord, if_neg h1]
      by_cases h2 : a + 1 ≤ b ∧ b < a + 1 + ws.length
      · rw [if_pos h2, if_pos (by omega)]
        have : b - a = (b - (a + 1)) + 1 := by omega
        rw [this]; simp
      · rw [if_neg h2, if_neg (by omega)]

theorem wf_writeWord (s : State) (a : Nat) (w : Word) (h : Memory.wf s.mem = true) : Memory.wf (writeWord s a w).mem = true := by
  rw [writeWord_mem]; exact wf_memPut _ _ _ h

theorem wf_writeWords (s : State) (a : Nat) (ws : List Word) (h : Memory.wf s.mem = true) :
    Memory.wf (writeWords s a ws).mem = true := by
  induction ws generalizing s a with
  | nil => exact h
  | cons w ws ih => exact ih _ _ (wf_writeWord _ _ _ h)

end Sys2Proof.Machine
end

