-- ==== Sys2Proof/Laws/Shared.lean ====
section
/-!
SUPPORT. For each operation that many meanings share, one lemma that says everything it can do: the fields it may change, and
that memory keeps its canonical form and every word that the operation does not write.
-/

namespace Sys2Proof.Machine
open Sys2Proof

/-! ## Free values and fresh numbers -/

@[simp] theorem drawBool_state (s : State) : (drawBool s).2 = { s with freeIx := s.freeIx + 1 } := rfl
@[simp] theorem drawNat_state (s : State) : (drawNat s).2 = { s with freeIx := s.freeIx + 1 } := rfl
@[simp] theorem drawWord_state (s : State) : (drawWord s).2 = { s with freeIx := s.freeIx + 1 } := rfl
@[simp] theorem freshOp_state (s : State) : (freshOp s).2 = { s with nextOp := s.nextOp + 1 } := rfl

/-! ## Reports and messages -/

/-- A report is recorded or counted as lost; nothing else changes. -/
theorem enterReport_spec (s : State) (r : Report) :
    enterReport s r = { s with reports := s.reports ++ [r] } ∨
    enterReport s r = { s with glow := { s.glow with
      repLost := min 0xFFFF (s.glow.repLost + 1), lostNow := s.glow.lostNow + 1 } } := by
  unfold enterReport; split
  · exact .inl rfl
  · exact .inr rfl

theorem report_spec (s : State) (code : Nat) (subj : Subject) (pay : List W64) (wit : Option Subject) :
    ∃ rs gl, report s code subj pay wit = { s with reports := rs, glow := gl } := by
  rcases enterReport_spec s { code, subj, pay, wit, time := s.time } with h | h
  · exact ⟨_, s.glow, h⟩
  · exact ⟨s.reports, _, h⟩

/-- A message of an engine is on its way on this device, waits to leave it, or is held for its epoch. -/
theorem sendHw_spec (s : State) (kind : MsgKind) (part qid : Nat) (words : List Word) :
    ∃ ms ob ho, sendHw s kind part qid words =
      { s with msgs := ms, outbox := ob, refl := { s.refl with heldOuts := ho } } := by
  unfold sendHw; dsimp only; split
  · exact ⟨s.msgs, s.outbox, _, rfl⟩
  · split
    · exact ⟨_, s.outbox, s.refl.heldOuts, rfl⟩
    · exact ⟨s.msgs, _, s.refl.heldOuts, rfl⟩

/-- A doorbell changes its partition's `PDBELL` and sends at most one message. -/
theorem ringDoorbell_spec (s : State) (p b : Nat) :
    ringDoorbell s p b = s ∨ ∃ ms ob ho, ringDoorbell s p b =
      { s with parts := tput s.parts p { getPart s p with pdbell := (getPart s p).pdbell ||| flagBit true b }
               msgs := ms, outbox := ob, refl := { s.refl with heldOuts := ho } } := by
  unfold ringDoorbell; dsimp only; split
  · exact .inl rfl
  · right
    obtain ⟨ms, ob, ho, h⟩ := sendHw_spec (setPart s p { getPart s p with pdbell := (getPart s p).pdbell ||| flagBit true b })
      .doorbell p (s.dev * 65536 + bits (getPart s p).pdbq 15 0) [Word.fixN b]
    exact ⟨ms, ob, ho, h⟩

/-- A control message changes the port that it leaves by. -/
theorem sendCtrl_spec (s : State) (target op part : Nat) (args : List Word) (token : Nat) :
    ∃ ps, sendCtrl s target op part args token = { s with ports := ps } := ⟨_, rfl⟩

/-! ## Memory and its copies -/

/-- A word written changes memory and what the Reflection keeps of it. -/
theorem writeWord_spec (s : State) (a : Nat) (w : Word) :
    ∃ rf, writeWord s a w = { s with mem := memPut s.mem a w, refl := rf } := by
  unfold writeWord; dsimp only; split
  · exact ⟨_, rfl⟩
  · exact ⟨s.refl, rfl⟩

theorem writeWords_spec (s : State) (a : Nat) (ws : List Word) :
    ∃ m rf, writeWords s a ws = { s with mem := m, refl := rf } := by
  induction ws generalizing s a with
  | nil => exact ⟨s.mem, s.refl, rfl⟩
  | cons w ws ih =>
    obtain ⟨rf, h⟩ := writeWord_spec s a w
    obtain ⟨m, rf', h'⟩ := ih (writeWord s a w) (a + 1)
    exact ⟨m, rf', by rw [writeWords, h', h]⟩

theorem discardLine_spec (s : State) (line : Nat) :
    ∃ cs ks d, discardLine s line = { s with cores := cs, clusters := ks, dir := d } := ⟨_, _, _, rfl⟩

theorem cleanLine_spec (s : State) (line : Nat) :
    ∃ m rf cs ks d, cleanLine s line = { s with mem := m, refl := rf, cores := cs, clusters := ks, dir := d } := by
  unfold cleanLine; split
  · exact ⟨s.mem, s.refl, s.cores, s.clusters, s.dir, rfl⟩
  · obtain ⟨m, rf, h⟩ := writeWords_spec s (line * 8) (currentLine s line)
    simp only [h]
    exact ⟨m, rf, _, _, _, rfl⟩

theorem flushLine_spec (s : State) (line : Nat) :
    ∃ m rf cs ks d, flushLine s line = { s with mem := m, refl := rf, cores := cs, clusters := ks, dir := d } := by
  obtain ⟨m, rf, cs, ks, d, h⟩ := cleanLine_spec s line
  obtain ⟨cs', ks', d', h'⟩ := discardLine_spec (cleanLine s line) line
  exact ⟨m, rf, cs', ks', d', by rw [flushLine, h', h]⟩

theorem homeWrite_spec (s : State) (pa : Nat) (w : Word) :
    ∃ m rf cs ks d, homeWrite s pa w = { s with mem := m, refl := rf, cores := cs, clusters := ks, dir := d } := by
  obtain ⟨m, rf, cs, ks, d, h⟩ := flushLine_spec s (pa / 8)
  obtain ⟨rf', h'⟩ := writeWord_spec (flushLine s (pa / 8)) pa w
  unfold homeWrite; split
  · exact ⟨m, rf, cs, ks, d, h⟩
  · exact ⟨_, rf', cs, ks, d, by rw [h', h]⟩

/-! ## Memory keeps its canonical form -/

theorem wf_cleanLine (s : State) (line : Nat) (h : Memory.wf s.mem = true) : Memory.wf (cleanLine s line).mem = true := by
  unfold cleanLine; split
  · exact h
  · exact wf_writeWords _ _ _ h

@[simp] theorem discardLine_mem (s : State) (line : Nat) : (discardLine s line).mem = s.mem := rfl

theorem wf_flushLine (s : State) (line : Nat) (h : Memory.wf s.mem = true) : Memory.wf (flushLine s line).mem = true :=
  wf_cleanLine s line h

theorem wf_homeWrite (s : State) (pa : Nat) (w : Word) (h : Memory.wf s.mem = true) :
    Memory.wf (homeWrite s pa w).mem = true := by
  unfold homeWrite; split
  · exact wf_flushLine _ _ h
  · exact wf_writeWord _ _ _ (wf_flushLine _ _ h)

/-! ## What memory holds afterwards -/

theorem readWord_of_mem {s t : State} (h : s.mem = t.mem) (a : Nat) : readWord s a = readWord t a := by
  unfold readWord; rw [h]

@[simp] theorem readWord_discardLine (s : State) (line a : Nat) : readWord (discardLine s line) a = readWord s a :=
  readWord_of_mem rfl a

/-- The data of a line has eight words in every copy that the device keeps. -/
theorem length_memLine (s : State) (line : Nat) : (memLine s line).length = 8 := by simp [memLine]

/-- A line cleaned changes no word outside it, where the line's copies hold eight words. -/
theorem readWord_cleanLine (s : State) (line a : Nat) (hl : (currentLine s line).length = 8) (ha : a / 8 ≠ line) :
    readWord (cleanLine s line) a = readWord s a := by
  have out : readWord (writeWords s (line * 8) (currentLine s line)) a = readWord s a := by
    rw [readWord_writeWords, if_neg]; omega
  unfold cleanLine; split
  · rfl
  · exact out

/-- A line flushed changes no word outside it, likewise. -/
theorem readWord_flushLine (s : State) (line a : Nat) (hl : (currentLine s line).length = 8) (ha : a / 8 ≠ line) :
    readWord (flushLine s line) a = readWord s a := by
  rw [flushLine, readWord_discardLine, readWord_cleanLine s line a hl ha]

/-- The word written at its home reads back, outside a sealed window that fills (R391); a word of another line is as before. -/
@[simp] theorem readWord_homeWrite_same (s : State) (pa : Nat) (w : Word) (h : windowFills s (pa / 8) = false) :
    readWord (homeWrite s pa w) pa = w := by
  rw [homeWrite, h, if_neg Bool.false_ne_true, readWord_writeWord, if_pos rfl]

theorem readWord_homeWrite_ne (s : State) (pa a : Nat) (w : Word) (hl : (currentLine s (pa / 8)).length = 8)
    (ha : a / 8 ≠ pa / 8) : readWord (homeWrite s pa w) a = readWord s a := by
  have : ¬ a = pa := fun h => ha (by rw [h])
  unfold homeWrite; split
  · exact readWord_flushLine s _ _ hl ha
  · rw [readWord_writeWord, if_neg this, readWord_flushLine s _ _ hl ha]

end Sys2Proof.Machine
end

