-- ==== Sys2Proof/Laws/State.lean ====
section
/-!
SUPPORT. What each update of a record leaves and what reading a record back gives: one lemma per field per update.
-/

namespace Sys2Proof.Machine
open Sys2Proof

/-! ## setCtx and modCtx -/

@[simp] theorem getCtx_setCtx_same (s : State) (c : Nat) (x : Ctx) : getCtx (setCtx s c x) c = x := by simp [getCtx, setCtx]
@[simp] theorem getCtx_setCtx_ne (s : State) {i j : Nat} (x : Ctx) (h : j ≠ i) : getCtx (setCtx s i x) j = getCtx s j := by simp [getCtx, setCtx, h]
@[simp] theorem getCtx_modCtx_same (s : State) (i : Nat) (f : Ctx → Ctx) : getCtx (modCtx s i f) i = f (getCtx s i) := by simp [modCtx]
@[simp] theorem getCtx_modCtx_ne (s : State) {i j : Nat} (f : Ctx → Ctx) (h : j ≠ i) : getCtx (modCtx s i f) j = getCtx s j := by simp [modCtx, h]
@[simp] theorem getCore_setCtx (s : State) (i j : Nat) (x : Ctx) : getCore (setCtx s i x) j = getCore s j := rfl
@[simp] theorem getCore_modCtx (s : State) (i j : Nat) (f : Ctx → Ctx) : getCore (modCtx s i f) j = getCore s j := rfl
@[simp] theorem getCluster_setCtx (s : State) (i j : Nat) (x : Ctx) : getCluster (setCtx s i x) j = getCluster s j := rfl
@[simp] theorem getCluster_modCtx (s : State) (i j : Nat) (f : Ctx → Ctx) : getCluster (modCtx s i f) j = getCluster s j := rfl
@[simp] theorem getPart_setCtx (s : State) (i j : Nat) (x : Ctx) : getPart (setCtx s i x) j = getPart s j := rfl
@[simp] theorem getPart_modCtx (s : State) (i j : Nat) (f : Ctx → Ctx) : getPart (modCtx s i f) j = getPart s j := rfl
@[simp] theorem getPort_setCtx (s : State) (i j : Nat) (x : Ctx) : getPort (setCtx s i x) j = getPort s j := rfl
@[simp] theorem getPort_modCtx (s : State) (i j : Nat) (f : Ctx → Ctx) : getPort (modCtx s i f) j = getPort s j := rfl
@[simp] theorem getQ_setCtx (s : State) (i j : Nat) (x : Ctx) : getQ (setCtx s i x) j = getQ s j := rfl
@[simp] theorem getQ_modCtx (s : State) (i j : Nat) (f : Ctx → Ctx) : getQ (modCtx s i f) j = getQ s j := rfl
@[simp] theorem setCtx_part (s : State) (i : Nat) (x : Ctx) : (setCtx s i x).part = s.part := rfl
@[simp] theorem modCtx_part (s : State) (i : Nat) (f : Ctx → Ctx) : (modCtx s i f).part = s.part := rfl
@[simp] theorem setCtx_dev (s : State) (i : Nat) (x : Ctx) : (setCtx s i x).dev = s.dev := rfl
@[simp] theorem modCtx_dev (s : State) (i : Nat) (f : Ctx → Ctx) : (modCtx s i f).dev = s.dev := rfl
@[simp] theorem setCtx_time (s : State) (i : Nat) (x : Ctx) : (setCtx s i x).time = s.time := rfl
@[simp] theorem modCtx_time (s : State) (i : Nat) (f : Ctx → Ctx) : (modCtx s i f).time = s.time := rfl
@[simp] theorem setCtx_freeIx (s : State) (i : Nat) (x : Ctx) : (setCtx s i x).freeIx = s.freeIx := rfl
@[simp] theorem modCtx_freeIx (s : State) (i : Nat) (f : Ctx → Ctx) : (modCtx s i f).freeIx = s.freeIx := rfl
@[simp] theorem setCtx_nextOp (s : State) (i : Nat) (x : Ctx) : (setCtx s i x).nextOp = s.nextOp := rfl
@[simp] theorem modCtx_nextOp (s : State) (i : Nat) (f : Ctx → Ctx) : (modCtx s i f).nextOp = s.nextOp := rfl
@[simp] theorem setCtx_mem (s : State) (i : Nat) (x : Ctx) : (setCtx s i x).mem = s.mem := rfl
@[simp] theorem modCtx_mem (s : State) (i : Nat) (f : Ctx → Ctx) : (modCtx s i f).mem = s.mem := rfl
@[simp] theorem setCtx_cores (s : State) (i : Nat) (x : Ctx) : (setCtx s i x).cores = s.cores := rfl
@[simp] theorem modCtx_cores (s : State) (i : Nat) (f : Ctx → Ctx) : (modCtx s i f).cores = s.cores := rfl
@[simp] theorem setCtx_clusters (s : State) (i : Nat) (x : Ctx) : (setCtx s i x).clusters = s.clusters := rfl
@[simp] theorem modCtx_clusters (s : State) (i : Nat) (f : Ctx → Ctx) : (modCtx s i f).clusters = s.clusters := rfl
@[simp] theorem setCtx_dir (s : State) (i : Nat) (x : Ctx) : (setCtx s i x).dir = s.dir := rfl
@[simp] theorem modCtx_dir (s : State) (i : Nat) (f : Ctx → Ctx) : (modCtx s i f).dir = s.dir := rfl
@[simp] theorem setCtx_parts (s : State) (i : Nat) (x : Ctx) : (setCtx s i x).parts = s.parts := rfl
@[simp] theorem modCtx_parts (s : State) (i : Nat) (f : Ctx → Ctx) : (modCtx s i f).parts = s.parts := rfl
@[simp] theorem setCtx_owner (s : State) (i : Nat) (x : Ctx) : (setCtx s i x).owner = s.owner := rfl
@[simp] theorem modCtx_owner (s : State) (i : Nat) (f : Ctx → Ctx) : (modCtx s i f).owner = s.owner := rfl
@[simp] theorem setCtx_unc (s : State) (i : Nat) (x : Ctx) : (setCtx s i x).unc = s.unc := rfl
@[simp] theorem modCtx_unc (s : State) (i : Nat) (f : Ctx → Ctx) : (modCtx s i f).unc = s.unc := rfl
@[simp] theorem setCtx_invals (s : State) (i : Nat) (x : Ctx) : (setCtx s i x).invals = s.invals := rfl
@[simp] theorem modCtx_invals (s : State) (i : Nat) (f : Ctx → Ctx) : (modCtx s i f).invals = s.invals := rfl
@[simp] theorem setCtx_nextInval (s : State) (i : Nat) (x : Ctx) : (setCtx s i x).nextInval = s.nextInval := rfl
@[simp] theorem modCtx_nextInval (s : State) (i : Nat) (f : Ctx → Ctx) : (modCtx s i f).nextInval = s.nextInval := rfl
@[simp] theorem setCtx_nextSeq (s : State) (i : Nat) (x : Ctx) : (setCtx s i x).nextSeq = s.nextSeq := rfl
@[simp] theorem modCtx_nextSeq (s : State) (i : Nat) (f : Ctx → Ctx) : (modCtx s i f).nextSeq = s.nextSeq := rfl
@[simp] theorem setCtx_queues (s : State) (i : Nat) (x : Ctx) : (setCtx s i x).queues = s.queues := rfl
@[simp] theorem modCtx_queues (s : State) (i : Nat) (f : Ctx → Ctx) : (modCtx s i f).queues = s.queues := rfl
@[simp] theorem setCtx_flows (s : State) (i : Nat) (x : Ctx) : (setCtx s i x).flows = s.flows := rfl
@[simp] theorem modCtx_flows (s : State) (i : Nat) (f : Ctx → Ctx) : (modCtx s i f).flows = s.flows := rfl
@[simp] theorem setCtx_inFlows (s : State) (i : Nat) (x : Ctx) : (setCtx s i x).inFlows = s.inFlows := rfl
@[simp] theorem modCtx_inFlows (s : State) (i : Nat) (f : Ctx → Ctx) : (modCtx s i f).inFlows = s.inFlows := rfl
@[simp] theorem setCtx_msgs (s : State) (i : Nat) (x : Ctx) : (setCtx s i x).msgs = s.msgs := rfl
@[simp] theorem modCtx_msgs (s : State) (i : Nat) (f : Ctx → Ctx) : (modCtx s i f).msgs = s.msgs := rfl
@[simp] theorem setCtx_routes (s : State) (i : Nat) (x : Ctx) : (setCtx s i x).routes = s.routes := rfl
@[simp] theorem modCtx_routes (s : State) (i : Nat) (f : Ctx → Ctx) : (modCtx s i f).routes = s.routes := rfl
@[simp] theorem setCtx_remotes (s : State) (i : Nat) (x : Ctx) : (setCtx s i x).remotes = s.remotes := rfl
@[simp] theorem modCtx_remotes (s : State) (i : Nat) (f : Ctx → Ctx) : (modCtx s i f).remotes = s.remotes := rfl
@[simp] theorem setCtx_msix (s : State) (i : Nat) (x : Ctx) : (setCtx s i x).msix = s.msix := rfl
@[simp] theorem modCtx_msix (s : State) (i : Nat) (f : Ctx → Ctx) : (modCtx s i f).msix = s.msix := rfl
@[simp] theorem setCtx_outbox (s : State) (i : Nat) (x : Ctx) : (setCtx s i x).outbox = s.outbox := rfl
@[simp] theorem modCtx_outbox (s : State) (i : Nat) (f : Ctx → Ctx) : (modCtx s i f).outbox = s.outbox := rfl
@[simp] theorem setCtx_reports (s : State) (i : Nat) (x : Ctx) : (setCtx s i x).reports = s.reports := rfl
@[simp] theorem modCtx_reports (s : State) (i : Nat) (f : Ctx → Ctx) : (modCtx s i f).reports = s.reports := rfl
@[simp] theorem setCtx_img (s : State) (i : Nat) (x : Ctx) : (setCtx s i x).img = s.img := rfl
@[simp] theorem modCtx_img (s : State) (i : Nat) (f : Ctx → Ctx) : (modCtx s i f).img = s.img := rfl
@[simp] theorem setCtx_ports (s : State) (i : Nat) (x : Ctx) : (setCtx s i x).ports = s.ports := rfl
@[simp] theorem modCtx_ports (s : State) (i : Nat) (f : Ctx → Ctx) : (modCtx s i f).ports = s.ports := rfl
@[simp] theorem setCtx_tsync (s : State) (i : Nat) (x : Ctx) : (setCtx s i x).tsync = s.tsync := rfl
@[simp] theorem modCtx_tsync (s : State) (i : Nat) (f : Ctx → Ctx) : (modCtx s i f).tsync = s.tsync := rfl
@[simp] theorem setCtx_forwards (s : State) (i : Nat) (x : Ctx) : (setCtx s i x).forwards = s.forwards := rfl
@[simp] theorem modCtx_forwards (s : State) (i : Nat) (f : Ctx → Ctx) : (modCtx s i f).forwards = s.forwards := rfl
@[simp] theorem setCtx_withdrawn (s : State) (i : Nat) (x : Ctx) : (setCtx s i x).withdrawn = s.withdrawn := rfl
@[simp] theorem modCtx_withdrawn (s : State) (i : Nat) (f : Ctx → Ctx) : (modCtx s i f).withdrawn = s.withdrawn := rfl
@[simp] theorem setCtx_trust (s : State) (i : Nat) (x : Ctx) : (setCtx s i x).trust = s.trust := rfl
@[simp] theorem modCtx_trust (s : State) (i : Nat) (f : Ctx → Ctx) : (modCtx s i f).trust = s.trust := rfl
@[simp] theorem setCtx_glow (s : State) (i : Nat) (x : Ctx) : (setCtx s i x).glow = s.glow := rfl
@[simp] theorem modCtx_glow (s : State) (i : Nat) (f : Ctx → Ctx) : (modCtx s i f).glow = s.glow := rfl
@[simp] theorem setCtx_life (s : State) (i : Nat) (x : Ctx) : (setCtx s i x).life = s.life := rfl
@[simp] theorem modCtx_life (s : State) (i : Nat) (f : Ctx → Ctx) : (modCtx s i f).life = s.life := rfl
@[simp] theorem setCtx_cal (s : State) (i : Nat) (x : Ctx) : (setCtx s i x).cal = s.cal := rfl
@[simp] theorem modCtx_cal (s : State) (i : Nat) (f : Ctx → Ctx) : (modCtx s i f).cal = s.cal := rfl
@[simp] theorem setCtx_power (s : State) (i : Nat) (x : Ctx) : (setCtx s i x).power = s.power := rfl
@[simp] theorem modCtx_power (s : State) (i : Nat) (f : Ctx → Ctx) : (modCtx s i f).power = s.power := rfl
@[simp] theorem setCtx_hostIf (s : State) (i : Nat) (x : Ctx) : (setCtx s i x).hostIf = s.hostIf := rfl
@[simp] theorem modCtx_hostIf (s : State) (i : Nat) (f : Ctx → Ctx) : (modCtx s i f).hostIf = s.hostIf := rfl
@[simp] theorem setCtx_flash (s : State) (i : Nat) (x : Ctx) : (setCtx s i x).flash = s.flash := rfl
@[simp] theorem modCtx_flash (s : State) (i : Nat) (f : Ctx → Ctx) : (modCtx s i f).flash = s.flash := rfl
@[simp] theorem setCtx_staging (s : State) (i : Nat) (x : Ctx) : (setCtx s i x).staging = s.staging := rfl
@[simp] theorem modCtx_staging (s : State) (i : Nat) (f : Ctx → Ctx) : (modCtx s i f).staging = s.staging := rfl
@[simp] theorem setCtx_smb (s : State) (i : Nat) (x : Ctx) : (setCtx s i x).smb = s.smb := rfl
@[simp] theorem modCtx_smb (s : State) (i : Nat) (f : Ctx → Ctx) : (modCtx s i f).smb = s.smb := rfl
@[simp] theorem setCtx_dbg (s : State) (i : Nat) (x : Ctx) : (setCtx s i x).dbg = s.dbg := rfl
@[simp] theorem modCtx_dbg (s : State) (i : Nat) (f : Ctx → Ctx) : (modCtx s i f).dbg = s.dbg := rfl
@[simp] theorem setCtx_refl (s : State) (i : Nat) (x : Ctx) : (setCtx s i x).refl = s.refl := rfl
@[simp] theorem modCtx_refl (s : State) (i : Nat) (f : Ctx → Ctx) : (modCtx s i f).refl = s.refl := rfl
@[simp] theorem setCtx_pending (s : State) (i : Nat) (x : Ctx) : (setCtx s i x).pending = s.pending := rfl
@[simp] theorem modCtx_pending (s : State) (i : Nat) (f : Ctx → Ctx) : (modCtx s i f).pending = s.pending := rfl

/-! ## setCore and modCore -/

@[simp] theorem getCore_setCore_same (s : State) (k : Nat) (x : Core) : getCore (setCore s k x) k = x := by simp [getCore, setCore]
@[simp] theorem getCore_setCore_ne (s : State) {i j : Nat} (x : Core) (h : j ≠ i) : getCore (setCore s i x) j = getCore s j := by simp [getCore, setCore, h]
@[simp] theorem getCore_modCore_same (s : State) (i : Nat) (f : Core → Core) : getCore (modCore s i f) i = f (getCore s i) := by simp [modCore]
@[simp] theorem getCore_modCore_ne (s : State) {i j : Nat} (f : Core → Core) (h : j ≠ i) : getCore (modCore s i f) j = getCore s j := by simp [modCore, h]
@[simp] theorem getCtx_setCore (s : State) (i j : Nat) (x : Core) : getCtx (setCore s i x) j = getCtx s j := rfl
@[simp] theorem getCtx_modCore (s : State) (i j : Nat) (f : Core → Core) : getCtx (modCore s i f) j = getCtx s j := rfl
@[simp] theorem getCluster_setCore (s : State) (i j : Nat) (x : Core) : getCluster (setCore s i x) j = getCluster s j := rfl
@[simp] theorem getCluster_modCore (s : State) (i j : Nat) (f : Core → Core) : getCluster (modCore s i f) j = getCluster s j := rfl
@[simp] theorem getPart_setCore (s : State) (i j : Nat) (x : Core) : getPart (setCore s i x) j = getPart s j := rfl
@[simp] theorem getPart_modCore (s : State) (i j : Nat) (f : Core → Core) : getPart (modCore s i f) j = getPart s j := rfl
@[simp] theorem getPort_setCore (s : State) (i j : Nat) (x : Core) : getPort (setCore s i x) j = getPort s j := rfl
@[simp] theorem getPort_modCore (s : State) (i j : Nat) (f : Core → Core) : getPort (modCore s i f) j = getPort s j := rfl
@[simp] theorem getQ_setCore (s : State) (i j : Nat) (x : Core) : getQ (setCore s i x) j = getQ s j := rfl
@[simp] theorem getQ_modCore (s : State) (i j : Nat) (f : Core → Core) : getQ (modCore s i f) j = getQ s j := rfl
@[simp] theorem setCore_part (s : State) (i : Nat) (x : Core) : (setCore s i x).part = s.part := rfl
@[simp] theorem modCore_part (s : State) (i : Nat) (f : Core → Core) : (modCore s i f).part = s.part := rfl
@[simp] theorem setCore_dev (s : State) (i : Nat) (x : Core) : (setCore s i x).dev = s.dev := rfl
@[simp] theorem modCore_dev (s : State) (i : Nat) (f : Core → Core) : (modCore s i f).dev = s.dev := rfl
@[simp] theorem setCore_time (s : State) (i : Nat) (x : Core) : (setCore s i x).time = s.time := rfl
@[simp] theorem modCore_time (s : State) (i : Nat) (f : Core → Core) : (modCore s i f).time = s.time := rfl
@[simp] theorem setCore_freeIx (s : State) (i : Nat) (x : Core) : (setCore s i x).freeIx = s.freeIx := rfl
@[simp] theorem modCore_freeIx (s : State) (i : Nat) (f : Core → Core) : (modCore s i f).freeIx = s.freeIx := rfl
@[simp] theorem setCore_nextOp (s : State) (i : Nat) (x : Core) : (setCore s i x).nextOp = s.nextOp := rfl
@[simp] theorem modCore_nextOp (s : State) (i : Nat) (f : Core → Core) : (modCore s i f).nextOp = s.nextOp := rfl
@[simp] theorem setCore_mem (s : State) (i : Nat) (x : Core) : (setCore s i x).mem = s.mem := rfl
@[simp] theorem modCore_mem (s : State) (i : Nat) (f : Core → Core) : (modCore s i f).mem = s.mem := rfl
@[simp] theorem setCore_ctxs (s : State) (i : Nat) (x : Core) : (setCore s i x).ctxs = s.ctxs := rfl
@[simp] theorem modCore_ctxs (s : State) (i : Nat) (f : Core → Core) : (modCore s i f).ctxs = s.ctxs := rfl
@[simp] theorem setCore_clusters (s : State) (i : Nat) (x : Core) : (setCore s i x).clusters = s.clusters := rfl
@[simp] theorem modCore_clusters (s : State) (i : Nat) (f : Core → Core) : (modCore s i f).clusters = s.clusters := rfl
@[simp] theorem setCore_dir (s : State) (i : Nat) (x : Core) : (setCore s i x).dir = s.dir := rfl
@[simp] theorem modCore_dir (s : State) (i : Nat) (f : Core → Core) : (modCore s i f).dir = s.dir := rfl
@[simp] theorem setCore_parts (s : State) (i : Nat) (x : Core) : (setCore s i x).parts = s.parts := rfl
@[simp] theorem modCore_parts (s : State) (i : Nat) (f : Core → Core) : (modCore s i f).parts = s.parts := rfl
@[simp] theorem setCore_owner (s : State) (i : Nat) (x : Core) : (setCore s i x).owner = s.owner := rfl
@[simp] theorem modCore_owner (s : State) (i : Nat) (f : Core → Core) : (modCore s i f).owner = s.owner := rfl
@[simp] theorem setCore_unc (s : State) (i : Nat) (x : Core) : (setCore s i x).unc = s.unc := rfl
@[simp] theorem modCore_unc (s : State) (i : Nat) (f : Core → Core) : (modCore s i f).unc = s.unc := rfl
@[simp] theorem setCore_invals (s : State) (i : Nat) (x : Core) : (setCore s i x).invals = s.invals := rfl
@[simp] theorem modCore_invals (s : State) (i : Nat) (f : Core → Core) : (modCore s i f).invals = s.invals := rfl
@[simp] theorem setCore_nextInval (s : State) (i : Nat) (x : Core) : (setCore s i x).nextInval = s.nextInval := rfl
@[simp] theorem modCore_nextInval (s : State) (i : Nat) (f : Core → Core) : (modCore s i f).nextInval = s.nextInval := rfl
@[simp] theorem setCore_nextSeq (s : State) (i : Nat) (x : Core) : (setCore s i x).nextSeq = s.nextSeq := rfl
@[simp] theorem modCore_nextSeq (s : State) (i : Nat) (f : Core → Core) : (modCore s i f).nextSeq = s.nextSeq := rfl
@[simp] theorem setCore_queues (s : State) (i : Nat) (x : Core) : (setCore s i x).queues = s.queues := rfl
@[simp] theorem modCore_queues (s : State) (i : Nat) (f : Core → Core) : (modCore s i f).queues = s.queues := rfl
@[simp] theorem setCore_flows (s : State) (i : Nat) (x : Core) : (setCore s i x).flows = s.flows := rfl
@[simp] theorem modCore_flows (s : State) (i : Nat) (f : Core → Core) : (modCore s i f).flows = s.flows := rfl
@[simp] theorem setCore_inFlows (s : State) (i : Nat) (x : Core) : (setCore s i x).inFlows = s.inFlows := rfl
@[simp] theorem modCore_inFlows (s : State) (i : Nat) (f : Core → Core) : (modCore s i f).inFlows = s.inFlows := rfl
@[simp] theorem setCore_msgs (s : State) (i : Nat) (x : Core) : (setCore s i x).msgs = s.msgs := rfl
@[simp] theorem modCore_msgs (s : State) (i : Nat) (f : Core → Core) : (modCore s i f).msgs = s.msgs := rfl
@[simp] theorem setCore_routes (s : State) (i : Nat) (x : Core) : (setCore s i x).routes = s.routes := rfl
@[simp] theorem modCore_routes (s : State) (i : Nat) (f : Core → Core) : (modCore s i f).routes = s.routes := rfl
@[simp] theorem setCore_remotes (s : State) (i : Nat) (x : Core) : (setCore s i x).remotes = s.remotes := rfl
@[simp] theorem modCore_remotes (s : State) (i : Nat) (f : Core → Core) : (modCore s i f).remotes = s.remotes := rfl
@[simp] theorem setCore_msix (s : State) (i : Nat) (x : Core) : (setCore s i x).msix = s.msix := rfl
@[simp] theorem modCore_msix (s : State) (i : Nat) (f : Core → Core) : (modCore s i f).msix = s.msix := rfl
@[simp] theorem setCore_outbox (s : State) (i : Nat) (x : Core) : (setCore s i x).outbox = s.outbox := rfl
@[simp] theorem modCore_outbox (s : State) (i : Nat) (f : Core → Core) : (modCore s i f).outbox = s.outbox := rfl
@[simp] theorem setCore_reports (s : State) (i : Nat) (x : Core) : (setCore s i x).reports = s.reports := rfl
@[simp] theorem modCore_reports (s : State) (i : Nat) (f : Core → Core) : (modCore s i f).reports = s.reports := rfl
@[simp] theorem setCore_img (s : State) (i : Nat) (x : Core) : (setCore s i x).img = s.img := rfl
@[simp] theorem modCore_img (s : State) (i : Nat) (f : Core → Core) : (modCore s i f).img = s.img := rfl
@[simp] theorem setCore_ports (s : State) (i : Nat) (x : Core) : (setCore s i x).ports = s.ports := rfl
@[simp] theorem modCore_ports (s : State) (i : Nat) (f : Core → Core) : (modCore s i f).ports = s.ports := rfl
@[simp] theorem setCore_tsync (s : State) (i : Nat) (x : Core) : (setCore s i x).tsync = s.tsync := rfl
@[simp] theorem modCore_tsync (s : State) (i : Nat) (f : Core → Core) : (modCore s i f).tsync = s.tsync := rfl
@[simp] theorem setCore_forwards (s : State) (i : Nat) (x : Core) : (setCore s i x).forwards = s.forwards := rfl
@[simp] theorem modCore_forwards (s : State) (i : Nat) (f : Core → Core) : (modCore s i f).forwards = s.forwards := rfl
@[simp] theorem setCore_withdrawn (s : State) (i : Nat) (x : Core) : (setCore s i x).withdrawn = s.withdrawn := rfl
@[simp] theorem modCore_withdrawn (s : State) (i : Nat) (f : Core → Core) : (modCore s i f).withdrawn = s.withdrawn := rfl
@[simp] theorem setCore_trust (s : State) (i : Nat) (x : Core) : (setCore s i x).trust = s.trust := rfl
@[simp] theorem modCore_trust (s : State) (i : Nat) (f : Core → Core) : (modCore s i f).trust = s.trust := rfl
@[simp] theorem setCore_glow (s : State) (i : Nat) (x : Core) : (setCore s i x).glow = s.glow := rfl
@[simp] theorem modCore_glow (s : State) (i : Nat) (f : Core → Core) : (modCore s i f).glow = s.glow := rfl
@[simp] theorem setCore_life (s : State) (i : Nat) (x : Core) : (setCore s i x).life = s.life := rfl
@[simp] theorem modCore_life (s : State) (i : Nat) (f : Core → Core) : (modCore s i f).life = s.life := rfl
@[simp] theorem setCore_cal (s : State) (i : Nat) (x : Core) : (setCore s i x).cal = s.cal := rfl
@[simp] theorem modCore_cal (s : State) (i : Nat) (f : Core → Core) : (modCore s i f).cal = s.cal := rfl
@[simp] theorem setCore_power (s : State) (i : Nat) (x : Core) : (setCore s i x).power = s.power := rfl
@[simp] theorem modCore_power (s : State) (i : Nat) (f : Core → Core) : (modCore s i f).power = s.power := rfl
@[simp] theorem setCore_hostIf (s : State) (i : Nat) (x : Core) : (setCore s i x).hostIf = s.hostIf := rfl
@[simp] theorem modCore_hostIf (s : State) (i : Nat) (f : Core → Core) : (modCore s i f).hostIf = s.hostIf := rfl
@[simp] theorem setCore_flash (s : State) (i : Nat) (x : Core) : (setCore s i x).flash = s.flash := rfl
@[simp] theorem modCore_flash (s : State) (i : Nat) (f : Core → Core) : (modCore s i f).flash = s.flash := rfl
@[simp] theorem setCore_staging (s : State) (i : Nat) (x : Core) : (setCore s i x).staging = s.staging := rfl
@[simp] theorem modCore_staging (s : State) (i : Nat) (f : Core → Core) : (modCore s i f).staging = s.staging := rfl
@[simp] theorem setCore_smb (s : State) (i : Nat) (x : Core) : (setCore s i x).smb = s.smb := rfl
@[simp] theorem modCore_smb (s : State) (i : Nat) (f : Core → Core) : (modCore s i f).smb = s.smb := rfl
@[simp] theorem setCore_dbg (s : State) (i : Nat) (x : Core) : (setCore s i x).dbg = s.dbg := rfl
@[simp] theorem modCore_dbg (s : State) (i : Nat) (f : Core → Core) : (modCore s i f).dbg = s.dbg := rfl
@[simp] theorem setCore_refl (s : State) (i : Nat) (x : Core) : (setCore s i x).refl = s.refl := rfl
@[simp] theorem modCore_refl (s : State) (i : Nat) (f : Core → Core) : (modCore s i f).refl = s.refl := rfl
@[simp] theorem setCore_pending (s : State) (i : Nat) (x : Core) : (setCore s i x).pending = s.pending := rfl
@[simp] theorem modCore_pending (s : State) (i : Nat) (f : Core → Core) : (modCore s i f).pending = s.pending := rfl

/-! ## setCluster and modCluster -/

@[simp] theorem getCluster_setCluster_same (s : State) (k : Nat) (x : Cluster) : getCluster (setCluster s k x) k = x := by simp [getCluster, setCluster]
@[simp] theorem getCluster_setCluster_ne (s : State) {i j : Nat} (x : Cluster) (h : j ≠ i) : getCluster (setCluster s i x) j = getCluster s j := by simp [getCluster, setCluster, h]
@[simp] theorem getCluster_modCluster_same (s : State) (i : Nat) (f : Cluster → Cluster) : getCluster (modCluster s i f) i = f (getCluster s i) := by simp [modCluster]
@[simp] theorem getCluster_modCluster_ne (s : State) {i j : Nat} (f : Cluster → Cluster) (h : j ≠ i) : getCluster (modCluster s i f) j = getCluster s j := by simp [modCluster, h]
@[simp] theorem getCtx_setCluster (s : State) (i j : Nat) (x : Cluster) : getCtx (setCluster s i x) j = getCtx s j := rfl
@[simp] theorem getCtx_modCluster (s : State) (i j : Nat) (f : Cluster → Cluster) : getCtx (modCluster s i f) j = getCtx s j := rfl
@[simp] theorem getCore_setCluster (s : State) (i j : Nat) (x : Cluster) : getCore (setCluster s i x) j = getCore s j := rfl
@[simp] theorem getCore_modCluster (s : State) (i j : Nat) (f : Cluster → Cluster) : getCore (modCluster s i f) j = getCore s j := rfl
@[simp] theorem getPart_setCluster (s : State) (i j : Nat) (x : Cluster) : getPart (setCluster s i x) j = getPart s j := rfl
@[simp] theorem getPart_modCluster (s : State) (i j : Nat) (f : Cluster → Cluster) : getPart (modCluster s i f) j = getPart s j := rfl
@[simp] theorem getPort_setCluster (s : State) (i j : Nat) (x : Cluster) : getPort (setCluster s i x) j = getPort s j := rfl
@[simp] theorem getPort_modCluster (s : State) (i j : Nat) (f : Cluster → Cluster) : getPort (modCluster s i f) j = getPort s j := rfl
@[simp] theorem getQ_setCluster (s : State) (i j : Nat) (x : Cluster) : getQ (setCluster s i x) j = getQ s j := rfl
@[simp] theorem getQ_modCluster (s : State) (i j : Nat) (f : Cluster → Cluster) : getQ (modCluster s i f) j = getQ s j := rfl
@[simp] theorem setCluster_part (s : State) (i : Nat) (x : Cluster) : (setCluster s i x).part = s.part := rfl
@[simp] theorem modCluster_part (s : State) (i : Nat) (f : Cluster → Cluster) : (modCluster s i f).part = s.part := rfl
@[simp] theorem setCluster_dev (s : State) (i : Nat) (x : Cluster) : (setCluster s i x).dev = s.dev := rfl
@[simp] theorem modCluster_dev (s : State) (i : Nat) (f : Cluster → Cluster) : (modCluster s i f).dev = s.dev := rfl
@[simp] theorem setCluster_time (s : State) (i : Nat) (x : Cluster) : (setCluster s i x).time = s.time := rfl
@[simp] theorem modCluster_time (s : State) (i : Nat) (f : Cluster → Cluster) : (modCluster s i f).time = s.time := rfl
@[simp] theorem setCluster_freeIx (s : State) (i : Nat) (x : Cluster) : (setCluster s i x).freeIx = s.freeIx := rfl
@[simp] theorem modCluster_freeIx (s : State) (i : Nat) (f : Cluster → Cluster) : (modCluster s i f).freeIx = s.freeIx := rfl
@[simp] theorem setCluster_nextOp (s : State) (i : Nat) (x : Cluster) : (setCluster s i x).nextOp = s.nextOp := rfl
@[simp] theorem modCluster_nextOp (s : State) (i : Nat) (f : Cluster → Cluster) : (modCluster s i f).nextOp = s.nextOp := rfl
@[simp] theorem setCluster_mem (s : State) (i : Nat) (x : Cluster) : (setCluster s i x).mem = s.mem := rfl
@[simp] theorem modCluster_mem (s : State) (i : Nat) (f : Cluster → Cluster) : (modCluster s i f).mem = s.mem := rfl
@[simp] theorem setCluster_ctxs (s : State) (i : Nat) (x : Cluster) : (setCluster s i x).ctxs = s.ctxs := rfl
@[simp] theorem modCluster_ctxs (s : State) (i : Nat) (f : Cluster → Cluster) : (modCluster s i f).ctxs = s.ctxs := rfl
@[simp] theorem setCluster_cores (s : State) (i : Nat) (x : Cluster) : (setCluster s i x).cores = s.cores := rfl
@[simp] theorem modCluster_cores (s : State) (i : Nat) (f : Cluster → Cluster) : (modCluster s i f).cores = s.cores := rfl
@[simp] theorem setCluster_dir (s : State) (i : Nat) (x : Cluster) : (setCluster s i x).dir = s.dir := rfl
@[simp] theorem modCluster_dir (s : State) (i : Nat) (f : Cluster → Cluster) : (modCluster s i f).dir = s.dir := rfl
@[simp] theorem setCluster_parts (s : State) (i : Nat) (x : Cluster) : (setCluster s i x).parts = s.parts := rfl
@[simp] theorem modCluster_parts (s : State) (i : Nat) (f : Cluster → Cluster) : (modCluster s i f).parts = s.parts := rfl
@[simp] theorem setCluster_owner (s : State) (i : Nat) (x : Cluster) : (setCluster s i x).owner = s.owner := rfl
@[simp] theorem modCluster_owner (s : State) (i : Nat) (f : Cluster → Cluster) : (modCluster s i f).owner = s.owner := rfl
@[simp] theorem setCluster_unc (s : State) (i : Nat) (x : Cluster) : (setCluster s i x).unc = s.unc := rfl
@[simp] theorem modCluster_unc (s : State) (i : Nat) (f : Cluster → Cluster) : (modCluster s i f).unc = s.unc := rfl
@[simp] theorem setCluster_invals (s : State) (i : Nat) (x : Cluster) : (setCluster s i x).invals = s.invals := rfl
@[simp] theorem modCluster_invals (s : State) (i : Nat) (f : Cluster → Cluster) : (modCluster s i f).invals = s.invals := rfl
@[simp] theorem setCluster_nextInval (s : State) (i : Nat) (x : Cluster) : (setCluster s i x).nextInval = s.nextInval := rfl
@[simp] theorem modCluster_nextInval (s : State) (i : Nat) (f : Cluster → Cluster) : (modCluster s i f).nextInval = s.nextInval := rfl
@[simp] theorem setCluster_nextSeq (s : State) (i : Nat) (x : Cluster) : (setCluster s i x).nextSeq = s.nextSeq := rfl
@[simp] theorem modCluster_nextSeq (s : State) (i : Nat) (f : Cluster → Cluster) : (modCluster s i f).nextSeq = s.nextSeq := rfl
@[simp] theorem setCluster_queues (s : State) (i : Nat) (x : Cluster) : (setCluster s i x).queues = s.queues := rfl
@[simp] theorem modCluster_queues (s : State) (i : Nat) (f : Cluster → Cluster) : (modCluster s i f).queues = s.queues := rfl
@[simp] theorem setCluster_flows (s : State) (i : Nat) (x : Cluster) : (setCluster s i x).flows = s.flows := rfl
@[simp] theorem modCluster_flows (s : State) (i : Nat) (f : Cluster → Cluster) : (modCluster s i f).flows = s.flows := rfl
@[simp] theorem setCluster_inFlows (s : State) (i : Nat) (x : Cluster) : (setCluster s i x).inFlows = s.inFlows := rfl
@[simp] theorem modCluster_inFlows (s : State) (i : Nat) (f : Cluster → Cluster) : (modCluster s i f).inFlows = s.inFlows := rfl
@[simp] theorem setCluster_msgs (s : State) (i : Nat) (x : Cluster) : (setCluster s i x).msgs = s.msgs := rfl
@[simp] theorem modCluster_msgs (s : State) (i : Nat) (f : Cluster → Cluster) : (modCluster s i f).msgs = s.msgs := rfl
@[simp] theorem setCluster_routes (s : State) (i : Nat) (x : Cluster) : (setCluster s i x).routes = s.routes := rfl
@[simp] theorem modCluster_routes (s : State) (i : Nat) (f : Cluster → Cluster) : (modCluster s i f).routes = s.routes := rfl
@[simp] theorem setCluster_remotes (s : State) (i : Nat) (x : Cluster) : (setCluster s i x).remotes = s.remotes := rfl
@[simp] theorem modCluster_remotes (s : State) (i : Nat) (f : Cluster → Cluster) : (modCluster s i f).remotes = s.remotes := rfl
@[simp] theorem setCluster_msix (s : State) (i : Nat) (x : Cluster) : (setCluster s i x).msix = s.msix := rfl
@[simp] theorem modCluster_msix (s : State) (i : Nat) (f : Cluster → Cluster) : (modCluster s i f).msix = s.msix := rfl
@[simp] theorem setCluster_outbox (s : State) (i : Nat) (x : Cluster) : (setCluster s i x).outbox = s.outbox := rfl
@[simp] theorem modCluster_outbox (s : State) (i : Nat) (f : Cluster → Cluster) : (modCluster s i f).outbox = s.outbox := rfl
@[simp] theorem setCluster_reports (s : State) (i : Nat) (x : Cluster) : (setCluster s i x).reports = s.reports := rfl
@[simp] theorem modCluster_reports (s : State) (i : Nat) (f : Cluster → Cluster) : (modCluster s i f).reports = s.reports := rfl
@[simp] theorem setCluster_img (s : State) (i : Nat) (x : Cluster) : (setCluster s i x).img = s.img := rfl
@[simp] theorem modCluster_img (s : State) (i : Nat) (f : Cluster → Cluster) : (modCluster s i f).img = s.img := rfl
@[simp] theorem setCluster_ports (s : State) (i : Nat) (x : Cluster) : (setCluster s i x).ports = s.ports := rfl
@[simp] theorem modCluster_ports (s : State) (i : Nat) (f : Cluster → Cluster) : (modCluster s i f).ports = s.ports := rfl
@[simp] theorem setCluster_tsync (s : State) (i : Nat) (x : Cluster) : (setCluster s i x).tsync = s.tsync := rfl
@[simp] theorem modCluster_tsync (s : State) (i : Nat) (f : Cluster → Cluster) : (modCluster s i f).tsync = s.tsync := rfl
@[simp] theorem setCluster_forwards (s : State) (i : Nat) (x : Cluster) : (setCluster s i x).forwards = s.forwards := rfl
@[simp] theorem modCluster_forwards (s : State) (i : Nat) (f : Cluster → Cluster) : (modCluster s i f).forwards = s.forwards := rfl
@[simp] theorem setCluster_withdrawn (s : State) (i : Nat) (x : Cluster) : (setCluster s i x).withdrawn = s.withdrawn := rfl
@[simp] theorem modCluster_withdrawn (s : State) (i : Nat) (f : Cluster → Cluster) : (modCluster s i f).withdrawn = s.withdrawn := rfl
@[simp] theorem setCluster_trust (s : State) (i : Nat) (x : Cluster) : (setCluster s i x).trust = s.trust := rfl
@[simp] theorem modCluster_trust (s : State) (i : Nat) (f : Cluster → Cluster) : (modCluster s i f).trust = s.trust := rfl
@[simp] theorem setCluster_glow (s : State) (i : Nat) (x : Cluster) : (setCluster s i x).glow = s.glow := rfl
@[simp] theorem modCluster_glow (s : State) (i : Nat) (f : Cluster → Cluster) : (modCluster s i f).glow = s.glow := rfl
@[simp] theorem setCluster_life (s : State) (i : Nat) (x : Cluster) : (setCluster s i x).life = s.life := rfl
@[simp] theorem modCluster_life (s : State) (i : Nat) (f : Cluster → Cluster) : (modCluster s i f).life = s.life := rfl
@[simp] theorem setCluster_cal (s : State) (i : Nat) (x : Cluster) : (setCluster s i x).cal = s.cal := rfl
@[simp] theorem modCluster_cal (s : State) (i : Nat) (f : Cluster → Cluster) : (modCluster s i f).cal = s.cal := rfl
@[simp] theorem setCluster_power (s : State) (i : Nat) (x : Cluster) : (setCluster s i x).power = s.power := rfl
@[simp] theorem modCluster_power (s : State) (i : Nat) (f : Cluster → Cluster) : (modCluster s i f).power = s.power := rfl
@[simp] theorem setCluster_hostIf (s : State) (i : Nat) (x : Cluster) : (setCluster s i x).hostIf = s.hostIf := rfl
@[simp] theorem modCluster_hostIf (s : State) (i : Nat) (f : Cluster → Cluster) : (modCluster s i f).hostIf = s.hostIf := rfl
@[simp] theorem setCluster_flash (s : State) (i : Nat) (x : Cluster) : (setCluster s i x).flash = s.flash := rfl
@[simp] theorem modCluster_flash (s : State) (i : Nat) (f : Cluster → Cluster) : (modCluster s i f).flash = s.flash := rfl
@[simp] theorem setCluster_staging (s : State) (i : Nat) (x : Cluster) : (setCluster s i x).staging = s.staging := rfl
@[simp] theorem modCluster_staging (s : State) (i : Nat) (f : Cluster → Cluster) : (modCluster s i f).staging = s.staging := rfl
@[simp] theorem setCluster_smb (s : State) (i : Nat) (x : Cluster) : (setCluster s i x).smb = s.smb := rfl
@[simp] theorem modCluster_smb (s : State) (i : Nat) (f : Cluster → Cluster) : (modCluster s i f).smb = s.smb := rfl
@[simp] theorem setCluster_dbg (s : State) (i : Nat) (x : Cluster) : (setCluster s i x).dbg = s.dbg := rfl
@[simp] theorem modCluster_dbg (s : State) (i : Nat) (f : Cluster → Cluster) : (modCluster s i f).dbg = s.dbg := rfl
@[simp] theorem setCluster_refl (s : State) (i : Nat) (x : Cluster) : (setCluster s i x).refl = s.refl := rfl
@[simp] theorem modCluster_refl (s : State) (i : Nat) (f : Cluster → Cluster) : (modCluster s i f).refl = s.refl := rfl
@[simp] theorem setCluster_pending (s : State) (i : Nat) (x : Cluster) : (setCluster s i x).pending = s.pending := rfl
@[simp] theorem modCluster_pending (s : State) (i : Nat) (f : Cluster → Cluster) : (modCluster s i f).pending = s.pending := rfl

/-! ## setPart and modPart -/

@[simp] theorem getPart_setPart_same (s : State) (p : Nat) (x : Partition) : getPart (setPart s p x) p = x := by simp [getPart, setPart]
@[simp] theorem getPart_setPart_ne (s : State) {i j : Nat} (x : Partition) (h : j ≠ i) : getPart (setPart s i x) j = getPart s j := by simp [getPart, setPart, h]
@[simp] theorem getPart_modPart_same (s : State) (i : Nat) (f : Partition → Partition) : getPart (modPart s i f) i = f (getPart s i) := by simp [modPart]
@[simp] theorem getPart_modPart_ne (s : State) {i j : Nat} (f : Partition → Partition) (h : j ≠ i) : getPart (modPart s i f) j = getPart s j := by simp [modPart, h]
@[simp] theorem getCtx_setPart (s : State) (i j : Nat) (x : Partition) : getCtx (setPart s i x) j = getCtx s j := rfl
@[simp] theorem getCtx_modPart (s : State) (i j : Nat) (f : Partition → Partition) : getCtx (modPart s i f) j = getCtx s j := rfl
@[simp] theorem getCore_setPart (s : State) (i j : Nat) (x : Partition) : getCore (setPart s i x) j = getCore s j := rfl
@[simp] theorem getCore_modPart (s : State) (i j : Nat) (f : Partition → Partition) : getCore (modPart s i f) j = getCore s j := rfl
@[simp] theorem getCluster_setPart (s : State) (i j : Nat) (x : Partition) : getCluster (setPart s i x) j = getCluster s j := rfl
@[simp] theorem getCluster_modPart (s : State) (i j : Nat) (f : Partition → Partition) : getCluster (modPart s i f) j = getCluster s j := rfl
@[simp] theorem getPort_setPart (s : State) (i j : Nat) (x : Partition) : getPort (setPart s i x) j = getPort s j := rfl
@[simp] theorem getPort_modPart (s : State) (i j : Nat) (f : Partition → Partition) : getPort (modPart s i f) j = getPort s j := rfl
@[simp] theorem getQ_setPart (s : State) (i j : Nat) (x : Partition) : getQ (setPart s i x) j = getQ s j := rfl
@[simp] theorem getQ_modPart (s : State) (i j : Nat) (f : Partition → Partition) : getQ (modPart s i f) j = getQ s j := rfl
@[simp] theorem setPart_part (s : State) (i : Nat) (x : Partition) : (setPart s i x).part = s.part := rfl
@[simp] theorem modPart_part (s : State) (i : Nat) (f : Partition → Partition) : (modPart s i f).part = s.part := rfl
@[simp] theorem setPart_dev (s : State) (i : Nat) (x : Partition) : (setPart s i x).dev = s.dev := rfl
@[simp] theorem modPart_dev (s : State) (i : Nat) (f : Partition → Partition) : (modPart s i f).dev = s.dev := rfl
@[simp] theorem setPart_time (s : State) (i : Nat) (x : Partition) : (setPart s i x).time = s.time := rfl
@[simp] theorem modPart_time (s : State) (i : Nat) (f : Partition → Partition) : (modPart s i f).time = s.time := rfl
@[simp] theorem setPart_freeIx (s : State) (i : Nat) (x : Partition) : (setPart s i x).freeIx = s.freeIx := rfl
@[simp] theorem modPart_freeIx (s : State) (i : Nat) (f : Partition → Partition) : (modPart s i f).freeIx = s.freeIx := rfl
@[simp] theorem setPart_nextOp (s : State) (i : Nat) (x : Partition) : (setPart s i x).nextOp = s.nextOp := rfl
@[simp] theorem modPart_nextOp (s : State) (i : Nat) (f : Partition → Partition) : (modPart s i f).nextOp = s.nextOp := rfl
@[simp] theorem setPart_mem (s : State) (i : Nat) (x : Partition) : (setPart s i x).mem = s.mem := rfl
@[simp] theorem modPart_mem (s : State) (i : Nat) (f : Partition → Partition) : (modPart s i f).mem = s.mem := rfl
@[simp] theorem setPart_ctxs (s : State) (i : Nat) (x : Partition) : (setPart s i x).ctxs = s.ctxs := rfl
@[simp] theorem modPart_ctxs (s : State) (i : Nat) (f : Partition → Partition) : (modPart s i f).ctxs = s.ctxs := rfl
@[simp] theorem setPart_cores (s : State) (i : Nat) (x : Partition) : (setPart s i x).cores = s.cores := rfl
@[simp] theorem modPart_cores (s : State) (i : Nat) (f : Partition → Partition) : (modPart s i f).cores = s.cores := rfl
@[simp] theorem setPart_clusters (s : State) (i : Nat) (x : Partition) : (setPart s i x).clusters = s.clusters := rfl
@[simp] theorem modPart_clusters (s : State) (i : Nat) (f : Partition → Partition) : (modPart s i f).clusters = s.clusters := rfl
@[simp] theorem setPart_dir (s : State) (i : Nat) (x : Partition) : (setPart s i x).dir = s.dir := rfl
@[simp] theorem modPart_dir (s : State) (i : Nat) (f : Partition → Partition) : (modPart s i f).dir = s.dir := rfl
@[simp] theorem setPart_owner (s : State) (i : Nat) (x : Partition) : (setPart s i x).owner = s.owner := rfl
@[simp] theorem modPart_owner (s : State) (i : Nat) (f : Partition → Partition) : (modPart s i f).owner = s.owner := rfl
@[simp] theorem setPart_unc (s : State) (i : Nat) (x : Partition) : (setPart s i x).unc = s.unc := rfl
@[simp] theorem modPart_unc (s : State) (i : Nat) (f : Partition → Partition) : (modPart s i f).unc = s.unc := rfl
@[simp] theorem setPart_invals (s : State) (i : Nat) (x : Partition) : (setPart s i x).invals = s.invals := rfl
@[simp] theorem modPart_invals (s : State) (i : Nat) (f : Partition → Partition) : (modPart s i f).invals = s.invals := rfl
@[simp] theorem setPart_nextInval (s : State) (i : Nat) (x : Partition) : (setPart s i x).nextInval = s.nextInval := rfl
@[simp] theorem modPart_nextInval (s : State) (i : Nat) (f : Partition → Partition) : (modPart s i f).nextInval = s.nextInval := rfl
@[simp] theorem setPart_nextSeq (s : State) (i : Nat) (x : Partition) : (setPart s i x).nextSeq = s.nextSeq := rfl
@[simp] theorem modPart_nextSeq (s : State) (i : Nat) (f : Partition → Partition) : (modPart s i f).nextSeq = s.nextSeq := rfl
@[simp] theorem setPart_queues (s : State) (i : Nat) (x : Partition) : (setPart s i x).queues = s.queues := rfl
@[simp] theorem modPart_queues (s : State) (i : Nat) (f : Partition → Partition) : (modPart s i f).queues = s.queues := rfl
@[simp] theorem setPart_flows (s : State) (i : Nat) (x : Partition) : (setPart s i x).flows = s.flows := rfl
@[simp] theorem modPart_flows (s : State) (i : Nat) (f : Partition → Partition) : (modPart s i f).flows = s.flows := rfl
@[simp] theorem setPart_inFlows (s : State) (i : Nat) (x : Partition) : (setPart s i x).inFlows = s.inFlows := rfl
@[simp] theorem modPart_inFlows (s : State) (i : Nat) (f : Partition → Partition) : (modPart s i f).inFlows = s.inFlows := rfl
@[simp] theorem setPart_msgs (s : State) (i : Nat) (x : Partition) : (setPart s i x).msgs = s.msgs := rfl
@[simp] theorem modPart_msgs (s : State) (i : Nat) (f : Partition → Partition) : (modPart s i f).msgs = s.msgs := rfl
@[simp] theorem setPart_routes (s : State) (i : Nat) (x : Partition) : (setPart s i x).routes = s.routes := rfl
@[simp] theorem modPart_routes (s : State) (i : Nat) (f : Partition → Partition) : (modPart s i f).routes = s.routes := rfl
@[simp] theorem setPart_remotes (s : State) (i : Nat) (x : Partition) : (setPart s i x).remotes = s.remotes := rfl
@[simp] theorem modPart_remotes (s : State) (i : Nat) (f : Partition → Partition) : (modPart s i f).remotes = s.remotes := rfl
@[simp] theorem setPart_msix (s : State) (i : Nat) (x : Partition) : (setPart s i x).msix = s.msix := rfl
@[simp] theorem modPart_msix (s : State) (i : Nat) (f : Partition → Partition) : (modPart s i f).msix = s.msix := rfl
@[simp] theorem setPart_outbox (s : State) (i : Nat) (x : Partition) : (setPart s i x).outbox = s.outbox := rfl
@[simp] theorem modPart_outbox (s : State) (i : Nat) (f : Partition → Partition) : (modPart s i f).outbox = s.outbox := rfl
@[simp] theorem setPart_reports (s : State) (i : Nat) (x : Partition) : (setPart s i x).reports = s.reports := rfl
@[simp] theorem modPart_reports (s : State) (i : Nat) (f : Partition → Partition) : (modPart s i f).reports = s.reports := rfl
@[simp] theorem setPart_img (s : State) (i : Nat) (x : Partition) : (setPart s i x).img = s.img := rfl
@[simp] theorem modPart_img (s : State) (i : Nat) (f : Partition → Partition) : (modPart s i f).img = s.img := rfl
@[simp] theorem setPart_ports (s : State) (i : Nat) (x : Partition) : (setPart s i x).ports = s.ports := rfl
@[simp] theorem modPart_ports (s : State) (i : Nat) (f : Partition → Partition) : (modPart s i f).ports = s.ports := rfl
@[simp] theorem setPart_tsync (s : State) (i : Nat) (x : Partition) : (setPart s i x).tsync = s.tsync := rfl
@[simp] theorem modPart_tsync (s : State) (i : Nat) (f : Partition → Partition) : (modPart s i f).tsync = s.tsync := rfl
@[simp] theorem setPart_forwards (s : State) (i : Nat) (x : Partition) : (setPart s i x).forwards = s.forwards := rfl
@[simp] theorem modPart_forwards (s : State) (i : Nat) (f : Partition → Partition) : (modPart s i f).forwards = s.forwards := rfl
@[simp] theorem setPart_withdrawn (s : State) (i : Nat) (x : Partition) : (setPart s i x).withdrawn = s.withdrawn := rfl
@[simp] theorem modPart_withdrawn (s : State) (i : Nat) (f : Partition → Partition) : (modPart s i f).withdrawn = s.withdrawn := rfl
@[simp] theorem setPart_trust (s : State) (i : Nat) (x : Partition) : (setPart s i x).trust = s.trust := rfl
@[simp] theorem modPart_trust (s : State) (i : Nat) (f : Partition → Partition) : (modPart s i f).trust = s.trust := rfl
@[simp] theorem setPart_glow (s : State) (i : Nat) (x : Partition) : (setPart s i x).glow = s.glow := rfl
@[simp] theorem modPart_glow (s : State) (i : Nat) (f : Partition → Partition) : (modPart s i f).glow = s.glow := rfl
@[simp] theorem setPart_life (s : State) (i : Nat) (x : Partition) : (setPart s i x).life = s.life := rfl
@[simp] theorem modPart_life (s : State) (i : Nat) (f : Partition → Partition) : (modPart s i f).life = s.life := rfl
@[simp] theorem setPart_cal (s : State) (i : Nat) (x : Partition) : (setPart s i x).cal = s.cal := rfl
@[simp] theorem modPart_cal (s : State) (i : Nat) (f : Partition → Partition) : (modPart s i f).cal = s.cal := rfl
@[simp] theorem setPart_power (s : State) (i : Nat) (x : Partition) : (setPart s i x).power = s.power := rfl
@[simp] theorem modPart_power (s : State) (i : Nat) (f : Partition → Partition) : (modPart s i f).power = s.power := rfl
@[simp] theorem setPart_hostIf (s : State) (i : Nat) (x : Partition) : (setPart s i x).hostIf = s.hostIf := rfl
@[simp] theorem modPart_hostIf (s : State) (i : Nat) (f : Partition → Partition) : (modPart s i f).hostIf = s.hostIf := rfl
@[simp] theorem setPart_flash (s : State) (i : Nat) (x : Partition) : (setPart s i x).flash = s.flash := rfl
@[simp] theorem modPart_flash (s : State) (i : Nat) (f : Partition → Partition) : (modPart s i f).flash = s.flash := rfl
@[simp] theorem setPart_staging (s : State) (i : Nat) (x : Partition) : (setPart s i x).staging = s.staging := rfl
@[simp] theorem modPart_staging (s : State) (i : Nat) (f : Partition → Partition) : (modPart s i f).staging = s.staging := rfl
@[simp] theorem setPart_smb (s : State) (i : Nat) (x : Partition) : (setPart s i x).smb = s.smb := rfl
@[simp] theorem modPart_smb (s : State) (i : Nat) (f : Partition → Partition) : (modPart s i f).smb = s.smb := rfl
@[simp] theorem setPart_dbg (s : State) (i : Nat) (x : Partition) : (setPart s i x).dbg = s.dbg := rfl
@[simp] theorem modPart_dbg (s : State) (i : Nat) (f : Partition → Partition) : (modPart s i f).dbg = s.dbg := rfl
@[simp] theorem setPart_refl (s : State) (i : Nat) (x : Partition) : (setPart s i x).refl = s.refl := rfl
@[simp] theorem modPart_refl (s : State) (i : Nat) (f : Partition → Partition) : (modPart s i f).refl = s.refl := rfl
@[simp] theorem setPart_pending (s : State) (i : Nat) (x : Partition) : (setPart s i x).pending = s.pending := rfl
@[simp] theorem modPart_pending (s : State) (i : Nat) (f : Partition → Partition) : (modPart s i f).pending = s.pending := rfl

/-! ## setPort and modPort -/

@[simp] theorem getPort_setPort_same (s : State) (p : Nat) (x : Link) : getPort (setPort s p x) p = x := by simp [getPort, setPort]
@[simp] theorem getPort_setPort_ne (s : State) {i j : Nat} (x : Link) (h : j ≠ i) : getPort (setPort s i x) j = getPort s j := by simp [getPort, setPort, h]
@[simp] theorem getPort_modPort_same (s : State) (i : Nat) (f : Link → Link) : getPort (modPort s i f) i = f (getPort s i) := by simp [modPort]
@[simp] theorem getPort_modPort_ne (s : State) {i j : Nat} (f : Link → Link) (h : j ≠ i) : getPort (modPort s i f) j = getPort s j := by simp [modPort, h]
@[simp] theorem getCtx_setPort (s : State) (i j : Nat) (x : Link) : getCtx (setPort s i x) j = getCtx s j := rfl
@[simp] theorem getCtx_modPort (s : State) (i j : Nat) (f : Link → Link) : getCtx (modPort s i f) j = getCtx s j := rfl
@[simp] theorem getCore_setPort (s : State) (i j : Nat) (x : Link) : getCore (setPort s i x) j = getCore s j := rfl
@[simp] theorem getCore_modPort (s : State) (i j : Nat) (f : Link → Link) : getCore (modPort s i f) j = getCore s j := rfl
@[simp] theorem getCluster_setPort (s : State) (i j : Nat) (x : Link) : getCluster (setPort s i x) j = getCluster s j := rfl
@[simp] theorem getCluster_modPort (s : State) (i j : Nat) (f : Link → Link) : getCluster (modPort s i f) j = getCluster s j := rfl
@[simp] theorem getPart_setPort (s : State) (i j : Nat) (x : Link) : getPart (setPort s i x) j = getPart s j := rfl
@[simp] theorem getPart_modPort (s : State) (i j : Nat) (f : Link → Link) : getPart (modPort s i f) j = getPart s j := rfl
@[simp] theorem getQ_setPort (s : State) (i j : Nat) (x : Link) : getQ (setPort s i x) j = getQ s j := rfl
@[simp] theorem getQ_modPort (s : State) (i j : Nat) (f : Link → Link) : getQ (modPort s i f) j = getQ s j := rfl
@[simp] theorem setPort_part (s : State) (i : Nat) (x : Link) : (setPort s i x).part = s.part := rfl
@[simp] theorem modPort_part (s : State) (i : Nat) (f : Link → Link) : (modPort s i f).part = s.part := rfl
@[simp] theorem setPort_dev (s : State) (i : Nat) (x : Link) : (setPort s i x).dev = s.dev := rfl
@[simp] theorem modPort_dev (s : State) (i : Nat) (f : Link → Link) : (modPort s i f).dev = s.dev := rfl
@[simp] theorem setPort_time (s : State) (i : Nat) (x : Link) : (setPort s i x).time = s.time := rfl
@[simp] theorem modPort_time (s : State) (i : Nat) (f : Link → Link) : (modPort s i f).time = s.time := rfl
@[simp] theorem setPort_freeIx (s : State) (i : Nat) (x : Link) : (setPort s i x).freeIx = s.freeIx := rfl
@[simp] theorem modPort_freeIx (s : State) (i : Nat) (f : Link → Link) : (modPort s i f).freeIx = s.freeIx := rfl
@[simp] theorem setPort_nextOp (s : State) (i : Nat) (x : Link) : (setPort s i x).nextOp = s.nextOp := rfl
@[simp] theorem modPort_nextOp (s : State) (i : Nat) (f : Link → Link) : (modPort s i f).nextOp = s.nextOp := rfl
@[simp] theorem setPort_mem (s : State) (i : Nat) (x : Link) : (setPort s i x).mem = s.mem := rfl
@[simp] theorem modPort_mem (s : State) (i : Nat) (f : Link → Link) : (modPort s i f).mem = s.mem := rfl
@[simp] theorem setPort_ctxs (s : State) (i : Nat) (x : Link) : (setPort s i x).ctxs = s.ctxs := rfl
@[simp] theorem modPort_ctxs (s : State) (i : Nat) (f : Link → Link) : (modPort s i f).ctxs = s.ctxs := rfl
@[simp] theorem setPort_cores (s : State) (i : Nat) (x : Link) : (setPort s i x).cores = s.cores := rfl
@[simp] theorem modPort_cores (s : State) (i : Nat) (f : Link → Link) : (modPort s i f).cores = s.cores := rfl
@[simp] theorem setPort_clusters (s : State) (i : Nat) (x : Link) : (setPort s i x).clusters = s.clusters := rfl
@[simp] theorem modPort_clusters (s : State) (i : Nat) (f : Link → Link) : (modPort s i f).clusters = s.clusters := rfl
@[simp] theorem setPort_dir (s : State) (i : Nat) (x : Link) : (setPort s i x).dir = s.dir := rfl
@[simp] theorem modPort_dir (s : State) (i : Nat) (f : Link → Link) : (modPort s i f).dir = s.dir := rfl
@[simp] theorem setPort_parts (s : State) (i : Nat) (x : Link) : (setPort s i x).parts = s.parts := rfl
@[simp] theorem modPort_parts (s : State) (i : Nat) (f : Link → Link) : (modPort s i f).parts = s.parts := rfl
@[simp] theorem setPort_owner (s : State) (i : Nat) (x : Link) : (setPort s i x).owner = s.owner := rfl
@[simp] theorem modPort_owner (s : State) (i : Nat) (f : Link → Link) : (modPort s i f).owner = s.owner := rfl
@[simp] theorem setPort_unc (s : State) (i : Nat) (x : Link) : (setPort s i x).unc = s.unc := rfl
@[simp] theorem modPort_unc (s : State) (i : Nat) (f : Link → Link) : (modPort s i f).unc = s.unc := rfl
@[simp] theorem setPort_invals (s : State) (i : Nat) (x : Link) : (setPort s i x).invals = s.invals := rfl
@[simp] theorem modPort_invals (s : State) (i : Nat) (f : Link → Link) : (modPort s i f).invals = s.invals := rfl
@[simp] theorem setPort_nextInval (s : State) (i : Nat) (x : Link) : (setPort s i x).nextInval = s.nextInval := rfl
@[simp] theorem modPort_nextInval (s : State) (i : Nat) (f : Link → Link) : (modPort s i f).nextInval = s.nextInval := rfl
@[simp] theorem setPort_nextSeq (s : State) (i : Nat) (x : Link) : (setPort s i x).nextSeq = s.nextSeq := rfl
@[simp] theorem modPort_nextSeq (s : State) (i : Nat) (f : Link → Link) : (modPort s i f).nextSeq = s.nextSeq := rfl
@[simp] theorem setPort_queues (s : State) (i : Nat) (x : Link) : (setPort s i x).queues = s.queues := rfl
@[simp] theorem modPort_queues (s : State) (i : Nat) (f : Link → Link) : (modPort s i f).queues = s.queues := rfl
@[simp] theorem setPort_flows (s : State) (i : Nat) (x : Link) : (setPort s i x).flows = s.flows := rfl
@[simp] theorem modPort_flows (s : State) (i : Nat) (f : Link → Link) : (modPort s i f).flows = s.flows := rfl
@[simp] theorem setPort_inFlows (s : State) (i : Nat) (x : Link) : (setPort s i x).inFlows = s.inFlows := rfl
@[simp] theorem modPort_inFlows (s : State) (i : Nat) (f : Link → Link) : (modPort s i f).inFlows = s.inFlows := rfl
@[simp] theorem setPort_msgs (s : State) (i : Nat) (x : Link) : (setPort s i x).msgs = s.msgs := rfl
@[simp] theorem modPort_msgs (s : State) (i : Nat) (f : Link → Link) : (modPort s i f).msgs = s.msgs := rfl
@[simp] theorem setPort_routes (s : State) (i : Nat) (x : Link) : (setPort s i x).routes = s.routes := rfl
@[simp] theorem modPort_routes (s : State) (i : Nat) (f : Link → Link) : (modPort s i f).routes = s.routes := rfl
@[simp] theorem setPort_remotes (s : State) (i : Nat) (x : Link) : (setPort s i x).remotes = s.remotes := rfl
@[simp] theorem modPort_remotes (s : State) (i : Nat) (f : Link → Link) : (modPort s i f).remotes = s.remotes := rfl
@[simp] theorem setPort_msix (s : State) (i : Nat) (x : Link) : (setPort s i x).msix = s.msix := rfl
@[simp] theorem modPort_msix (s : State) (i : Nat) (f : Link → Link) : (modPort s i f).msix = s.msix := rfl
@[simp] theorem setPort_outbox (s : State) (i : Nat) (x : Link) : (setPort s i x).outbox = s.outbox := rfl
@[simp] theorem modPort_outbox (s : State) (i : Nat) (f : Link → Link) : (modPort s i f).outbox = s.outbox := rfl
@[simp] theorem setPort_reports (s : State) (i : Nat) (x : Link) : (setPort s i x).reports = s.reports := rfl
@[simp] theorem modPort_reports (s : State) (i : Nat) (f : Link → Link) : (modPort s i f).reports = s.reports := rfl
@[simp] theorem setPort_img (s : State) (i : Nat) (x : Link) : (setPort s i x).img = s.img := rfl
@[simp] theorem modPort_img (s : State) (i : Nat) (f : Link → Link) : (modPort s i f).img = s.img := rfl
@[simp] theorem setPort_tsync (s : State) (i : Nat) (x : Link) : (setPort s i x).tsync = s.tsync := rfl
@[simp] theorem modPort_tsync (s : State) (i : Nat) (f : Link → Link) : (modPort s i f).tsync = s.tsync := rfl
@[simp] theorem setPort_forwards (s : State) (i : Nat) (x : Link) : (setPort s i x).forwards = s.forwards := rfl
@[simp] theorem modPort_forwards (s : State) (i : Nat) (f : Link → Link) : (modPort s i f).forwards = s.forwards := rfl
@[simp] theorem setPort_withdrawn (s : State) (i : Nat) (x : Link) : (setPort s i x).withdrawn = s.withdrawn := rfl
@[simp] theorem modPort_withdrawn (s : State) (i : Nat) (f : Link → Link) : (modPort s i f).withdrawn = s.withdrawn := rfl
@[simp] theorem setPort_trust (s : State) (i : Nat) (x : Link) : (setPort s i x).trust = s.trust := rfl
@[simp] theorem modPort_trust (s : State) (i : Nat) (f : Link → Link) : (modPort s i f).trust = s.trust := rfl
@[simp] theorem setPort_glow (s : State) (i : Nat) (x : Link) : (setPort s i x).glow = s.glow := rfl
@[simp] theorem modPort_glow (s : State) (i : Nat) (f : Link → Link) : (modPort s i f).glow = s.glow := rfl
@[simp] theorem setPort_life (s : State) (i : Nat) (x : Link) : (setPort s i x).life = s.life := rfl
@[simp] theorem modPort_life (s : State) (i : Nat) (f : Link → Link) : (modPort s i f).life = s.life := rfl
@[simp] theorem setPort_cal (s : State) (i : Nat) (x : Link) : (setPort s i x).cal = s.cal := rfl
@[simp] theorem modPort_cal (s : State) (i : Nat) (f : Link → Link) : (modPort s i f).cal = s.cal := rfl
@[simp] theorem setPort_power (s : State) (i : Nat) (x : Link) : (setPort s i x).power = s.power := rfl
@[simp] theorem modPort_power (s : State) (i : Nat) (f : Link → Link) : (modPort s i f).power = s.power := rfl
@[simp] theorem setPort_hostIf (s : State) (i : Nat) (x : Link) : (setPort s i x).hostIf = s.hostIf := rfl
@[simp] theorem modPort_hostIf (s : State) (i : Nat) (f : Link → Link) : (modPort s i f).hostIf = s.hostIf := rfl
@[simp] theorem setPort_flash (s : State) (i : Nat) (x : Link) : (setPort s i x).flash = s.flash := rfl
@[simp] theorem modPort_flash (s : State) (i : Nat) (f : Link → Link) : (modPort s i f).flash = s.flash := rfl
@[simp] theorem setPort_staging (s : State) (i : Nat) (x : Link) : (setPort s i x).staging = s.staging := rfl
@[simp] theorem modPort_staging (s : State) (i : Nat) (f : Link → Link) : (modPort s i f).staging = s.staging := rfl
@[simp] theorem setPort_smb (s : State) (i : Nat) (x : Link) : (setPort s i x).smb = s.smb := rfl
@[simp] theorem modPort_smb (s : State) (i : Nat) (f : Link → Link) : (modPort s i f).smb = s.smb := rfl
@[simp] theorem setPort_dbg (s : State) (i : Nat) (x : Link) : (setPort s i x).dbg = s.dbg := rfl
@[simp] theorem modPort_dbg (s : State) (i : Nat) (f : Link → Link) : (modPort s i f).dbg = s.dbg := rfl
@[simp] theorem setPort_refl (s : State) (i : Nat) (x : Link) : (setPort s i x).refl = s.refl := rfl
@[simp] theorem modPort_refl (s : State) (i : Nat) (f : Link → Link) : (modPort s i f).refl = s.refl := rfl
@[simp] theorem setPort_pending (s : State) (i : Nat) (x : Link) : (setPort s i x).pending = s.pending := rfl
@[simp] theorem modPort_pending (s : State) (i : Nat) (f : Link → Link) : (modPort s i f).pending = s.pending := rfl

/-! ## setQ and modQ -/

@[simp] theorem getQ_setQ_same (s : State) (q : Nat) (x : Queue) : getQ (setQ s q x) q = x := by simp [getQ, setQ]
@[simp] theorem getQ_setQ_ne (s : State) {i j : Nat} (x : Queue) (h : j ≠ i) : getQ (setQ s i x) j = getQ s j := by simp [getQ, setQ, h]
@[simp] theorem getQ_modQ_same (s : State) (i : Nat) (f : Queue → Queue) : getQ (modQ s i f) i = f (getQ s i) := by simp [modQ]
@[simp] theorem getQ_modQ_ne (s : State) {i j : Nat} (f : Queue → Queue) (h : j ≠ i) : getQ (modQ s i f) j = getQ s j := by simp [modQ, h]
@[simp] theorem getCtx_setQ (s : State) (i j : Nat) (x : Queue) : getCtx (setQ s i x) j = getCtx s j := rfl
@[simp] theorem getCtx_modQ (s : State) (i j : Nat) (f : Queue → Queue) : getCtx (modQ s i f) j = getCtx s j := rfl
@[simp] theorem getCore_setQ (s : State) (i j : Nat) (x : Queue) : getCore (setQ s i x) j = getCore s j := rfl
@[simp] theorem getCore_modQ (s : State) (i j : Nat) (f : Queue → Queue) : getCore (modQ s i f) j = getCore s j := rfl
@[simp] theorem getCluster_setQ (s : State) (i j : Nat) (x : Queue) : getCluster (setQ s i x) j = getCluster s j := rfl
@[simp] theorem getCluster_modQ (s : State) (i j : Nat) (f : Queue → Queue) : getCluster (modQ s i f) j = getCluster s j := rfl
@[simp] theorem getPart_setQ (s : State) (i j : Nat) (x : Queue) : getPart (setQ s i x) j = getPart s j := rfl
@[simp] theorem getPart_modQ (s : State) (i j : Nat) (f : Queue → Queue) : getPart (modQ s i f) j = getPart s j := rfl
@[simp] theorem getPort_setQ (s : State) (i j : Nat) (x : Queue) : getPort (setQ s i x) j = getPort s j := rfl
@[simp] theorem getPort_modQ (s : State) (i j : Nat) (f : Queue → Queue) : getPort (modQ s i f) j = getPort s j := rfl
@[simp] theorem setQ_part (s : State) (i : Nat) (x : Queue) : (setQ s i x).part = s.part := rfl
@[simp] theorem modQ_part (s : State) (i : Nat) (f : Queue → Queue) : (modQ s i f).part = s.part := rfl
@[simp] theorem setQ_dev (s : State) (i : Nat) (x : Queue) : (setQ s i x).dev = s.dev := rfl
@[simp] theorem modQ_dev (s : State) (i : Nat) (f : Queue → Queue) : (modQ s i f).dev = s.dev := rfl
@[simp] theorem setQ_time (s : State) (i : Nat) (x : Queue) : (setQ s i x).time = s.time := rfl
@[simp] theorem modQ_time (s : State) (i : Nat) (f : Queue → Queue) : (modQ s i f).time = s.time := rfl
@[simp] theorem setQ_freeIx (s : State) (i : Nat) (x : Queue) : (setQ s i x).freeIx = s.freeIx := rfl
@[simp] theorem modQ_freeIx (s : State) (i : Nat) (f : Queue → Queue) : (modQ s i f).freeIx = s.freeIx := rfl
@[simp] theorem setQ_nextOp (s : State) (i : Nat) (x : Queue) : (setQ s i x).nextOp = s.nextOp := rfl
@[simp] theorem modQ_nextOp (s : State) (i : Nat) (f : Queue → Queue) : (modQ s i f).nextOp = s.nextOp := rfl
@[simp] theorem setQ_mem (s : State) (i : Nat) (x : Queue) : (setQ s i x).mem = s.mem := rfl
@[simp] theorem modQ_mem (s : State) (i : Nat) (f : Queue → Queue) : (modQ s i f).mem = s.mem := rfl
@[simp] theorem setQ_ctxs (s : State) (i : Nat) (x : Queue) : (setQ s i x).ctxs = s.ctxs := rfl
@[simp] theorem modQ_ctxs (s : State) (i : Nat) (f : Queue → Queue) : (modQ s i f).ctxs = s.ctxs := rfl
@[simp] theorem setQ_cores (s : State) (i : Nat) (x : Queue) : (setQ s i x).cores = s.cores := rfl
@[simp] theorem modQ_cores (s : State) (i : Nat) (f : Queue → Queue) : (modQ s i f).cores = s.cores := rfl
@[simp] theorem setQ_clusters (s : State) (i : Nat) (x : Queue) : (setQ s i x).clusters = s.clusters := rfl
@[simp] theorem modQ_clusters (s : State) (i : Nat) (f : Queue → Queue) : (modQ s i f).clusters = s.clusters := rfl
@[simp] theorem setQ_dir (s : State) (i : Nat) (x : Queue) : (setQ s i x).dir = s.dir := rfl
@[simp] theorem modQ_dir (s : State) (i : Nat) (f : Queue → Queue) : (modQ s i f).dir = s.dir := rfl
@[simp] theorem setQ_parts (s : State) (i : Nat) (x : Queue) : (setQ s i x).parts = s.parts := rfl
@[simp] theorem modQ_parts (s : State) (i : Nat) (f : Queue → Queue) : (modQ s i f).parts = s.parts := rfl
@[simp] theorem setQ_owner (s : State) (i : Nat) (x : Queue) : (setQ s i x).owner = s.owner := rfl
@[simp] theorem modQ_owner (s : State) (i : Nat) (f : Queue → Queue) : (modQ s i f).owner = s.owner := rfl
@[simp] theorem setQ_unc (s : State) (i : Nat) (x : Queue) : (setQ s i x).unc = s.unc := rfl
@[simp] theorem modQ_unc (s : State) (i : Nat) (f : Queue → Queue) : (modQ s i f).unc = s.unc := rfl
@[simp] theorem setQ_invals (s : State) (i : Nat) (x : Queue) : (setQ s i x).invals = s.invals := rfl
@[simp] theorem modQ_invals (s : State) (i : Nat) (f : Queue → Queue) : (modQ s i f).invals = s.invals := rfl
@[simp] theorem setQ_nextInval (s : State) (i : Nat) (x : Queue) : (setQ s i x).nextInval = s.nextInval := rfl
@[simp] theorem modQ_nextInval (s : State) (i : Nat) (f : Queue → Queue) : (modQ s i f).nextInval = s.nextInval := rfl
@[simp] theorem setQ_nextSeq (s : State) (i : Nat) (x : Queue) : (setQ s i x).nextSeq = s.nextSeq := rfl
@[simp] theorem modQ_nextSeq (s : State) (i : Nat) (f : Queue → Queue) : (modQ s i f).nextSeq = s.nextSeq := rfl
@[simp] theorem setQ_flows (s : State) (i : Nat) (x : Queue) : (setQ s i x).flows = s.flows := rfl
@[simp] theorem modQ_flows (s : State) (i : Nat) (f : Queue → Queue) : (modQ s i f).flows = s.flows := rfl
@[simp] theorem setQ_inFlows (s : State) (i : Nat) (x : Queue) : (setQ s i x).inFlows = s.inFlows := rfl
@[simp] theorem modQ_inFlows (s : State) (i : Nat) (f : Queue → Queue) : (modQ s i f).inFlows = s.inFlows := rfl
@[simp] theorem setQ_msgs (s : State) (i : Nat) (x : Queue) : (setQ s i x).msgs = s.msgs := rfl
@[simp] theorem modQ_msgs (s : State) (i : Nat) (f : Queue → Queue) : (modQ s i f).msgs = s.msgs := rfl
@[simp] theorem setQ_routes (s : State) (i : Nat) (x : Queue) : (setQ s i x).routes = s.routes := rfl
@[simp] theorem modQ_routes (s : State) (i : Nat) (f : Queue → Queue) : (modQ s i f).routes = s.routes := rfl
@[simp] theorem setQ_remotes (s : State) (i : Nat) (x : Queue) : (setQ s i x).remotes = s.remotes := rfl
@[simp] theorem modQ_remotes (s : State) (i : Nat) (f : Queue → Queue) : (modQ s i f).remotes = s.remotes := rfl
@[simp] theorem setQ_msix (s : State) (i : Nat) (x : Queue) : (setQ s i x).msix = s.msix := rfl
@[simp] theorem modQ_msix (s : State) (i : Nat) (f : Queue → Queue) : (modQ s i f).msix = s.msix := rfl
@[simp] theorem setQ_outbox (s : State) (i : Nat) (x : Queue) : (setQ s i x).outbox = s.outbox := rfl
@[simp] theorem modQ_outbox (s : State) (i : Nat) (f : Queue → Queue) : (modQ s i f).outbox = s.outbox := rfl
@[simp] theorem setQ_reports (s : State) (i : Nat) (x : Queue) : (setQ s i x).reports = s.reports := rfl
@[simp] theorem modQ_reports (s : State) (i : Nat) (f : Queue → Queue) : (modQ s i f).reports = s.reports := rfl
@[simp] theorem setQ_img (s : State) (i : Nat) (x : Queue) : (setQ s i x).img = s.img := rfl
@[simp] theorem modQ_img (s : State) (i : Nat) (f : Queue → Queue) : (modQ s i f).img = s.img := rfl
@[simp] theorem setQ_ports (s : State) (i : Nat) (x : Queue) : (setQ s i x).ports = s.ports := rfl
@[simp] theorem modQ_ports (s : State) (i : Nat) (f : Queue → Queue) : (modQ s i f).ports = s.ports := rfl
@[simp] theorem setQ_tsync (s : State) (i : Nat) (x : Queue) : (setQ s i x).tsync = s.tsync := rfl
@[simp] theorem modQ_tsync (s : State) (i : Nat) (f : Queue → Queue) : (modQ s i f).tsync = s.tsync := rfl
@[simp] theorem setQ_forwards (s : State) (i : Nat) (x : Queue) : (setQ s i x).forwards = s.forwards := rfl
@[simp] theorem modQ_forwards (s : State) (i : Nat) (f : Queue → Queue) : (modQ s i f).forwards = s.forwards := rfl
@[simp] theorem setQ_withdrawn (s : State) (i : Nat) (x : Queue) : (setQ s i x).withdrawn = s.withdrawn := rfl
@[simp] theorem modQ_withdrawn (s : State) (i : Nat) (f : Queue → Queue) : (modQ s i f).withdrawn = s.withdrawn := rfl
@[simp] theorem setQ_trust (s : State) (i : Nat) (x : Queue) : (setQ s i x).trust = s.trust := rfl
@[simp] theorem modQ_trust (s : State) (i : Nat) (f : Queue → Queue) : (modQ s i f).trust = s.trust := rfl
@[simp] theorem setQ_glow (s : State) (i : Nat) (x : Queue) : (setQ s i x).glow = s.glow := rfl
@[simp] theorem modQ_glow (s : State) (i : Nat) (f : Queue → Queue) : (modQ s i f).glow = s.glow := rfl
@[simp] theorem setQ_life (s : State) (i : Nat) (x : Queue) : (setQ s i x).life = s.life := rfl
@[simp] theorem modQ_life (s : State) (i : Nat) (f : Queue → Queue) : (modQ s i f).life = s.life := rfl
@[simp] theorem setQ_cal (s : State) (i : Nat) (x : Queue) : (setQ s i x).cal = s.cal := rfl
@[simp] theorem modQ_cal (s : State) (i : Nat) (f : Queue → Queue) : (modQ s i f).cal = s.cal := rfl
@[simp] theorem setQ_power (s : State) (i : Nat) (x : Queue) : (setQ s i x).power = s.power := rfl
@[simp] theorem modQ_power (s : State) (i : Nat) (f : Queue → Queue) : (modQ s i f).power = s.power := rfl
@[simp] theorem setQ_hostIf (s : State) (i : Nat) (x : Queue) : (setQ s i x).hostIf = s.hostIf := rfl
@[simp] theorem modQ_hostIf (s : State) (i : Nat) (f : Queue → Queue) : (modQ s i f).hostIf = s.hostIf := rfl
@[simp] theorem setQ_flash (s : State) (i : Nat) (x : Queue) : (setQ s i x).flash = s.flash := rfl
@[simp] theorem modQ_flash (s : State) (i : Nat) (f : Queue → Queue) : (modQ s i f).flash = s.flash := rfl
@[simp] theorem setQ_staging (s : State) (i : Nat) (x : Queue) : (setQ s i x).staging = s.staging := rfl
@[simp] theorem modQ_staging (s : State) (i : Nat) (f : Queue → Queue) : (modQ s i f).staging = s.staging := rfl
@[simp] theorem setQ_smb (s : State) (i : Nat) (x : Queue) : (setQ s i x).smb = s.smb := rfl
@[simp] theorem modQ_smb (s : State) (i : Nat) (f : Queue → Queue) : (modQ s i f).smb = s.smb := rfl
@[simp] theorem setQ_dbg (s : State) (i : Nat) (x : Queue) : (setQ s i x).dbg = s.dbg := rfl
@[simp] theorem modQ_dbg (s : State) (i : Nat) (f : Queue → Queue) : (modQ s i f).dbg = s.dbg := rfl
@[simp] theorem setQ_refl (s : State) (i : Nat) (x : Queue) : (setQ s i x).refl = s.refl := rfl
@[simp] theorem modQ_refl (s : State) (i : Nat) (f : Queue → Queue) : (modQ s i f).refl = s.refl := rfl
@[simp] theorem setQ_pending (s : State) (i : Nat) (x : Queue) : (setQ s i x).pending = s.pending := rfl
@[simp] theorem modQ_pending (s : State) (i : Nat) (f : Queue → Queue) : (modQ s i f).pending = s.pending := rfl

/-! ## withPending -/

@[simp] theorem withPending_part (s : State) (p : List Instr) : (s.withPending p).part = s.part := rfl
@[simp] theorem withPending_dev (s : State) (p : List Instr) : (s.withPending p).dev = s.dev := rfl
@[simp] theorem withPending_time (s : State) (p : List Instr) : (s.withPending p).time = s.time := rfl
@[simp] theorem withPending_freeIx (s : State) (p : List Instr) : (s.withPending p).freeIx = s.freeIx := rfl
@[simp] theorem withPending_nextOp (s : State) (p : List Instr) : (s.withPending p).nextOp = s.nextOp := rfl
@[simp] theorem withPending_mem (s : State) (p : List Instr) : (s.withPending p).mem = s.mem := rfl
@[simp] theorem withPending_ctxs (s : State) (p : List Instr) : (s.withPending p).ctxs = s.ctxs := rfl
@[simp] theorem withPending_cores (s : State) (p : List Instr) : (s.withPending p).cores = s.cores := rfl
@[simp] theorem withPending_clusters (s : State) (p : List Instr) : (s.withPending p).clusters = s.clusters := rfl
@[simp] theorem withPending_dir (s : State) (p : List Instr) : (s.withPending p).dir = s.dir := rfl
@[simp] theorem withPending_parts (s : State) (p : List Instr) : (s.withPending p).parts = s.parts := rfl
@[simp] theorem withPending_owner (s : State) (p : List Instr) : (s.withPending p).owner = s.owner := rfl
@[simp] theorem withPending_unc (s : State) (p : List Instr) : (s.withPending p).unc = s.unc := rfl
@[simp] theorem withPending_invals (s : State) (p : List Instr) : (s.withPending p).invals = s.invals := rfl
@[simp] theorem withPending_nextInval (s : State) (p : List Instr) : (s.withPending p).nextInval = s.nextInval := rfl
@[simp] theorem withPending_nextSeq (s : State) (p : List Instr) : (s.withPending p).nextSeq = s.nextSeq := rfl
@[simp] theorem withPending_queues (s : State) (p : List Instr) : (s.withPending p).queues = s.queues := rfl
@[simp] theorem withPending_flows (s : State) (p : List Instr) : (s.withPending p).flows = s.flows := rfl
@[simp] theorem withPending_inFlows (s : State) (p : List Instr) : (s.withPending p).inFlows = s.inFlows := rfl
@[simp] theorem withPending_msgs (s : State) (p : List Instr) : (s.withPending p).msgs = s.msgs := rfl
@[simp] theorem withPending_routes (s : State) (p : List Instr) : (s.withPending p).routes = s.routes := rfl
@[simp] theorem withPending_remotes (s : State) (p : List Instr) : (s.withPending p).remotes = s.remotes := rfl
@[simp] theorem withPending_msix (s : State) (p : List Instr) : (s.withPending p).msix = s.msix := rfl
@[simp] theorem withPending_outbox (s : State) (p : List Instr) : (s.withPending p).outbox = s.outbox := rfl
@[simp] theorem withPending_reports (s : State) (p : List Instr) : (s.withPending p).reports = s.reports := rfl
@[simp] theorem withPending_img (s : State) (p : List Instr) : (s.withPending p).img = s.img := rfl
@[simp] theorem withPending_ports (s : State) (p : List Instr) : (s.withPending p).ports = s.ports := rfl
@[simp] theorem withPending_tsync (s : State) (p : List Instr) : (s.withPending p).tsync = s.tsync := rfl
@[simp] theorem withPending_forwards (s : State) (p : List Instr) : (s.withPending p).forwards = s.forwards := rfl
@[simp] theorem withPending_withdrawn (s : State) (p : List Instr) : (s.withPending p).withdrawn = s.withdrawn := rfl
@[simp] theorem withPending_trust (s : State) (p : List Instr) : (s.withPending p).trust = s.trust := rfl
@[simp] theorem withPending_glow (s : State) (p : List Instr) : (s.withPending p).glow = s.glow := rfl
@[simp] theorem withPending_life (s : State) (p : List Instr) : (s.withPending p).life = s.life := rfl
@[simp] theorem withPending_cal (s : State) (p : List Instr) : (s.withPending p).cal = s.cal := rfl
@[simp] theorem withPending_power (s : State) (p : List Instr) : (s.withPending p).power = s.power := rfl
@[simp] theorem withPending_hostIf (s : State) (p : List Instr) : (s.withPending p).hostIf = s.hostIf := rfl
@[simp] theorem withPending_flash (s : State) (p : List Instr) : (s.withPending p).flash = s.flash := rfl
@[simp] theorem withPending_staging (s : State) (p : List Instr) : (s.withPending p).staging = s.staging := rfl
@[simp] theorem withPending_smb (s : State) (p : List Instr) : (s.withPending p).smb = s.smb := rfl
@[simp] theorem withPending_dbg (s : State) (p : List Instr) : (s.withPending p).dbg = s.dbg := rfl
@[simp] theorem withPending_refl (s : State) (p : List Instr) : (s.withPending p).refl = s.refl := rfl
@[simp] theorem withPending_pending (s : State) (p : List Instr) : (s.withPending p).pending = p := rfl

end Sys2Proof.Machine
end

