-- ==== Sys2Proof/Tests/Slice0.lean ====
section
/-!
SUPPORT. Tests: ill-formed commands that the checks refuse, a witness for the hypotheses of every statement, clause by clause, and
small checks of single commands against the rules.
-/

namespace Sys2Proof.Tests
open Sys2Proof Sys2Proof.Machine

/-! ## Well-formedness: one ill-formed command for each check, and its well-formed neighbour -/

theorem test_wf_context : Instr.wf .ah9128L (.fetchPacket 4096) = false ∧ Instr.wf .ah9128L (.fetchPacket 4095) = true := by decide
theorem test_wf_core : Instr.wf .ah9128L (.storeDrain 128) = false ∧ Instr.wf .ah9128L (.storeDrain 127) = true := by decide
theorem test_wf_cluster : Instr.wf .ah9512 (.clcmdOff 32) = false ∧ Instr.wf .ah9512 (.clcmdOff 31) = true := by decide
theorem test_wf_partition : Instr.wf .ah9512 (.slcmdAttest 32) = false ∧ Instr.wf .ah9512 (.slcmdAttest 31) = true := by decide
theorem test_wf_line : Instr.wf .ah9512 (.homeRead 0 (2 ^ 33)) = false ∧ Instr.wf .ah9512 (.homeRead 0 (2 ^ 33 - 1)) = true := by decide
theorem test_wf_engine : Instr.wf .ah9512 (.routineSegment 0 2) = false ∧ Instr.wf .ah9512 (.routineSegment 0 1) = true := by decide
theorem test_wf_unit : Instr.wf .ah9512 (.tlbiAck (.core 512)) = false ∧ Instr.wf .ah9512 (.tlbiAck (.range 31)) = true := by decide
theorem test_wf_sender : Instr.wf .ah9512 (.messageRelease (.cluster 32)) = false ∧
    Instr.wf .ah9512 (.messageRelease .base) = true := by decide
theorem test_wf_message :
    Instr.wf .ah9512 (.queueMessageArrival (.port 1) (some { x := { dst := 0, src := 1, part := 0 }, kind := 0, ctx := 0, qid := 0
                                                             words := [] })) = false ∧
    Instr.wf .ah9512 (.queueMessageArrival (.port 1) (some { x := { dst := 0, src := 16, part := 0 }, kind := 0, ctx := 0, qid := 0
                                                             words := [Word.zero] })) = false := by decide
theorem test_wf_stack : Instr.wf .ah9128L (.stackSelfRefresh 2) = false ∧ Instr.wf .ah9128L (.stackSelfRefresh 1) = true := by decide
theorem test_wf_domain : Instr.wf .ah9512 (.powerDomainOffRequest 62) = false ∧ Instr.wf .ah9512 (.powerDomainWake 61) = true := by decide
theorem test_wf_voltage : Instr.wf .ah9512 (.vcoreAdjust 513 0 0) = false ∧ Instr.wf .ah9512 (.vcoreAdjust 0 1024 0) = false ∧
    Instr.wf .ah9512 (.thermalLimitChange 256) = false ∧ Instr.wf .ah9512 (.railLoss 16) = false := by decide
theorem test_wf_report : Instr.wf .ah9512 (.afterglowReport (some { code := 65536, subj := .none, pay := [] })) = false ∧
    Instr.wf .ah9512 (.aggEntryClose 256) = false ∧ Instr.wf .ah9512 (.suppRecordTimeout 65536) = false ∧
    Instr.wf .ah9512 (.ringScrub [524288]) = false ∧ Instr.wf .ah9512 (.penumbraWindowExpiry 2048) = false := by decide
theorem test_wf_dcs : Instr.wf .ah9512 (.dcsRegisterWrite (.part 32) 0 Word.zero) = false ∧
    Instr.wf .ah9512 (.dcsRegisterWrite .pf (2 ^ 36) Word.zero) = false := by decide
theorem test_wf_pcie : Instr.wf .ah9512 (.pcieMemoryRead 33 0 0 16) = false ∧ Instr.wf .ah9512 (.pcieMemoryRead 0 6 0 16) = false ∧
    Instr.wf .ah9512 (.pcieMemoryRead 0 0 0 0) = false ∧ Instr.wf .ah9512 (.pcieMemoryWrite 0 0 0 false []) = false ∧
    Instr.wf .ah9512 (.pcieConfigRequest 0 1024 false 0) = false ∧ Instr.wf .ah9512 (.pcieUnsupportedRequest 0 11) = false ∧
    Instr.wf .ah9512 (.pcieMalformedTlp (some 33) 0) = false ∧ Instr.wf .ah9512 (.pcieFlr 33) = false ∧
    Instr.wf .ah9512 (.pcieLinkUp 256 16) = false := by decide
theorem test_wf_host : Instr.wf .ah9512 (.hqheadWrite 0 65536 Word.zero) = false ∧ Instr.wf .ah9512 (.hmcmdAttest 256) = false := by decide
theorem test_wf_smbus : Instr.wf .ah9512 (.smbSetAddr [0] false) = false ∧ Instr.wf .ah9512 (.smbWrite [0] false) = false ∧
    Instr.wf .ah9512 (.smbWarmReset [] false) = false ∧ Instr.wf .ah9512 (.smbFlashAddr [] false) = false ∧
    Instr.wf .ah9512 (.smbFlashWrite [] false) = false := by decide
theorem test_wf_debug : Instr.wf .ah9512 (.dbgToken []) = false ∧ Instr.wf .ah9512 (.dbgReadMem (2 ^ 36)) = false ∧
    Instr.wf .ah9512 (.dbgReadCtx (2 ^ 14) 0) = false ∧ Instr.wf .ah9512 (.dbgHalt (2 ^ 14)) = false ∧
    Instr.wf .ah9512 (.dbgReadMatch 0 0 64) = false ∧ Instr.wf .ah9512 (.dbgReadPatch 0 0 256 0) = false ∧
    Instr.wf .ah9512 (.dbgReadRom 16384 0) = false ∧ Instr.wf .ah9512 (.dbgTraceCtl 4 0) = false ∧
    Instr.wf .ah9512 (.dbgTraceRead 0 8192) = false := by decide
theorem test_wf_port : Instr.wf .ah9512 (.portTraining 16 15 0 0 0 0) = false ∧ Instr.wf .ah9512 (.portTraining 1 16 0 0 0 0) = false ∧
    Instr.wf .ah9512 (.flitSlot 16) = false ∧ Instr.wf .ah9512 (.linkCtrlAck 1 65536) = false ∧
    Instr.wf .ah9512 (.linkCtrlCredit 1 16 0) = false ∧ Instr.wf .ah9512 (.flitError 1 4) = false ∧
    Instr.wf .ah9512 (.linkFailure 1 16) = false ∧ Instr.wf .ah9512 (.remoteRequestTimeout 65536) = false := by decide
theorem test_wf_control :
    Instr.wf .ah9512 (.ctrlRetrain 1 { origin := 16, target := 0, part := 0 }) = false ∧
    Instr.wf .ah9512 (.ctrlRouteOpen 1 { origin := 1, target := 0, part := 0 } 0 32) = false ∧
    Instr.wf .ah9512 (.ctrlRouteReply 1 { origin := 1, target := 0, part := 32 } 0 0) = false := by decide
theorem test_wf_reflect : Instr.wf .ah9512 (.reflectLine 16 0 []) = false ∧
    Instr.wf .ah9512 (.reflectSnap 1 0 (List.replicate 193 Word.zero)) = false := by decide +kernel

/-! ## States for the witnesses -/

/-- A page of partition 0 mapped one to one, with every right that its kind takes. -/
def pageEnt (vpn : Nat) (x u rstack : Bool) (typ : Nat := 0) : TlbEnt :=
  { part := 0, asid := 0, vpn, ppn := vpn, contig := 0, r := true, w := !x, x, u, d := true, typ, gen := 0, rstack }

/-- Partition 0 with context 0 of core 0; pages: 4 a data page, 5 a supervisor's code page, 6 uncached data, 8 a user's code page;
`EVEC` is in page 5. -/
def base : State :=
  { State.reset with
    owner := [(0, 0)], parts := [(0, { defined := true, evec := 0x1400, grants := [(0, 0x100000)], mqbounce := 7 })]
    cores := [(0, { tlb := [(0, pageEnt 4 false false false), (1, pageEnt 5 true false false), (2, pageEnt 6 false false false 1),
                            (3, pageEnt 8 true true false)] })] }

/-- A context in page 5 with a supervisor stack in page 4. -/
def ready : Ctx :=
  { run := .runnable, priv := true, pc := 0x1410, s := { latch := [(pDSsp, Word.fixN 0x1000), (pDSlim, Word.fixN 0x1300)] } }

def withCtx (x : Ctx) : State := { base with ctxs := [(0, x)] }

def withPart (q : Partition) : State := { base with parts := [(0, q)], ctxs := [(0, ready)] }

def withCluster (k : Cluster) : State := { base with clusters := [(0, k)], ctxs := [(0, ready)] }

def withPower (s : State) (p : Power) : State := { s with power := p }

/-- A context with a packet at hand. -/
def atHand (w : Word) : Ctx := { ready with fetched := some { pc := 0x1410, word := .inl w } }

def codeWord (v : W64) : Word := ⟨tagCODE, v⟩

/-! ## The hypotheses of the statements met: the queue and memory -/

theorem test_met_IdleStepTicks : State.reset.pending = [] ∧ State.reset.power.vaon = true ∧ State.reset.tsync.slew = 0 := by decide
theorem test_met_EveryStepKeepsInv : Memory.wf [(3, Word.fixN 1)] = true ∧ (∃ t, step { base with mem := [(3, Word.fixN 1)] } = .next t) :=
  ⟨by decide, _, rfl⟩
theorem test_met_CommandsKeepDevice : ∃ t, exec (.fetchPacket 0) base = .next t := ⟨_, rfl⟩
theorem test_met_EveryCommandCompletes : (exec (.clcmdOff 32) base matches .next _) = true ∧ SameDevice base base := by
  unfold SameDevice; decide +kernel
theorem test_met_MemoryIsCanonical : Memory.wf [(1, Word.fixN 1), (2, Word.fixN 7)] = true := by decide
theorem test_memory_refused : Memory.wf [(2, Word.fixN 1), (1, Word.fixN 7)] = false ∧ Memory.wf [(1, Word.zero)] = false := by decide
theorem test_met_FrameRoundTrip : ∃ x : Ctx, (2 : Nat) ≤ 2 ∧ 2 ^ 48 - 1 < 2 ^ 48 ∧ x.xfers.length ≤ 3 ∧
    (∀ t ∈ x.xfers, t.target < 2 ^ 48 ∧ t.dist < 4) ∧ x.rpt = .armed 65535 ∧ x.regs.cause.toNat < 256 ∧
    x.regs.faddr.toNat < 2 ^ 48 :=
  ⟨{ xfers := [{ target := 2 ^ 48 - 1, dist := 3 }, { target := 0, dist := 0 }, { target := 1, dist := 1 }], rpt := .armed 65535
     regs := { cause := 255, faddr := 0xFFFFFFFFFFFF } }, by decide⟩
theorem test_met_PacketWordIsItsPacket : decodePacket 0x4108000000000009 = some (.t4 ⟨0x42, 0, 9⟩) := by decide

/-! ## The execution core -/

/-- Context 0 about to fetch a line that its L1I holds. -/
def fetching : State :=
  { withCtx ready with cores := [(0, { getCore base 0 with l1i := [(0x202 % 128 * 4, { v := true, tag := 0x282, data := [] })] })] }

theorem test_met_FetchHoldsPacket :
    ((getCtx fetching 0).run = .runnable ∧ (getCtx fetching 0).fetched = none ∧
      translate fetching 0 (fetchReq (getCtx fetching 0)) = .ok 0x1410 0 (pageEnt 5 true false false) ∧
      l1iFind (getCore fetching (coreOf 0)) 0x1410 (0x1410 / 8) = some 8) ∧
    (let x : Ctx := { ready with walks := [{ req := fetchReq ready, res := .inr { cause := cILLEGAL_MOVE, faddr := 0 } }] }
     translate (withCtx x) 0 (fetchReq x) = .fault { cause := cILLEGAL_MOVE, faddr := 0 }) ∧
    (let x : Ctx := { ready with pc := 0x2400 }
     translate (withCtx x) 0 (fetchReq x) = .miss) ∧
    (let x : Ctx := { atHand (Word.fixN 1) with
       walks := [{ req := { fetchReq ready with va := 0x1411 }, res := .inr { cause := cILLEGAL_MOVE, faddr := 0 } }] }
     x.run = .runnable ∧ x.fetched = some { pc := x.pc, word := .inl (Word.fixN 1) } ∧ x.ahead = none ∧
       translate (withCtx x) 0 { fetchReq x with va := (x.pc + 1) % 2 ^ 48 } = .fault { cause := cILLEGAL_MOVE, faddr := 0 }) := by
  decide +kernel

def isOk {α : Type} : Chk α → Bool
  | .ok _ => true
  | _ => false

def isFault {α : Type} : Chk α → Bool
  | .error (.fault _) => true
  | _ => false

def isFailed {α : Type} : Chk α → Bool
  | .error (.failed ..) => true
  | _ => false

def isPark {α : Type} : Chk α → Bool
  | .error (.park _) => true
  | _ => false

/-- What the clauses of PacketIssueExamines ask of context 0 with a word at hand. -/
def issuable (s : State) : Prop :=
  stepIssues s 0 = true ∧ chooseCtx s 0 = some 0 ∧ takesInterrupt (getCtx s 0) = false ∧ (getCtx s 0).rpt ≠ .armed 0

def moveG3 : Word := codeWord (encodePacket (.t0 ⟨0x43, true, 0x7F⟩ ⟨0, false, 0⟩ ⟨0, false, 0⟩ ⟨0, false, 0⟩))
def readG3 : Word := codeWord (encodePacket (.t0 ⟨0x42, false, 0x43⟩ ⟨0, false, 0⟩ ⟨0, false, 0⟩ ⟨0, false, 0⟩))

theorem test_met_PacketIssueExamines :
    (let s := withCtx (atHand moveG3)
     issuable s ∧ isOk (examine (modCtx (issuedBy s 0 0) 0 takeColour) 0 moveG3) = true) ∧
    (let s := withCtx (atHand (Word.fixN 1))
     issuable s ∧ isFault (examine (modCtx (issuedBy s 0 0) 0 takeColour) 0 (Word.fixN 1)) = true) ∧
    (let s := withCtx { atHand readG3 with g := [(3, .failed { cause := cNO_PATH, faddr := 0 } 5 false)] }
     issuable s ∧ isFailed (examine (modCtx (issuedBy s 0 0) 0 takeColour) 0 readG3) = true) ∧
    (let s := withCtx { atHand readG3 with g := [(3, .pending 5)] }
     issuable s ∧ isPark (examine (modCtx (issuedBy s 0 0) 0 takeColour) 0 readG3) = true) ∧ chooseCtx base 0 = none ∧
    (let s := withCtx { ready with fetched := some { pc := 0x1410, word := .inr { cause := cILLEGAL_MOVE, faddr := 0 } } }
     issuable s) ∧
    (let s := withCtx { atHand moveG3 with regs := { ien := 4, ipend := 4, ie := true } }
     stepIssues s 0 = true ∧ chooseCtx s 0 = some 0 ∧ takesInterrupt (getCtx s 0) = true) := by
  unfold issuable; decide +kernel

def wideG3 : Word := codeWord (encodePacket (.t4 ⟨BitVec.ofNat 10 (0x40 + 3), tagFIX, 7⟩))

theorem test_met_MoveImmediateToRegister : ∀ w ∈ [moveG3, wideG3, readG3],
    let s := withCtx (atHand w)
    issuable s ∧ (getCtx s 0).rpt = .none ∧ (getCtx s 0).xfers = [] ∧ (curBank (getCtx s 0)).inflight = [] ∧
      (getCtx s 0).regs.dchk = false ∧ (getCtx s 0).regs.aemuV = false ∧
      (getCtx s 0).fetched = some { pc := (getCtx s 0).pc, word := .inl w } ∧
      creationFault (ctxPart s 0) (getCtx s 0).priv (Word.fixN 7) = none ∧ gOf (getCtx s 0) 3 = .word Word.zero := by
  unfold issuable; decide +kernel

theorem test_move_G3 : (match exec (.packetIssue 0 none) (withCtx (atHand moveG3)) with
    | .next t => decide (gOf (getCtx t 0) 3 = .word (Word.fix 0xFFFFFFFFFFFFFFFF))
    | _ => false) = true := by decide +kernel

def isGood : BaseRes → Bool
  | .good _ => true
  | _ => false

theorem test_met_EntryIsMadeOrHalts :
    isGood (checkBase (withCtx ready) 0 (entryBase ready { cause := 1, target := 0, resume := 0, kind := 0, faddr := 0, finfo := 0 })
      (latchOf ready.s pDSlim)) = true ∧
    checkBase (withCtx { ready with s := {} }) 0 (Word.fixN 1) (Word.fixN 0) = .bad 3 0 := by decide +kernel

theorem test_met_InterruptsAndDeferredFaultsEnter :
    (let s := withCtx { atHand moveG3 with regs := { ien := 4, ipend := 4, ie := true } }
     stepIssues s 0 = true ∧ chooseCtx s 0 = some 0 ∧ takesInterrupt (getCtx s 0) = true ∧
       isGood (checkBase (modCtx (issuedBy s 0 0) 0 fun x => { x with park := none }) 0 (latchOf (getCtx s 0).s pDSsp)
         (latchOf (getCtx s 0).s pDSlim)) = true) ∧
    (let x : Ctx := { ready with storeFaults := [{ cause := 9, faddr := 1 }], nurseryFault := some { cause := 8, faddr := 2 } }
     boundaryOpen x = true ∧
       isGood (checkBase (withCtx { x with storeFaults := [] }) 0 (latchOf x.s pDSsp) (latchOf x.s pDSlim)) = true ∧
       isGood (checkBase (withCtx { x with nurseryFault := none }) 0 (latchOf x.s pDSsp) (latchOf x.s pDSlim)) = true) := by
  decide +kernel

theorem test_met_ReceiveWaitIsWithdrawn :
    let s := withCtx { ready with recvEntry := true, slot := some { id := 3, kind := .recv 9 true, dsts := [1] } }
    (getCtx s 0).recvEntry = true ∧ (getCtx s 0).slot = some { id := 3, kind := .recv 9 true, dsts := [1] } ∧
      (getCtx s 0).park = none ∧ (getCtx s 0).rqWant = false ∧ (getCtx s 0).recvWant = false := by decide

def walkReq4 : WalkReq := { va := 0x1000, acc := .load, priv := true, row := .any }

theorem test_met_WalkCompletes :
    (let s := withCtx { ready with park := some (.tlb [walkReq4]), walking := true }
     (getCtx s 0).park = some (.tlb [walkReq4]) ∧ (getCtx s 0).walking = true ∧ walkOvertaken s 0 walkReq4 = false) ∧
    (let s := withCtx { ready with park := some (.tlb [walkReq4]), walking := true, walkRead := some (0x2004, ⟨tagPTE, 0xE200000000001000⟩) }
     (getCtx s 0).park = some (.tlb [walkReq4]) ∧ (getCtx s 0).walking = true ∧ walkOvertaken s 0 walkReq4 = true) := by decide +kernel

theorem test_met_HoldsEnd :
    (∀ k ∈ [1, 2, 4], fenceHolds (withCtx { ready with hold := .fence k }) 0 k = true) ∧
    (let s := { withCtx { ready with hold := .fence 2, fenceSeq := 2 } with
                cores := [(0, { sq := [{ ctx := 0, va := 0, pa := 0, typ := 0, word := Word.zero, seq := 1 }] })] }
     fenceHolds s 0 2 = false) ∧
    uComplete { ready with hold := .udrain } = true := by decide +kernel

def inval0 (rem ack : List TransUnit) : Inval :=
  { id := 5, ctx := 0, part := 0, kind := 2, asid := 0, va := 0, toRemove := rem, toAck := ack }

theorem test_met_InvalidationIsReceived :
    (let s := { withCtx ready with invals := [inval0 [.core 0] [.core 0]] }
     (s.invals.find? fun v => unitOn s (.core 0) && v.toRemove.contains (.core 0) && storesDone s v.ctx v.seq) =
       some (inval0 [.core 0] [.core 0])) ∧
    (let s := { withCtx { ready with hold := .tlbsync [5], invOut := [5] } with invals := [inval0 [] [.core 0]] }
     (s.invals.find? fun v => unitOn s (.core 0) && !v.toRemove.contains (.core 0) && v.toAck.contains (.core 0) &&
       accessesDone s v (.core 0)) = some (inval0 [] [.core 0]) ∧ (getCtx s 0).hold = .tlbsync [5]) := by decide +kernel

theorem test_met_ValueArrives :
    let m : MissOp := { id := 3, kind := .uncachedLoad 0x1800 0x1800 false, dsts := [1], result := some (.words [Word.fixN 9]) }
    let s := withCtx { ready with g := [(1, .pending 3)], slot := some m }
    (getCtx s 0).slot = some m ∧ gOf (getCtx s 0) 1 = .pending m.id ∧ (getCluster s (clusterOf 0)).power = .active ∧
      colourMiss (ctxPart s 0) (agentOf s 0).goodc (Word.fixN 9) = false ∧ (getCtx s 0).rqWant = false ∧
      (getCtx s 0).recvWant = false := by decide +kernel

def uncStore : StoreEnt := { ctx := 0, va := 0x1800, pa := 0x1800, typ := 1, word := Word.fixN 1 }

theorem test_met_UncachedAccessesReachHome :
    (let s := { withCtx ready with cores := [(0, { sq := [uncStore] })] }
     coresOn s (clusterOfCore 0) = true ∧ drainBlocked s 0 uncStore = false ∧ uncAhead s 0 = false ∧
       sharedFree s (clusterOfCore 0) = true) ∧
    (let r : UncReq := { who := .ctxOp 0 3, pa := 0x1800, kind := .read }
     let s := { withCtx { ready with slot := some { id := 3, kind := .uncachedLoad 0x1800 0x1800 false, dsts := [1] } } with unc := [r] }
     nextUnc s (uncHome s 0x1800) true = some (0, r) ∧ lineDirty s (r.pa % 2 ^ 36 / 8) = false ∧ dirOf s (r.pa % 2 ^ 36 / 8) = none) ∧
    (let r : UncReq := { who := .ctxStore 0 3, pa := 0x1800, kind := .write (Word.fixN 1) }
     let s := { withCtx ready with unc := [r] }
     nextUnc s (uncHome s 0x1800) false = some (0, r) ∧ lineDirty s (r.pa % 2 ^ 36 / 8) = false ∧
       shipWaits s (r.pa % 2 ^ 36 / 8) = false ∧ windowFills s (r.pa % 2 ^ 36 / 8) = false) := by decide +kernel

/-! ## Engines, Collector, range operations -/

def routineCtx (st : Nat) : Ctx :=
  { ready with slot := some { id := 3, kind := .routine, dsts := [1] }
               rq := { state := st, routine := 0x0A, a := Word.fixN 1000000007, b := Word.fixN 999999937, op := 3 } }

def serving (e : Engine) (x : Ctx) : State :=
  { withCtx x with clusters := [(0, { engines := [(0, { e with serving := some 0 })] })] }

/-- A segment of context 0 that commits. -/
def segmentRuns (s : State) : Bool :=
  match (rtWork (rtOf s 0 0 0) []).run (modEngine (drainStores 0 0 [] s) 0 0 fun e => { e with heals := [] }) with
  | (.ok _, _) => true
  | _ => false

/-- An engine that serves a CMP of 600 words of page 4 with themselves. -/
def comparing : State :=
  let s := serving {} { routineCtx 1 with rq := { (routineCtx 1).rq with priv := true, routine := 0x12, c := Word.fixN 600
                                                                         a := Word.fixN 0x1000, b := Word.fixN 0x1000 } }
  { s with clusters := [(0, { engines := [(0, { serving := some 0, tlb := [(0, pageEnt 4 false false false)] })] })] }

theorem test_met_EnginesServeRequests_taken : ∀ q ∈ [({ ctx := 0 } : RoutineReq),
      { ctx := noCtx, coll := some { part := 0, copy := false, ptr := Word.zero, first := Word.zero, src := 0x1000, count := 300 } }],
    let s := withCluster { reqQ := [q] }
    (engineOf s 0 1).serving = none ∧ (engineOf s 0 1).job = none ∧ (engineOf s 0 1).stores = [] ∧ engineLines s 0 1 = 0 ∧
      (engineOf s 0 1).retired = false ∧ (getCluster s 0).power = .active ∧ nextRequest s 0 1 = some (0, q) := by decide +kernel

theorem test_met_EnginesServeRequests :
    (∀ s ∈ [comparing, serving {} { routineCtx 1 with rqFail := some { cause := cNO_PATH, faddr := 0 } },
        serving {} { routineCtx 1 with rqEnd := some [Word.fixN 1] }],
      (engineOf s 0 0).serving = some 0 ∧ (engineOf s 0 0).job = none ∧ (getCtx s 0).rq.state = 1 ∧
        (s.remotes.any fun q => q.who == .engine 0 0) = false ∧ (engineOf s 0 0).stores = [] ∧ ctxStoresMade s 0 = true ∧
        sharedFree s 0 = true) ∧
    ((getCtx comparing 0).rqFail = none ∧ (getCtx comparing 0).rqEnd = none ∧ (engineOf comparing 0 0).micro = none ∧
      microSeen comparing 0 = false ∧ segmentRuns comparing = true) ∧
    (let s := serving {} { routineCtx 1 with rqFail := some { cause := cNO_PATH, faddr := 0 } }
     (getCtx s 0).rqFail = some { cause := cNO_PATH, faddr := 0 } ∧ (getCtx s 0).rq.range = none) ∧
    (let s := serving {} { routineCtx 1 with rqEnd := some [Word.fixN 1] }
     (getCtx s 0).rqFail = none ∧ (getCtx s 0).rqEnd = some [Word.fixN 1] ∧ (getCtx s 0).slot = (routineCtx 1).slot ∧
       (getCtx s 0).rq.op = 3) := by
  decide +kernel

theorem test_met_SuspensionFreesSlot : ∀ st ∈ [2, 3],
    let s := serving {} { routineCtx st with rqSuspended := true }
    slotIsRoutine (getCtx s 0) = true ∧ (getCtx s 0).rqSuspended = true ∧ (getCtx s 0).rqWant = false ∧
      (getCtx s 0).recvWant = false ∧ (getCtx s 0).park = none ∧ (getCtx s 0).rq.state = st ∧
      (∀ k ∈ s.clusters, ∀ e ∈ k.2.engines, e.2.serving = some 0 →
        e.2.stores = [] ∧ atPoll s e.2 = true ∧ ∀ q ∈ s.remotes, q.who ≠ .engine k.1 e.1) := by
  decide

/-- A partition whose Collector is in a phase, with a table walk that maps page 4: directory words at 0x10000, 0x10400 and 0x10800, and
the leaf table at 0x10C00. -/
def collecting (phase : Nat) (q : Partition) (mem : List (Nat × Word)) : State :=
  { withPart { q with defined := true, phase, tbaseDef := 0x10000, grants := [(0, 0x100000)] } with
    mem := mem ++ [(0x10000, ⟨tagPTD, 0x8000000000010400⟩), (0x10400, ⟨tagPTD, 0x8000000000010800⟩),
                   (0x10800, ⟨tagPTD, 0x8000000000010C00⟩), (0x10C04, ⟨tagPTE, 0xE600000000001000⟩)] }

theorem test_met_CollectorPhaseAdvances :
    (∀ ph ∈ [1, 2, 3, 4, 6], let s := collecting ph { coll := { started := true } } []
      collCluster s 0 = some 0 ∧ reflPauses s 0 = false ∧ (getPart s 0).phase = ph ∧ markIdle s 0 = true ∧ peersEnded s 0 = true ∧
        sharedFree s 0 = true ∧ (getPart s 0).coll.started = true ∧ (getPart s 0).coll.shake = [] ∧ logsHeld s 0 = false ∧ weakLeft s 0 = false) ∧
    (let s := collecting 7 {} []
     collCluster s 0 = some 0 ∧ reflPauses s 0 = false ∧ peersEnded s 0 = true ∧ evacLeft s (collAgent s 0 0) = false ∧
       jobsLeft s 0 = false) := by decide +kernel

theorem test_met_CollectorMarks :
    (∀ ph ∈ [2, 3], let s := collecting ph { coll := { markQ := [Word.fixN 1] } } []
      collCluster s 0 = some 0 ∧ reflPauses s 0 = false ∧ (getPart s 0).coll.markQ = [Word.fixN 1] ∧
        (getPart s 0).coll.weakFull = false ∧ sharedFree s 0 = true) ∧
    (let s := collecting 2 { coll := { weakFull := true } } []
     collCluster s 0 = some 0 ∧ reflPauses s 0 = false ∧ (getPart s 0).coll.weakFull = true) ∧
    (let s := { collecting 2 { satbq := 9 } [(0x1000, ⟨tagRAW, 1⟩)] with
                queues := [(9, { enabled := true, owned := true, bind := 2, base := 0x1000, tail := 1 })] }
     (getPart s 0).coll.markQ = [] ∧ (getPart s 0).coll.rootsDone = true ∧ (getPart s 0).coll.cardsDone = true ∧
       (hwHead s (bits (getPart s 0).satbq 19 0)).map Prod.fst = some 9) ∧
    (getPart (collecting 4 {} []) 0).phase ≠ 2 ∧ (getPart (collecting 1 {} []) 0).phase ≠ 3 := by decide +kernel

/-- A ring at word 0x1000 that holds one message. -/
def oneWaiting : Queue := { enabled := true, owned := true, bind := 2, base := 0x1000, tail := 1 }

/-- A pair, a pointer to it and the heap of 0x1200 onwards. -/
def heapPart : Partition :=
  { tdt := [(0x80, BitVec.ofNat 64 clsPOINTER)], weakq := 9, heapbase := 0x1200, heaplim := 0x41200, rtbase := 0x1000, mbmbase := 0x1100 }

theorem test_met_CollectorEvacuates :
    (let s := { collecting phWEAK_CLEAR heapPart [(0x1000, ⟨tagRAW, 1⟩), (0x1001, Word.fixN 4)] with queues := [(9, oneWaiting)] }
     collCluster s 0 = some 0 ∧ sharedFree s 0 = true ∧ rangePending s 0 = false ∧
       ((hwHead s 9).map fun h => isPointer (getPart s 0) ((h.2[0]?).getD Word.zero)) = some false) ∧
    (let s := { collecting phWEAK_CLEAR heapPart [(0x1000, ⟨tagRAW, 1⟩), (0x1001, (⟨0x80, 0x1200⟩ : Word))] with queues := [(9, oneWaiting)] }
     let s1 := portRound s 0 false
     let first := agLook (dequeue s1 9) (collAgent s1 0 0) 0x1200
     ((hwHead s 9).map fun h => isPointer (getPart s 0) ((h.2[0]?).getD Word.zero)) = some true ∧ first.2.tag ≠ tagFORWARD ∧
       (traceSlot first.1 (collAgent s1 0 0) 0x1201 true).2 ≠ .wait) := by decide +kernel

def evacPart : Partition :=
  { heapPart with mbmbase := 0xFFFFFFFFFF, defined := true, phase := phRELOCATE, tbaseDef := 0x10000, grants := [(0, 0x100000)] }

/-- An EVAC region whose first mark word lies in physical page 5, at 0x17FF; every other mark word lies where no table maps, and the pages
in use stand in the Collector's TLB. -/
def evacRegion (mark first : Word) : State :=
  { collecting phRELOCATE evacPart [(0x1000, ⟨tagRAW, 0x3000000000000000⟩), (0x1200, first), (0x17FF, mark)] with
    clusters := [(0, { engines := [(0, { tlb := [(0, pageEnt 4 false false false),
                                                 (1, { pageEnt 0x3FFFFFFF false false false with ppn := 5 })] })] })] }

theorem test_evac_part (m f : Word) : getPart (evacRegion m f) 0 = evacPart := rfl

def evacAgent : Agent := { unit := .engine 0 0, part := 0, asid := 0, root := 0x10000, cluster := 0, goodc := evacPart.bgoodc }

theorem test_evac_agent (m f : Word) : collAgent (evacRegion m f) 0 0 = evacAgent := by
  unfold collAgent
  dsimp only
  rw [test_evac_part, show collEngine (evacRegion m f) 0 = 0 from rfl, show bits evacPart.tbaseDef 63 52 = 0 by decide,
    show bits evacPart.tbaseDef 39 0 = 0x10000 by decide]
  rfl

theorem test_unmapped (m f : Word) (va : Nat) (h : bits (BitVec.ofNat 64 va) 47 40 = 1) (h4 : va / 1024 ≠ 4)
    (h5 : va / 1024 ≠ 0x3FFFFFFF) :
    agLook (evacRegion m f) evacAgent va = (evacRegion m f, Word.zero) := by
  have hw : walkPage (evacRegion m f) 0 0 0x10000 (agReq va .load) =
      (evacRegion m f, .inr (translFault cWALK_TAG (agReq va .load) 0 15 0)) := by
    unfold walkPage walkLeaf
    rw [show (agReq va .load).va = va from rfl, h]
    rfl
  have hc : ∀ e ∈ (unitTlb (evacRegion m f) (.engine 0 0)).2.1, entCovers e.2 0 0 va = false := by
    intro e he
    rw [show (unitTlb (evacRegion m f) (.engine 0 0)).2.1 = [(0, pageEnt 4 false false false),
      (1, { pageEnt 0x3FFFFFFF false false false with ppn := 5 })] from rfl] at he
    simp only [List.mem_cons, List.not_mem_nil, or_false] at he
    rcases he with rfl | rfl <;> simp [entCovers, pageEnt] <;> omega
  have hu : unitXlate (evacRegion m f) (.engine 0 0) 0 0 0x10000 (agReq va .load) =
      (evacRegion m f, .inr (translFault cWALK_TAG (agReq va .load) 0 15 0)) := by
    have hn : tlbFind (unitTlb (evacRegion m f) (.engine 0 0)).2.1 0 0 (agReq va .load).va = none := by
      unfold tlbFind
      rw [List.find?_eq_none]
      intro e he
      rw [show (agReq va .load).va = va from rfl, hc e he]; decide
    have hr : tlbRefused (unitTlb (evacRegion m f) (.engine 0 0)).2.1 0 0 (agReq va .load) = (unitTlb (evacRegion m f) (.engine 0 0)).2.1 := by
      unfold tlbRefused
      rw [List.filter_eq_self]
      intro e he
      rw [show (agReq va .load).va = va from rfl, hc e he]; rfl
    unfold unitXlate
    simp only [hn]
    unfold unitWalk
    simp only [hw, hr]
    rfl
  unfold agLook agRead agXlate
  simp only [evacAgent, hu]

/-- A fold that leaves its start at every step. -/
theorem test_fold_same {α β : Type} (f : β → α → β) (b : β) (l : List α) (h : ∀ a ∈ l, f b a = b) : l.foldl f b = b := by
  induction l with
  | nil => rfl
  | cons a l ih => rw [List.foldl_cons, h a (by simp)]; exact ih fun x hx => h x (by simp [hx])

theorem test_mark_code (s : State) (g : Agent) (a va sh : Nat) (w : Word) (hp : markPlace (getPart s g.part) a = (va, sh))
    (hk : agLook s g va = (s, w)) : markCode s g a = (s, bits w.pay (sh + 1) sh) := by
  unfold markCode
  simp only [hp, hk]

theorem test_evac_units : min (regionWords / 2) ((evacPart.heaplim.toNat - 0x1200) / 2) = 131071 + 1 := by decide +kernel

theorem test_mark_place (o : Nat) (h : 64 ≤ o) : markPlace evacPart (0x1200 + o) = (0x10000000000 + (o - 64) / 64, 2 * (o / 2 % 32)) := by
  unfold markPlace
  rw [show evacPart.heapbase.toNat = 0x1200 by decide, show evacPart.mbmbase.toNat = 0xFFFFFFFFFF by decide, Nat.add_sub_cancel_left]
  refine Prod.ext ?_ rfl
  dsimp only
  omega

theorem test_unmapped_bits (o : Nat) (hu : o < 0x40000) : bits (BitVec.ofNat 64 (0x10000000000 + (o - 64) / 64)) 47 40 = 1 := by
  unfold bits; rw [BitVec.toNat_ofNat]; simp only [Nat.reduceSub, Nat.reduceAdd, Nat.reducePow]; omega

theorem test_mark_unmapped (m f : Word) (o : Nat) (h : 64 ≤ o) (hu : o < 0x40000) :
    markCode (evacRegion m f) evacAgent (0x1200 + o) = (evacRegion m f, 0) := by
  have hp : markPlace (getPart (evacRegion m f) evacAgent.part) (0x1200 + o) = _ := test_mark_place o h
  rw [test_mark_code _ _ _ _ _ _ hp (test_unmapped m f _ (test_unmapped_bits o hu) (by omega) (by omega))]
  rw [show bits Word.zero.pay (2 * (o / 2 % 32) + 1) (2 * (o / 2 % 32)) = 0 by simp [bits, Word.zero]]

theorem test_live_objects (s : State) (g : Agent) (r base code : Nat) (os : List (Nat × Nat)) (n : Nat)
    (hn : min (regionWords / 2) (((getPart s g.part).heaplim.toNat - base) / 2) = n + 1)
    (hb : (getPart s g.part).heapbase.toNat + r * regionWords = base)
    (ho : (code = 0 ∧ os = []) ∨ (code = 2 ∧ os = [(base, 2)])) (h0 : markCode s g base = (s, code))
    (h1 : ∀ u, 1 ≤ u → u < n + 1 → markCode s g (base + 2 * u) = (s, 0)) : liveObjects s g r = (s, os) := by
  unfold liveObjects
  simp only [hb, hn, List.range_succ_eq_map, List.foldl_cons, Nat.mul_zero, Nat.add_zero, h0]
  have hs : ∀ a ∈ (List.range n).map Nat.succ, markCode s g (base + 2 * a) = (s, 0) := by
    intro a ha
    simp only [List.mem_map, List.mem_range] at ha
    obtain ⟨b, hb, rfl⟩ := ha
    exact h1 _ (by omega) (by omega)
  rcases ho with ⟨rfl, rfl⟩ | ⟨rfl, rfl⟩
  · refine test_fold_same _ _ _ fun a ha => ?_
    simp only [hs a ha]
  · refine test_fold_same _ _ _ fun a ha => ?_
    simp only [List.nil_append, hs a ha]

theorem test_next_of_live (s : State) (g : Agent) (r base : Nat) (os : List (Nat × Nat))
    (hb : (getPart s g.part).heapbase.toNat + r * regionWords = base) (ho : os = [] ∨ os = [(base, 2)])
    (hl : liveObjects s g r = (s, os)) : nextLive s g r 0 = (s, os.head?) := by
  unfold nextLive
  rw [hl]
  dsimp only
  rw [hb]
  rcases ho with rfl | rfl
  · rfl
  · rw [List.find?_cons_of_pos]
    · rfl
    · exact decide_eq_true (Nat.le_refl _)

/-- The live objects of the region are those that its first mark word names, where that word is as given. -/
theorem test_next_live (m f : Word) (code : Nat) (os : List (Nat × Nat)) (ho : (code = 0 ∧ os = []) ∨ (code = 2 ∧ os = [(0x1200, 2)]))
    (hm : m.pay = BitVec.ofNat 64 code) (hk : agLook (evacRegion m f) evacAgent 0xFFFFFFFFFF = (evacRegion m f, m)) :
    nextLive (evacRegion m f) evacAgent 0 0 = (evacRegion m f, os.head?) := by
  have hz : (getPart (evacRegion m f) evacAgent.part).heapbase.toNat + 0 * regionWords = 0x1200 := by
    rw [show evacAgent.part = 0 from rfl, test_evac_part, Nat.zero_mul]; decide
  have hp (u : Nat) (h : u < 32) : markPlace (getPart (evacRegion m f) evacAgent.part) (0x1200 + 2 * u) = (0xFFFFFFFFFF, 2 * u) := by
    rw [show evacAgent.part = 0 from rfl, test_evac_part]
    unfold markPlace
    rw [show evacPart.heapbase.toNat = 0x1200 by decide, show evacPart.mbmbase.toNat = 0xFFFFFFFFFF by decide, Nat.add_sub_cancel_left]
    refine Prod.ext ?_ ?_ <;> dsimp only <;> omega
  have hb : ∀ u, u < 32 → bits m.pay (2 * u + 1) (2 * u) = if u = 0 then code else 0 := by
    rw [hm]; rcases ho with ⟨rfl, -⟩ | ⟨rfl, -⟩ <;> decide
  have hl := test_live_objects (evacRegion m f) evacAgent 0 0x1200 code os 131071 test_evac_units hz ho
    (by
      have h := test_mark_code _ _ _ _ _ _ (hp 0 (by omega)) hk
      rw [hb 0 (by omega), if_pos rfl, Nat.mul_zero, Nat.add_zero] at h
      exact h)
    (by
      intro u h1 h2
      by_cases h : u < 32
      · rw [test_mark_code _ _ _ _ _ _ (hp u h) hk, hb u h, if_neg (by omega)]
      · exact test_mark_unmapped m f _ (by omega) (by omega))
  exact test_next_of_live _ _ 0 0x1200 os hz (ho.imp And.right And.right) hl

theorem test_met_CollectorEvacuates_region :
    ∀ e ∈ [((⟨tagRAW, 0⟩ : Word), (⟨0x80, 1⟩ : Word)), (⟨tagRAW, 2⟩, ⟨tagPOISON, 0⟩), (⟨tagRAW, 2⟩, ⟨tagFORWARD, 0x1300⟩)],
      let s := evacRegion e.1 e.2
      collCluster s 0 = some 0 ∧ reflPauses s 0 = false ∧ rangePending s 0 = false ∧ (getPart s 0).phase = phRELOCATE ∧
        sharedFree s 0 = true ∧ portRound s 0 false = s ∧ collAgent s 0 0 = evacAgent ∧
        firstEvac s evacAgent = (s, some (0, 0)) ∧ (getPart s 0).coll.region ≠ 1 ∧
        agLook s evacAgent 0xFFFFFFFFFF = (s, e.1) ∧ agLook s evacAgent 0x1200 = (s, e.2) := by
  decide +kernel

def rangeOp0 (done : Nat) : RangeOp := { ctx := 0, part := 0, asid := 0, root := 0, op := 4, cookie := 1, base := 8, len := 8, done, qid := 9 }

theorem test_met_RangeOperationRuns :
    (let s := withCluster { rangeQ := [rangeOp0 8] }
     (getCluster s 0).rangeQ = [rangeOp0 8] ∧ rangeOwing s 0 < 8 ∧ storesDone s 0 0 = true ∧ (rangeOp0 8).lockFull = false ∧
       reflPauses s 0 = false ∧ (rangeOp0 8).done ≠ 0 ∧ min (rangeOp0 8).len (2 ^ 48 - (rangeOp0 8).base) ≤ (rangeOp0 8).done) ∧
    (let op := { rangeOp0 0 with base := 0x1000, len := 24 }
     let s := withCluster { rangeQ := [op], rangeTlb := [(0, pageEnt 4 false false false)] }
     (getCluster s 0).rangeQ = [op] ∧ rangeOwing s 0 < 8 ∧ storesDone s 0 0 = true ∧ reflPauses s 0 = false ∧ zeroRefused s op = false ∧
       collWins s 0 = false ∧ (rangeXlate s 0 op (op.base + op.done)).2 = some (0x1000, 0) ∧
       rangeWaits (rangeXlate s 0 op (op.base + op.done)).1 0 op.op (0x1000 % 2 ^ 36 / 8) = false ∧
       op.done + min (8 - (op.base + op.done) % 8) (min op.len (2 ^ 48 - op.base) - op.done) < min op.len (2 ^ 48 - op.base)) ∧
    windowFills base (0x1000 / 8) = false ∧
    (getCluster (withCluster { rangeHeld := [{ part := 0, qid := 9, words := [] }] }) 0).rangeHeld = [{ part := 0, qid := 9, words := [] }] := by
  decide +kernel

/-! ## Caches, home slices and queues -/

def spLine : Nat := 0x100000000

def filling : State :=
  { withCtx ready with
    clusters := [(0, { spWays := 1, nsp := false })]
    cores := [(0, { fills := [{ line := spLine, va := 0, why := .demand, ctx := 0 }]
                    l1d := [(((l1Keys spLine)[0]?).getD 0, { tag := sectorOf spLine, subs := [(1, { v := true, data := [] })] })] })] }

theorem test_met_CachesFillAndEvict :
    (let s := filling
     dramLine s spLine = false ∧ l1Slot? (getCore s 0) spLine = some (((l1Keys spLine)[0]?).getD 0) ∧
       l1Has (getCore s 0) spLine = false ∧ dirtyL1 s spLine = none ∧ lostSource s spLine = none ∧ (getCore s 0).evict = [] ∧
       (getCluster s (clusterOfCore 0)).nsp = false) ∧
    (let s := { withCtx ready with cores := [(0, { evict := [{ line := 512, data := [] }] })] }
     ((getCore s 0).evict.find? fun e => !e.written) = some { line := 512, data := [] } ∧ dramLine s 512 = true) ∧
    ((getCore base 0).evict.find? fun e => !e.written) = none := by decide +kernel

/-- Core 0 of cluster 0 waits for line 512, whose directory entry is given. -/
def wanting (why : FillWhy) (d : List (Nat × DirEnt)) : State :=
  { withCtx ready with cores := [(0, { fills := [{ line := 512, va := 0x1000, why, ctx := 0 }] })], dir := d }

def inL2 (st : L2St) : Cluster := { l2 := [(((l2Keys 512)[0]?).getD 0, { tag := some (sectorOf 512), subs := [(0, { st })] })] }

def lineStores : List StoreEnt := (List.range 8).map fun i => { ctx := 0, va := 0x1000 + i, pa := 0x1000 + i, typ := 0, word := Word.fixN i }

theorem test_met_HomeGrantsLines :
    (∀ d ∈ [none, some (DirEnt.shared [5]), some (DirEnt.owned 5)], let s := wanting .demand ((d.map fun e => (512, e)).toList)
      l2Misses s 0 512 = true ∧ wantsLine s 0 512 false = true ∧ dirOf s 512 = d) ∧
    (let s := wanting .store []
     l2Misses s 0 512 = true ∧ wantsLine s 0 512 true = true) ∧
    (let s := { wanting .store [(512, .shared [0, 5])] with clusters := [(0, inL2 .s)] }
     homeOn s 512 = true ∧ dramLine s 512 = true ∧ (l2Sub (getCluster s 0) 512).st = .s ∧ wbOf s 0 512 = none ∧ wbRoom s 0 = true ∧
       wantsLine s 0 512 true = true ∧ 0 ∈ DirEnt.holders (dirOf s 512)) ∧
    (let s := { withCtx ready with cores := [(0, { sq := lineStores })] }
     homeOn s 512 = true ∧ dramLine s 512 = true ∧ (l2Sub (getCluster s 0) 512).st = .i ∧ wbRoom s 0 = true ∧ wbOf s 0 512 = none ∧
       (getCore s 0).evict = [] ∧ (s.dir.filter fun e => e.1 != 512 && homeOf s e.1 == homeOf s 512).length < 16 ∧
       ((coresOf 0).findSome? fun k => (claimWords (getCore s k) 512).map fun ws => (k, ws)) = some (0, lineStores.map StoreEnt.word)) := by
  decide +kernel

def wb512 (ans : Bool) : WbEnt := { line := 512, data := List.replicate 8 (Word.fixN 1), answered := ans }

theorem test_met_HomeTakesLinesBack :
    (∀ a ∈ [false, true], let s := { withCluster { wb := [wb512 a] } with dir := [(512, if a then .shared [5] else .owned 0)] }
      ((getCluster s 0).wb.find? fun e => e.line == 512 && e.answered == a) = some (wb512 a) ∧ (wb512 a).data.length = 8 ∧
        dirOf s 512 = some (if a then .shared [5] else .owned 0) ∧ shipWaits s 512 = false) ∧
    (let s := { base with dir := [(512, .shared [0])] }
     (l2Sub (getCluster s 0) 512).st = .i ∧ wbOf s 0 512 = none ∧ (getCluster s 0).lost.contains 512 = false ∧
       dirOf s 512 = some (.shared [0]) ∧ (DirEnt.holders (dirOf s 512)).contains 0 = true) := by decide +kernel

/-- A context that waits for queue 9's answer. -/
def receiving (q : Queue) (wait : Bool) : State :=
  { withCtx { ready with slot := some { id := 3, kind := .recv 9 wait, dsts := [1] } } with queues := [(9, q)] }

def fullList : Queue := { oneWaiting with tail := 0, waiters := (List.range 64).map fun i => { ctx := i + 1, op := i } }

theorem test_met_ReceiveIsAnswered :
    (∀ w ∈ [false, true], ∀ q ∈ [({} : Queue), oneWaiting, { oneWaiting with tail := 0 }, fullList], let s := receiving q w
      (getCtx s 0).slot = some { id := 3, kind := .recv 9 w, dsts := [1] } ∧ ringFree s 9 = true ∧ ((getQ s 9).waiters.any fun v => v.ctx == 0 && v.op == 3) = false) ∧
    (getQ (receiving {} true) 9).enabled = false ∧ mayReceive (receiving { oneWaiting with bind := 3 } true) 9 0 = false ∧
    mayReceive (receiving oneWaiting true) 9 0 = true ∧ oneWaiting.occ ≠ 0 ∧ fullList.occ = 0 ∧ 64 ≤ fullList.waiters.length := by
  decide +kernel

def hostMsg : Msg := { src := .host, kind := .host, part := 0, qid := 9, words := [Word.fixN 1] }

theorem test_met_MessagesAreReleasedAndJudged :
    (let o : OutEnt := { msg := { src := .cluster 0, kind := .ctx, part := 0, ctx := 0, qid := 9, words := [Word.fixN 1] } }
     let s := { withCtx ready with outbox := [o] }
     releasable s (.cluster 0) = some (0, o) ∧ outputsHeld s 0 = false ∧ o.msg.qid / 65536 = s.dev ∧ o.msg.sun = false) ∧
    (∀ q ∈ [({ oneWaiting with send := 1 } : Queue), {}], let s := { base with msgs := [hostMsg], queues := [(9, q)] }
      s.msgs = [hostMsg] ∧ hostMsg.src = .host ∧ hostMsg.kind = .host ∧ hostMsg.sun = false ∧ hostMsg.qid / 65536 = s.dev ∧ s.outbox = [] ∧
        ringFree s (hostMsg.qid % 65536) = true ∧ (getCluster s (queueHome s (hostMsg.qid % 65536))).power ≠ .off ∧
        judge { s with msgs := [] } hostMsg = if q.enabled then none else some stNOT_BOUND) ∧
    (getQ base 9).enabled = false ∧ hostMsg.srcDev = base.dev ∧
    (let s := { base with queues := [(9, oneWaiting)] }
     (getQ s 9).wmen = false ∧ ringThere s (getQ s 9) ((getQ s 9).slotAt (getQ s 9).tail) = true ∧
       windowFills s ((getQ s 9).slotAt (getQ s 9).tail / 8) = false) := by decide +kernel

/-! ## The Broif -/

def withPort (l : Link) : State := { withCtx ready with ports := [(3, l)] }

/-- A port whose link is up to device 3. -/
def upLink : Link := { st := 2, peerDev := 3, active := 15, credits := fullCredits }
def upState : State := withPort upLink
def hereX : XPort := { dst := 0, src := 3, part := 0 }

theorem test_met_PortTrains :
    (let s := withPort { st := 1, step := 1 }
     (getPort s 3).st = 1 ∧ s.dbg.extest = false ∧ (getPort s 3).step = 1) ∧
    (let s := withPort { st := 1, step := 2, active := 15 }
     (getPort s 3).step = 2 ∧ 3 ≤ laneCount (Nat.land (getPort s 3).active (7 % 16)) ∧ laneCount (Nat.land (getPort s 3).active (3 % 16)) < 3) ∧
    (let s := withPort { st := 1, step := 3 }
     (getPort s 3).step = 3 ∧ (getPort s 3).doneSent = false ∧ bits (0 : W64) 63 60 = 0 ∧ bits (field 2 60) 63 60 = 2 ∧
       bits (field 1 60) 63 60 = 1) ∧
    (let s := withPort { st := 1, step := 3, doneSent := true }
     let done (dev part : Nat) : W64 := field 2 60 ||| field dev 56 ||| field part 48
     (getPort s 3).doneSent = true ∧ isReflPort s 3 = false ∧ bits (0 : W64) 63 60 ≠ 2 ∧
       (∀ d ∈ [(2, 1), (3, 1), (3, 2)], bits (done d.1 d.2) 63 60 = 2 ∧ bits (done d.1 d.2) 59 56 = d.1 ∧
         bits (done d.1 d.2) 47 44 = s.dev ∧ (bits (done d.1 d.2) 55 48 = partCode s.part ↔ d.2 = 1))) ∧
    (let s := withPort { st := 1, step := 5 }
     (getPort s 3).step = 5 ∧ isReflPort s 3 = false ∧
       isReflPort { s with img := { reflect := some { portmask := 8, twin := 3, primary := true, mirrored := 1 } } } 3 = true) ∧
    (∀ n ∈ [1, 2, 3, 5], let s := { withPort { st := 1, step := n } with time := 1000000 }
     (getPort s 3).stepTime + stepLimit (getPort s 3).step ≤ s.time) ∧
    (getPort upState 3).st = 2 ∧
    (let f (n : Nat) (s0 : State) :=
       let s := dropTraffic s0 3
       (((getPort s 3).attempts ++ [s.time]).filter fun t => decide (s.time < t + 1000000000)).length = n
     f 7 (withPort { st := 1, attempts := List.replicate 6 0 }) ∧ f 8 (withPort { st := 1, attempts := List.replicate 7 0 })) := by decide +kernel

theorem test_met_LinkLayerRuns :
    (let s := withPort { upLink with replay := [{ typ := 4, seq := 9 }, { typ := 4, seq := 10 }], replayCount := 15, replaySeq := 10 }
     linkRuns s 3 = true ∧ linkOpen s 3 = true ∧
       ((List.range (getPort s 3).replay.length).find? fun i => ((getPort s 3).replay[i]?.map Flit.seq) == some 10) = some 1 ∧
       ((List.range (getPort s 3).replay.length).find? fun i => ((getPort s 3).replay[i]?.map Flit.seq) == some 9) = some 0 ∧
       (getPort s 3).replaySeq ≠ 9 ∧ (getPort s 3).replayCount = 15 ∧ (getPort s 3).replaySeq = 10 ∧
       (getPort s 3).discarding = false ∧ (getPort s 3).violTimes = [] ∧ 1 < (threshOf s 6).1 ∧
       (∀ q ∈ [none, some 0], inSeq s 3 q = true) ∧ inSeq s 3 (some 1) = false) ∧
    (let s := withPort { upLink with rxSince := 1, discarding := true }
     linkRuns s 3 = true ∧ (getPort s 3).rxSince ≠ 0 ∧ (getPort s 3).discarding = true ∧ replayAsked (getPort s 3) = false) ∧
    (let s := withPort { upLink with discarding := true, waiting := [linkCtrlFlit [⟨tagRAW, field 2 60⟩]] }
     linkRuns s 3 = true ∧ (getPort s 3).discarding = true ∧ replayAsked (getPort s 3) = true) ∧
    (let s := { withPort { upLink with replay := List.replicate 511 { typ := 4 } } with time := 10000 }
     linkRuns s 3 = true ∧ 511 ≤ (getPort s 3).replay.length ∧ (getPort s 3).ackTime + 10000 ≤ s.time) ∧
    (getPort upState 3).replay.length < 511 ∧ (getPort (withPort { st := 1 }) 3).st ≠ 2 ∧ (getPort (withPort { st := 1 }) 3).st ≠ 5 := by
  decide +kernel

def slotFlit (t vc : Nat) : Flit := { typ := t, vc }

theorem test_met_FlitSlotSends :
    (getPort (withPort { st := 1, parting := [slotFlit 1 0] }) 3).parting = [slotFlit 1 0] ∧
    (let s := withPort { st := 1, step := 3 }
     (getPort s 3).parting = [] ∧ (getPort s 3).st = 1 ∧ (getPort s 3).step = 3) ∧
    (let s := withPort { upLink with waiting := [slotFlit 3 1, slotFlit 1 0] }
     (getPort s 3).st = 2 ∧ (getPort s 3).parting = [] ∧ ((getPort s 3).waiting.find? fun f => f.typ == 1) = some (slotFlit 1 0)) ∧
    (let s := withPort { upLink with resend := [slotFlit 3 1] }
     ((getPort s 3).waiting.find? fun f => f.typ == 1) = none ∧ (getPort s 3).resend = [slotFlit 3 1] ∧ (getPort s 3).uncredited = 0) ∧
    (let s := withPort { upLink with resend := [slotFlit 3 1], uncredited := 1 }
     (getPort s 3).resend = [slotFlit 3 1] ∧ 0 < (getPort s 3).uncredited ∧ tget 0 (getPort s 3).credits (slotFlit 3 1).vc ≠ 0) ∧
    nextFlit (getPort upState 3) = none ∧
    (let s := withPort { upLink with waiting := [slotFlit 3 1] }
     ((getPort s 3).waiting.find? fun f => f.typ == 1) = none ∧ (getPort s 3).resend = [] ∧ (getPort s 3).replay.length < 511 ∧
       nextFlit (getPort s 3) = some (0, slotFlit 3 1)) := by decide +kernel

def routed : State := { upState with routes := [(0, 3, 3)] }

/-- A request header: operation, device 0 and word 0x1000. -/
def reqOf (op : Nat) : W64 := field op 44 ||| field 0x1000 0

/-- The state in which a request for a word is performed. -/
def asServed (s : State) (typ : Nat := 5) (a : Nat := 0x1000) : State := wakeHome (rxItem s 3 typ 2 hereX) hereX a

theorem test_met_RemoteRequestsAreServed :
    (linkOpen routed 3 = true ∧ (getPort routed 3).st = 2 ∧ hereX.dst = routed.dev ∧ hereX.rsvd % 65536 = 0 ∧
      inSeq routed 3 hereX.seq = true ∧ hereX.src = (getPort routed 3).peerDev) ∧
    (∀ op ∈ [(0, 5), (1, 6), (2, 7), (3, 5), (4, 7)], remCheck (asServed routed op.2) hereX (reqOf op.1) op.1 = 0) ∧
    cohRead (asServed routed 7) 0x1000 ≠ Word.fixN 9 ∧ barrierOf (getPart (asServed routed 7) 0) Word.zero = 0 ∧
    remCheck (asServed routed 5 0x100000) hereX (field 0x100000 0) 0 = 1 ∧ remCheck (asServed upState) hereX (reqOf 0) 0 = 2 ∧
    remCheck (asServed routed) hereX (reqOf 1) 0 = 4 ∧ dataPort upState 0 3 = none ∧
    (let s := { routed with mem := [(0x1000, ⟨tagPOISON, 0⟩)] }
     (s.part.full && colourAhead (getPart s 0) (bits (reqOf 3) 43 42)) = false ∧
       (cohRead s 0x1000).tag = tagPOISON ∧ (cohRead (asServed s) 0x1000).tag = tagPOISON) ∧
    (resolveFor routed 0 (reqOf 3) 0x1000).isSome = true ∧ (resolveFor (asServed routed) 0 (reqOf 3) 0x1000).isSome = true := by
  decide +kernel

/-- An EVAC region whose first object, a number of two words, has no to-space to go to, and a route to device 3. -/
def noToSpace : State :=
  { evacRegion ⟨tagRAW, 1⟩ ⟨tagBIGH, 1⟩ with ports := [(3, upLink)], routes := [(0, 3, 3)] }

theorem test_met_RemoteRequestsAreServed_waits :
    remCheck noToSpace hereX (field 3 44 ||| field 0x1200 0) 3 = 0 ∧
      (resolveFor noToSpace 0 (field 3 44 ||| field 0x1200 0) 0x1200).isNone = true := by decide +kernel

def remote7 : RemReq := { rtag := 7, op := 0, part := 0, ctx := 0, who := .ctxOp 0 3, va := 0x1000, pa := 0x3000001000, port := 3 }

theorem test_met_RemoteAnswersComplete :
    (linkOpen upState 3 = true ∧ (getPort upState 3).st = 2 ∧ inSeq upState 3 hereX.seq = true ∧ hereX.dst = upState.dev ∧
      hereX.rsvd % 65536 = 0 ∧ remote7.op = 0 ∧ remote7.words = []) ∧
    (let s := { upState with remotes := [remote7] }
     (s.remotes.find? fun r => r.rtag == bits (field 7 48) 63 48) = some remote7 ∧ bits (field 7 48) 47 44 < 4 ∧
       (s.remotes.find? fun r => r.rtag == bits (field 8 48) 63 48) = none ∧ s.time < remote7.time + 100000) ∧
    (let s := { upState with remotes := [remote7], time := 100000 }
     remote7.time + 100000 ≤ s.time) ∧
    (let f : Flow := { part := 0, cluster := 2, qid := 0x30009 }
     let v := field 0x30009 44 ||| field 2 39 ||| flagBit true 30 ||| field 8 26
     let s := { upState with flows := [(5, f)] }
     bits v 21 0 = 0 ∧ bits v 29 26 = 8 ∧ bit v 30 = true ∧
       (s.flows.find? fun e => e.2.cluster == bits v 43 39 && e.2.qid == bits v 63 44 && flowIxOf s e.1 == bits v 37 31) = some (5, f)) ∧
    (let o : OutEnt := { msg := { src := .cluster 0, kind := .ctx, part := 0, ctx := 0, qid := 0x30009, words := [] }, sent := true }
     let v := field 0x30009 44
     bits v 21 0 = 0 ∧ bits v 29 26 = 0 ∧ bits v 25 22 = 0 ∧ bit v 30 = false ∧ bit v 38 = false ∧
       o.msg.kind = .ctx ∧ o.msg.sun = false ∧ outboxCluster o.msg = some (bits v 43 39) ∧ o.msg.qid = bits v 63 44) := by decide +kernel

def fromThree (p : Nat) : CtrlHdr := { origin := 3, target := 0, part := p }

/-- The state in which a control message of device 3 acts. -/
def told (s : State) : State := notePresent (rxFlit s 3 0 1) 3

theorem test_met_ControlMessagesAct :
    (linkOpen upState 3 = true ∧ inSeq upState 3 (fromThree 0).seq = true ∧ (fromThree 0).target = upState.dev ∧
      (getPart (told upState) 0).defined = true ∧ (getPart (told upState) 0).sealed = false ∧ (getPart (told upState) 0).mirrored = false ∧
      (getPart (told upState) 1).defined = false ∧ (fromThree 0).part ∈ routable (told upState)) ∧
    (let s := told { upState with parts := [(0, { defined := true, sealed := true })] }
     (getPart s 0).defined = true ∧ (getPart s 0).sealed = true) ∧
    (let s := told { upState with tsync := { lock := true }, queues := [(9, { enabled := true, owned := true })] }
     let v : W64 := field 1 32 ||| field 9 0
     bits v 19 16 = s.dev ∧ (getPort s 3).st = 2 ∧ (getPort s 3).flight = false ∧ s.tsync.lock = true ∧ s.power.nosun = false ∧
       (getPart s (getQ s 9).owner).mirrored = false ∧ s.inFlows = [] ∧ dstRefusal s 9 1 1 1 = none ∧ dstRefusal s 9 200 1 1 = some 5) ∧
    (∀ lock ∈ [true, false],
     let f : Flow := { part := 0, cluster := 2, qid := 0x30009, burst := 1, rate := 1 }
     let s := told { upState with tsync := { lock := lock }, flows := [(5, f)] }
     (s.flows.find? fun e => !e.2.admitted && e.1 % 256 == 5 && e.2.part == 0 && e.2.qid / 65536 == 3 && flowIxOf s e.1 == 0) =
       some (5, f) ∧ srcRefusal s f = if lock then none else some 3) ∧
    (let s := told { upState with dev := 4 }
     3 < s.dev ∧ s.part.full = true) ∧
    (∀ k ∈ [(0, 0), (1, 5), (2, 5)], let e : Withdrawal := { kind := k.1, part := 0, dev := 3, ix := k.2, token := 0 }
      upState.withdrawn = [] ∧ upState.withdrawing = [] ∧ pathBusy { upState with withdrawn := [e] } e = false ∧
        pathBusy { withPort { upLink with waiting := [{ typ := 5, vc := 1, dst := 3 }] } with
          withdrawn := [e], outbox := [{ msg := { src := .cluster 0, kind := .ctx, part := 0, qid := 5, words := [] }, sent := true }] } e =
          true) := by decide +kernel

theorem test_met_ControlMessagesAct_digest (x : W64) : ∃ d : W64, d ≠ x :=
  ⟨x + 1, fun h => by have := congrArg BitVec.toNat h; simp only [BitVec.toNat_add] at this; simp at this; omega⟩

theorem test_met_TimebaseExchanges :
    (linkOpen upState 3 = true ∧ bits (0 : W64) 63 60 = 0 ∧ bits (field 1 60) 63 60 = 1) ∧
    linkOpen (notePeerLock (rxFlit upState 3 0 1) 3 0) 3 = true ∧
    (∀ b ∈ [false, true], let s := { upState with dev := 5, tsync := { src := 3, root := 3, t1 := some 5, isSet := b } }
      let s1 := notePeerLock (rxFlit s 3 0 1) 3 (field 1 60 ||| field 3 56)
      (getPort s1 3).st ≠ 5 ∧ s1.tsync.t1 = some 5 ∧ s1.tsync.master = false ∧ (getPort s1 3).peerDev = s1.tsync.src ∧ s1.tsync.isSet = b ∧
        s1.tsync.lock = false ∧ s1.tsync.good = 0 ∧ s.tsync.master = false ∧ s.tsync.src ≠ s.dev ∧ (getPort s s.tsync.src).st = 2 ∧
        (∀ e ∈ s.ports, e.2.st ≠ 5)) ∧
    (let s := { withPort { st := 3 } with time := 1000000, tsync := { lock := true } }
     s.tsync.master = false ∧ s.tsync.last + 1000000 ≤ s.time ∧ s.tsync.lock = true ∧ ∀ e ∈ s.ports, e.2.st ≠ 2) ∧
    base.time < base.tsync.last + 1000000 ∧
    (let s := withPort { st := 2, peerLock := true }
     (getPort s 3).st = 2 ∧ (getPort s 3).peerLock = true ∧ bit (0 : W64) 53 = false) := by decide +kernel

/-! ## Power, boot, timers, Afterglow -/

def power (f : Power → Power) : State := { withCtx {} with power := f {} }

theorem test_met_DomainsSwitch :
    (base.part.clusters ≤ 32 ∧ ¬ base.part.clusters ≤ 31 ∧ (getCluster base 31).power ≠ .off) ∧
    mayGoOff (withCtx {}) 0 = true ∧ mayGoOff (withCtx ready) 0 = false ∧
    (let s := { withCtx {} with clusters := [(0, { power := .draining })] }
     (getCluster s 0).power = .draining ∧ mayGoOff s 0 = true) ∧
    (let s := withCluster { power := .draining }
     (getCluster s 0).power = .draining ∧ mayGoOff s 0 = false) ∧
    (let s := withCluster { power := .off }
     (getCluster s 0).power = .off ∧ s.power.trip = false ∧ s.power.heldReset = false) ∧
    (let s := { power (fun p => { p with idleSince := [(0, 0)] }) with time := 100000 }
     (s.power.idleSince.find? fun e => e.1 == 0) = some (0, 0) ∧ (getCluster s 0).power = .active ∧ s.power.retdly ≠ 0 ∧
       0 + s.power.retdly * 1000 ≤ s.time ∧ clusterSleeps s 0 = true) ∧
    (let s := withCluster { power := .retain }
     (getCluster s 0).power = .retain ∧ clusterSleeps s 0 = false) ∧
    (base.power.srdly ≠ 0 ∧ 0 < base.part.stacks ∧ 7 < base.part.stacks ∧ 7 ∉ base.power.stacksAsleep) ∧
    (15 < base.part.ports ∧ portQuiet base 15 = true ∧ portQuiet upState 3 = false ∧ base.hostIf.linkUp = false ∧
      ({ base with hostIf := { linkUp := true } } : State).hostIf.linkUp = true) := by decide +kernel

theorem test_met_HeatAndVoltage :
    (base.power.trip = false ∧ base.power.heldReset = false ∧ 31 < base.part.clusters ∧ base.flows = [] ∧ base.inFlows = []) ∧
    (let s := { power (fun p => { p with hotSince := some 5 }) with time := 1000000005 }
     s.power.hotSince = some 5 ∧ s.power.hotCounted = false ∧ 5 + 1000000000 ≤ s.time) ∧
    (let s := { power (fun p => { p with coolSince := some 5, nosun := true }) with time := 1000000005 }
     s.power.coolSince = some 5 ∧ s.power.nosun = true ∧ 5 + 1000000000 ≤ s.time ∧ s.flows = []) ∧
    (power fun p => { p with trip := true }).power.trip = true := by decide

theorem test_met_ResetsTakeAway :
    (let s := power fun p => { p with refLost := true }
     s.power.refLost = true ∧ s.power.railsLow = []) ∧ base.power.refLost = false ∧ 5 ∉ base.power.railsLow := by decide

def atStage (n : Nat) (f : Trust → Trust := fun t => t) : State := { base with trust := f { stage := n } }

theorem test_met_BootStagesFollow :
    (power fun p => { p with heldReset := true }).power.heldReset = true ∧ (power fun p => { p with vaon := false }).power.vaon = false ∧
    (power fun p => { p with trip := true }).power.trip = true ∧ base.power.trip = false ∧
    (∀ n ∈ [0, 2, 3, 4, 6, 8, 11], (atStage n).power.heldReset = false ∧ (atStage n).power.vaon = true ∧
      (atStage n).trust.writeback = false ∧ (atStage n).trust.stage = n ∧ (atStage n).trust.bootBad = false ∧
      (atStage n).trust.warm = false ∧ (atStage n).trust.rngOk = true) ∧
    (atStage 0 fun t => { t with writeback := true }).trust.writeback = true ∧
    (atStage 8 fun t => { t with rngOk := false }).trust.rngOk = false := by decide

/-- Comparators 2 to 1023 all taken. -/
def timersFull : State :=
  { base with ctxs := (List.range 1022).map fun i => (i + 1, { timer := some 9, timerCmp := i + 2 }) }

theorem test_met_TimersAndCalendar :
    ((Word.mk tagRAW 0).tag ≠ tagFIX ∧ (Word.fixN 9).tag = tagFIX ∧ 0 = (getPart base 0).tmctx ∧ owned base 0 = true ∧
      partOf base 0 = 0 ∧ owned State.reset 0 = false ∧ (Word.fixN 0).pay = 0 ∧ base.time < (Word.fixN 9).pay.toNat ∧
      (getCtx base 0).timer = none ∧ ((List.range 1022).map (2 + ·)).find? (fun n => !(timersArmed base).contains n) = some 2) ∧
    (let s := { withCtx { timer := some 5, timerCmp := 2 } with time := 5 }
     (getCtx s 0).timer = some 5 ∧ mayFire s (getCtx s 0).timerCmp = true ∧ (2, 5) ∈ dueList s) ∧
    (let s := { withCtx { timer := some 5, timerCmp := 2 } with time := 4 }
     mayFire s (getCtx s 0).timerCmp = false ∧ mayFire s 0 = false ∧ mayFire s 1 = false) ∧
    (bit (1 : W64) 1 = false ∧ base.power.wdEn = false) ∧
    (∀ a ∈ [false, true], let s := { power (fun p => { p with wdEn := true, wdAction := a, wdPeriod := 1, wdStart := some 0 }) with
                                     time := 1000000 }
      mayFire s 0 = true ∧ s.power.wdAction = a) ∧
    (let s := { base with cal := { almEn := true, almDue := some 0, oscFail := true } }
     mayFire s 1 = true ∧ s.cal.oscFail = true ∧ base.cal.oscFail = false ∧ s.reports.length < 1024) := by decide +kernel

theorem test_met_TimersAndCalendar_full : (getCtx timersFull 0).timer = none ∧ owned timersFull 0 = true ∧
    ((List.range 1022).map (2 + ·)).find? (fun n => !(timersArmed timersFull).contains n) = none := by
  have h : timersArmed timersFull = (List.range 1022).map (· + 2) := by
    unfold timersArmed timersFull
    rw [List.filter_eq_self.mpr (by simp), List.map_map]
    rfl
  refine ⟨by decide +kernel, by decide +kernel, ?_⟩
  rw [h, List.find?_eq_none]
  intro n hn
  rw [List.mem_map] at hn
  obtain ⟨a, ha, rfl⟩ := hn
  rw [List.mem_range] at ha
  simp only [List.contains_eq_mem, List.mem_map, List.mem_range, Bool.not_eq_true', decide_eq_false_iff_not, not_not]
  exact ⟨a, ha, by omega⟩

def report0 : Report := { code := 0x2001, subj := .none, pay := [], time := 0 }

def glowing (f : Afterglow → Afterglow) (time : Nat := 0) : State := { base with glow := f { mode := 1 }, time }

theorem test_met_RecorderTakesReports :
    ({ base with reports := [report0] } : State).reports = [report0] ∧ codeSev report0.code = some 2 ∧ report0.code ≠ 0xC003 ∧
    (∀ n ∈ [1, 4], correctable base 0 n = true) ∧ (∀ n ∈ [0, 5], correctable base 0 n = false) ∧
    base.reports.length < 1024 ∧ 1024 ≤ ({ base with reports := List.replicate 1024 report0 } : State).reports.length ∧
    (∀ n ∈ [1, 2], let a : AggEnt := { code := 0x2001, subj := 0, open' := 5, count := n, first := 0, last := 0, lastT := 5 }
      ((glowing fun g => { g with agg := [(3, a)] }).glow.agg.find? fun e => e.1 == 3) = some (3, a) ∧ 10000004 < a.open' + 10000000 ∧
        a.open' + 10000000 ≤ 10000005) ∧
    (let x : Supp := { due := 7, sev := 2, subj := 0, count := 1, firstT := 0, lastT := 0 }
     ((glowing fun g => { g with supps := [(0x2001, x)] }).glow.supps.find? fun e => e.1 == 0x2001) = some (0x2001, x) ∧ 6 < x.due ∧
       x.due ≤ 7) ∧
    (let e : PenEnt := { cls := 6, subj := 0, count := 1, start := 0 }
     ((glowing fun g => { g with pen := [(3, e)] }).glow.pen.find? fun e => e.1 == 3) = some (3, e) ∧
       e.start + (threshOf base e.cls).2 ≤ 1000000000 ∧ 999999999 < e.start + (threshOf base e.cls).2) ∧
    base.glow.agg = [] := by decide +kernel

theorem test_met_RecordIsWritten :
    let s := glowing (fun g => { g with nextSeq := 2 ^ 32 - 2 })
    s.glow.mode = 1 ∧ s.glow.ringFail = false ∧ s.glow.nextSeq < 2 ^ 32 - 1 ∧ s.refl.state ≠ 2 ∧ s.refl.state ≠ 3 ∧
      (List.replicate 30 Word.zero).length ≤ 30 := by decide

theorem test_met_AggregateRecordIsWritten : ∀ n ∈ [1, 2],
    let a : AggEnt := { code := 0x2001, subj := 0, open' := 5, count := n, first := 1, last := 2, lastT := 7 }
    let s := glowing (fun g => { g with agg := [(3, a)] }) 10000005
    (s.glow.agg.find? fun e => e.1 == 3) = some (3, a) ∧ a.open' + 10000000 ≤ s.time ∧ codeSev a.code = some 2 ∧
      10 ^ 9 ≤ bucketLevel s a.code ∧ (s.glow.supps.find? fun e => e.1 == a.code) = none ∧ s.glow.mode = 1 ∧ s.glow.ringFail = false ∧
      s.glow.nextSeq < 2 ^ 32 - 1 ∧ s.refl.state ≠ 2 ∧ s.refl.state ≠ 3 := by decide

/-- A ring whose record 0 waits to be drained. -/
def drainable : State :=
  { glowing (fun g => { g with nextSeq := 1, ring := [(0, ⟨tagRAW, field 4 40 ||| flagBit true 32⟩), (3, ⟨tagRAW, flagBit true 16⟩)] }) with
    img := { agen := true, agq := 9 } }

theorem test_met_RingDrainsAndPagesAreWritten :
    (let s := drainable
     let h := tget Word.zero s.glow.ring (s.glow.drainSeq % 16384 * 32)
     let tr := tget Word.zero s.glow.ring (s.glow.drainSeq % 16384 * 32 + bits h.pay 47 40 - 1)
     s.glow.mode = 1 ∧ s.img.agen = true ∧ s.glow.drainSent = false ∧ s.glow.drainRetry = none ∧ drainBehind s ≠ 0 ∧
       drainBehind s ≤ 16384 ∧ h.tag = tagRAW ∧ bit h.pay 32 = true ∧ bits h.pay 31 0 = s.glow.drainSeq ∧ bit tr.pay 16 = true ∧
       4 ≤ bits h.pay 47 40) ∧
    base.glow.mode ≠ 1 ∧ (0x7FFFF : Nat) < 0x80000 ∧ base.glow.ringFail = false ∧ base.life.failTime = none ∧ pageDue base = false ∧
    (∀ f ∈ [none, some 0], let s := { base with life := { saveDue := true, failTime := f }, time := 60 * 10 ^ 9 }
      pageDue s = true ∧ s.flash.ops = [] ∧ s.life.failTime = f) ∧
    0x20000 / 0x10000 ≠ (if (some 0 : Option Nat) = some 0 then 2 else 1) + 1 := by decide +kernel

/-! ## Sealing, the host, SMBus, debug and Reflection -/

def sealedPart (f : Partition → Partition) : State :=
  withPart (f { defined := true, sealed := true, grants := [(0, 0x100000)] })

theorem test_met_SealingBlockActs :
    ((Word.mk tagRAW 0).tag ≠ tagFIX ∧ (getPart base 0).sealed = false ∧ (Word.fixN 0x400).tag = tagFIX ∧ bits (0x400 : W64) 35 10 ≠ 0 ∧
      bits (0x3FF : W64) 35 10 = 0) ∧
    (let s := sealedPart fun q => { q with slwinb := 0x100000 }
     (getPart s 0).sealed = true ∧ (getPart s 0).winFill = none ∧ inOneGrant (getPart s 0) (getPart s 0).slwinb 1024 = false) ∧
    (let s := sealedPart fun q => { q with slwinb := 0xFFC00 }
     inOneGrant (getPart s 0) (getPart s 0).slwinb 1024 = true) ∧
    (getPart (sealedPart fun q => { q with winFill := some (0, 0, 0x400, 0x400) }) 0).winFill = some (0, 0, 0x400, 0x400) ∧
    (let s := { sealedPart id with trust := { idKey := true } }
     (getPart s 0).slCmd = none ∧ attestOk s = true ∧ bufferOk (getPart s 0) (getPart s 0).slbuf 103 = true ∧
       bufferOk (getPart s 0) (getPart s 0).slbuf 8 = true ∧ attestOk base = false) ∧
    bufferOk (getPart (sealedPart fun q => { q with slbuf := 0x100000 - 102 }) 0) (0x100000 - 102) 103 = false ∧
    (∀ k ∈ [1, 2], (getPart (sealedPart fun q => { q with slCmd := some (k, 8, []) }) 0).slCmd = some (k, 8, [])) := by decide +kernel

def hostQueue : Queue := { oneWaiting with bind := 3 }

theorem test_met_HostQueuesAndSends :
    (let s := { base with queues := [(9, hostQueue)] }
     (getQ s 9).owned = true ∧ (getQ s 9).bind = 3 ∧ ringOpen s 9 = true ∧ (getQ s 9).owner + 1 = 1 ∧
       ((Word.fixN 1).pay.toNat % 2 ^ 32 + 2 ^ 32 - (getQ s 9).head) % 2 ^ 32 ≤ (getQ s 9).occ ∧
       (getQ s 9).occ < ((Word.fixN 2).pay.toNat % 2 ^ 32 + 2 ^ 32 - (getQ s 9).head) % 2 ^ 32) ∧
    (getQ base 9).owned = false ∧ (getPart base 0).defined = true ∧ (getPart base 0).sealed = false ∧
    bits (field 9 20) 23 20 = 9 ∧ bits (field 8 20 ||| field 9 0) 23 20 = 8 ∧
    hostVerdict base 0 (bits (field 8 20 ||| field 9 0) 19 0) = 0 ∧ hostVerdict base 0 (bits (field 1 20 ||| field 0x30009 0) 19 0) ≠ 0 ∧
    (getPart base 0).devacc = false ∧ dcsReach base .pf 0xC00000003 = false ∧ inRecovery base = false ∧
    bits (field 99 32) 41 32 < 100 := by decide +kernel

def mailbox (cmd len : Nat) : State :=
  { base with hostIf := { hmbuf := field len 36 ||| field 0x1000 0, busy := if cmd = 0 then none else some { cmd, arg := 0, addr := 0, bytes := [] } } }

theorem test_met_MailboxCommandsRun :
    (let s := mailbox 6 168
     s.hostIf.busy = some { cmd := 6, arg := 0, addr := 0, bytes := [] } ∧ bits (0 : W64) 7 0 = 0 ∧ bits (1 : W64) 7 0 ≠ 0 ∧
       168 ≤ bits s.hostIf.hmbuf 63 36 ∧ hmBufferOk s (bits s.hostIf.hmbuf 35 0) ((168 + 7) / 8) = true) ∧
    (mailbox 3 0).hostIf.busy.isSome = true ∧ (mailbox 0 0).hostIf.busy = none ∧ inRecovery (atStage 10) = true ∧
    inRecovery (mailbox 0 128) = false ∧ bits (mailbox 0 127).hostIf.hmbuf 63 36 < hmNeeds 1 ∧
    hmNeeds 1 ≤ bits (mailbox 0 128).hostIf.hmbuf 63 36 ∧ hmBufferOk (mailbox 0 128) 0x1000 (hmSpan 1 128) = true ∧
    (∀ c ∈ [7, 8], hmNeeds c = 0) ∧ hmNeeds 9 ≤ bits (mailbox 0 5).hostIf.hmbuf 63 36 ∧
    flashRange (mailbox 0 5) (natOfBytesLE ((hmBytes (mailbox 0 5) 0x1000 5).take 4)) 1 = true ∧
    flashReach (mailbox 0 4) (natOfBytesLE ((hmBytes (mailbox 0 4) 0x1000 4).take 4)) = true ∧
    (∀ c ∈ [1, 2, 4, 7, 8, 9, 10], (mailbox c 0).hostIf.busy = some { cmd := c, arg := 0, addr := 0, bytes := [] }) ∧
    attestOk base = false ∧ base.trust.owners = [] ∧ currentOwner base = none ∧ imgPart base 0 = none ∧
    (imgPart { base with img := { parts := [{ num := 0 }] } } 0).isSome = true ∧
    (let s := { base with flash := { ops := [(.erase 0, 1)] } }
     (s.flash.ops.any fun e => e.2 == 1) = true) ∧ (base.flash.ops.any fun e => e.2 == 1) = false := by decide +kernel

theorem test_met_MailboxCommandsRun_owner :
    ({ base with trust := { owners := [(0, { hash := [] })] } } : State).trust.owners ≠ [] ∧
    ({ base with flash := { ops := [(.write 7 [0], 0)] } } : State).flash.ops = [(.write 7 [0], 0)] := by decide

/-- A host that may access memory through function 0 and virtual function 1. -/
def hosted : State := { base with hostIf := { mse := [0, 1], linkUp := true }, img := { inForce := true } }

theorem test_met_HostRequestsAreServed :
    (memEnabled hosted 0 = true ∧ hostPlace hosted 0 2 0x1000 = .mem 0x1000 ∧ mirroredWord hosted 0x1000 = false ∧
      hosted.trust.stale = [] ∧ windowFills hosted (0x1000 / 8) = false) ∧
    (memEnabled hosted 1 = true ∧ hostPlace hosted 1 0 0x1000 = .mem 0x1000 ∧ 0xC0 ≤ (((List.replicate 16 (0xC0 : BitVec 8))[8]?).getD 0).toNat) ∧
    (pinsDead base = false ∧ pinsDead (power fun p => { p with trip := true }) = true ∧ memEnabled base 1 = false ∧ base.trust.stage < 8 ∧ (atStage 8).trust.stage = 8 ∧
      (atStage 10).trust.stage = 10 ∧ base.hostIf.linkUp = false ∧ hosted.hostIf.linkUp = true ∧ base.trust.stage ≠ 11 ∧ (base.power.pcieOff && base.img.pcieoff) = false) := by decide +kernel

theorem test_met_SmbusCommandsAnswer :
    (base.dbg.extest = false ∧ base.trust.stage ≠ 11 ∧ base.smb.addr / 16 < 0xC00000000 ∧ smbSealed base (base.smb.addr / 16) = none ∧
      smbReach base (base.smb.addr / 16) = true ∧ windowFills base (base.smb.addr / 16 / 8) = false) ∧
    natOfBytesLE [0x10, 0, 0, 0, 0] % 16 = 0 ∧ natOfBytesLE [0x1F, 0, 0, 0, 0] % 16 ≠ 0 ∧
    smbSealed (sealedPart id) ((sealedPart id).smb.addr / 16) = some 0 ∧
    (∀ n ∈ [8, 10], (atStage n).trust.stage = n) ∧ (atStage 8).flash.ops = [] ∧ (atStage 8).smb.flash + 32 ≤ 0x4000000 ∧
    flashRange (atStage 8) (atStage 8).smb.flash 32 = true ∧ flashReach (atStage 8) (atStage 8).smb.flash = true ∧
    alertN (power fun p => { p with refAlert := true }) = true ∧ alertN base = false := by decide +kernel

theorem test_met_DebugChainAnswers :
    (base.dbg.extest = false ∧ base.dbg.refusals < 4 ∧ (([1] : List (BitVec 8))[0]?).getD 0 ≠ 2 ∧ base.trust.dbgLevel = 0 ∧
      dbgSealedCtx base 0 = none ∧ dbgSealedMem base 0x1000 = none ∧ dbgSealedCtx (sealedPart id) 0 = some 0) ∧
    (dbgOpenDcs 0xC00100000 = true ∧ smbSealed base 0xC00100000 = none ∧ (dcsRead base 0xC00100000).tag ≠ tagPOISON) ∧
    (let s := { withCtx { ready with dbgHalt := true } with trust := { dbgLevel := 2 } }
     1 ≤ s.trust.dbgLevel ∧ dbgSealedMem s 0x1000 = none ∧ memExists s 0x1000 = true ∧ windowFills s (0x1000 / 8) = false ∧ owned s 0 = true ∧ dbgSealedCtx s 0 = none ∧
       (getCtx s 0).dbgHalt = true ∧ 2 ≤ s.trust.dbgLevel ∧ 31 < s.part.clusters ∧ 3 < s.part.dies ∧ bits (2 : W64) 1 0 ≠ 3 ∧
       s.trust.dbgLevel = 2) ∧
    4 ≤ ({ base with dbg := { refusals := 4 } } : State).dbg.refusals := by decide +kernel

def mirror (f : Reflect → Reflect) (time : Nat := 0) : State :=
  { base with refl := f {}, time, ports := [(3, { st := 5, peerDev := 3, credits := fullCredits })]
              parts := [(0, { defined := true, mirrored := true, grants := [(0, 0x100000)] })] }

theorem test_met_PairsFormAndPart :
    (let s := mirror (fun r => { r with releaseTime := some 5, state := 1 })
     s.refl.releaseTime = some 5 ∧ s.refl.state = 1 ∧ s.refl.role = false ∧ s.refl.running = false) ∧
    (let s := mirror (fun r => { r with state := 3, lastEdgeIn := some 5 }) 20000
     s.refl.state ≠ 0 ∧ s.refl.lastHbOut + 20000 ≤ s.time ∧ s.refl.lastEdgeIn = some 5 ∧ (5 : Nat) ≤ s.time) ∧
    base.refl.state = 0 ∧ base.refl.hbIn = 0 ∧ base.refl.settle = none ∧ alivePattern base = 0 ∧
    (let s := mirror (fun r => { r with running := true }) 50000
     alivePattern s ≠ 0 ∧ s.refl.lastEdgeOut + patternInterval (alivePattern s) ≤ s.time ∧ s.refl.running = true) ∧
    (∀ h ∈ [0, 1], let s := mirror (fun r => { r with settle := some 0, hbIn := h }) 500000
      s.refl.settle = some 0 ∧ 0 + 500000 ≤ s.time ∧ s.refl.hbIn = h) ∧
    (∀ role ∈ [false, true], ∀ h ∈ [0, 1, 2, 3], let s := mirror (fun r => { r with state := 3, role, hbIn := h })
      linkLost s = true ∧ s.refl.state = 3 ∧ s.refl.role = role ∧ s.refl.hbIn = h) ∧
    linkLost (mirror fun r => { r with lastHb := some 0 }) = false ∧
    (mirror fun r => { r with state := 5 }).refl.state = 5 ∧ base.refl.refuse = 0 ∧ base.refl.state ≠ 6 ∧ base.refl.state ≠ 5 := by
  decide +kernel

theorem test_met_EpochsReachTheTwin :
    (let s := mirror (fun r => { r with running := true, state := 2 }) 10000000
     s.refl.running = true ∧ s.refl.role = false ∧ 2 ≤ s.refl.state ∧ s.refl.state ≤ 4 ∧ s.refl.ending = false ∧ s.refl.acked = true ∧
       s.refl.epochStart + 10000000 ≤ s.time) ∧ base.refl.running = false ∧
    (let s := mirror fun r => { r with ending := true }
     s.refl.ending = true ∧ ∀ c ∈ mirroredCtxs s, ctxQuiet s c = true) ∧
    (let s := { mirror (fun r => { r with ending := true }) with ctxs := [(0, { slot := some { id := 3, kind := .routine, dsts := [] } })] }
     ∀ c ∈ mirroredCtxs s, ctxQuiet s c = false) ∧
    (let s := mirror fun r => { r with role := true, state := 3 }
     linkOpen s 3 = true ∧ (getPort s 3).st = 5 ∧ bits (field 1 40) 59 56 = 0 ∧ bits (field 1 40) 39 36 = 0 ∧ bits (field 1 40) 55 40 ≠ 0 ∧
       s.refl.authed = false ∧ s.refl.role = true ∧ s.refl.state = 3 ∧ s.refl.half = [] ∧ halfBusy s (field 1 40) = false ∧ halfBusy s 0x1000 = false ∧ bits (0x1000 : W64) 55 40 = 0) ∧
    (let s := mirror fun r => { r with acked := false, state := 3, current := 5 }
     s.refl.role = false ∧ s.refl.acked = false ∧ s.refl.state = 3 ∧ bits (4 : W64) 31 0 = (s.refl.current + 2 ^ 32 - 1) % 2 ^ 32 ∧
       s.img.reflect = none) ∧
    (let s := mirror (fun r => { r with authed := true }) 3600000000000
     s.refl.authed = true ∧ s.refl.gcmBuf.length ≤ 64 ∧ bits (0 : W64) 31 0 = s.refl.gcmIn % 2 ^ 32 ∧ bits (0 : W64) 59 56 = 0 ∧ bits (0 : W64) 39 36 = 0 ∧
       s.refl.gcmSince + 3600000000000 ≤ s.time) ∧ base.refl.taking = false := by decide +kernel

theorem test_met_FusesNeverFall : ∃ t, step (mailbox 2 0) = .next t := ⟨_, rfl⟩

end Sys2Proof.Tests
end

/-!
PROOFS. Records of the Afterglow recorder: the fields of packed registers, a slot of the ring written and read, what the writer does in
SERVICE mode, and the close of an aggregation entry.
-/

namespace Sys2Proof.Machine
open Sys2Proof

/-! ## Fields of a packed register -/

/-- A placed value has its own bits from its place on, and none below. -/
theorem getLsbD_field (v pos n : Nat) :
    (field v pos).getLsbD n = (decide (n < 64) && (decide (pos ≤ n) && v.testBit (n - pos))) := by
  simp [field, BitVec.getLsbD_ofNat, Nat.testBit_mul_two_pow]

theorem testBit_bits (v : W64) (hi lo i : Nat) :
    (bits v hi lo).testBit i = (decide (i < hi + 1 - lo) && v.getLsbD (lo + i)) := by
  simp [bits, Nat.testBit_mod_two_pow, Nat.testBit_div_two_pow, BitVec.testBit_toNat, Nat.add_comm]

@[simp] theorem bits_or (v w : W64) (hi lo : Nat) : bits (v ||| w) hi lo = bits v hi lo ||| bits w hi lo :=
  Nat.eq_of_testBit_eq fun i => by
    simp only [testBit_bits, Nat.testBit_or, BitVec.getLsbD_or, Bool.and_or_distrib_left]

/-- A value that fits its field reads back. -/
theorem bits_field_same {v hi lo : Nat} (hhi : hi < 64) (hv : v < 2 ^ (hi + 1 - lo)) : bits (field v lo) hi lo = v :=
  Nat.eq_of_testBit_eq fun i => by
    rw [testBit_bits, getLsbD_field, Nat.add_sub_cancel_left]
    by_cases hi' : i < hi + 1 - lo
    · have : lo + i < 64 := by omega
      simp [hi', this]
    · have : v.testBit i = false := Nat.testBit_lt_two_pow (hv.trans_le (Nat.pow_le_pow_right (by decide) (by omega)))
      simp [hi', this]

/-- A field does not reach into the fields below it. -/
theorem bits_field_above {pos hi lo : Nat} (v : Nat) (h : hi < pos) : bits (field v pos) hi lo = 0 :=
  Nat.eq_of_testBit_eq fun i => by
    rw [testBit_bits, getLsbD_field, Nat.zero_testBit]
    by_cases hi' : i < hi + 1 - lo
    · have : ¬ pos ≤ lo + i := by omega
      simp [this]
    · simp [hi']

/-- A value that ends below a field leaves it zero. -/
theorem bits_field_below {v pos hi lo : Nat} (h : v * 2 ^ pos < 2 ^ lo) : bits (field v pos) hi lo = 0 := by
  have : (v * 2 ^ pos % 2 ^ 64) / 2 ^ lo = 0 := Nat.div_eq_of_lt ((Nat.mod_le _ _).trans_lt h)
  rw [bits, field, BitVec.toNat_ofNat, this, Nat.zero_mod]

theorem flagBit_eq_field (b : Bool) (n : Nat) : flagBit b n = field (b2n b) n := by cases b <;> simp [flagBit, field, b2n]

theorem b2n_lt_two (b : Bool) : b2n b < 2 := by cases b <;> decide

@[simp] theorem decide_b2n (b : Bool) : decide (b2n b = 1) = b := by cases b <;> rfl

/-- A flag is its one-bit field. -/
theorem bit_eq_bits (v : W64) (n : Nat) : bit v n = decide (bits v n n = 1) := by
  simp [bit, bits, BitVec.getLsbD, Nat.testBit_eq_decide_div_mod_eq]

/-! ## A record's words (R422, R423) -/

theorem recHeader_pay (r : Rec) (seq : Nat) (fb : Bool) : (recHeader r seq fb).pay =
    field r.code 48 ||| field (r.body.length + 2) 40 ||| field r.sev 36 ||| field (b2n r.agg) 35 ||| field (b2n r.supp) 34 |||
      field (b2n fb) 33 ||| field 1 32 ||| field seq 0 := by
  simp only [recHeader, flagBit_eq_field]; rfl

/-- A record of the ring has FALLBACK 0 in its header (R422). -/
theorem recHeader_pay_ring (r : Rec) (seq : Nat) : (recHeader r seq false).pay =
    field r.code 48 ||| field (r.body.length + 2) 40 ||| field r.sev 36 ||| flagBit r.agg 35 ||| flagBit r.supp 34 |||
      field seq 0 ||| flagBit true 32 := by
  have hfb : flagBit false 33 = 0#64 := rfl
  simp only [recHeader, hfb, BitVec.or_zero]
  rw [BitVec.or_assoc, BitVec.or_comm (flagBit true 32), ← BitVec.or_assoc]

/-- The header shows CODE, LENGTH, SEVERITY, AGG and SUPP where each fits its field (R422). -/
theorem recHeader_fields (r : Rec) {seq : Nat} (fb : Bool) (hcode : r.code < 2 ^ 16) (hlen : r.body.length + 2 < 2 ^ 8)
    (hsev : r.sev < 2 ^ 4) (hseq : seq < 2 ^ 32) : let v := (recHeader r seq fb).pay
    bits v 63 48 = r.code ∧ bits v 47 40 = r.body.length + 2 ∧ bits v 39 36 = r.sev ∧ bit v 35 = r.agg ∧ bit v 34 = r.supp := by
  have hagg := b2n_lt_two r.agg
  have hsupp := b2n_lt_two r.supp
  have hfb := b2n_lt_two fb
  simp (disch := omega) only [recHeader_pay, bit_eq_bits, bits_or, bits_field_same, bits_field_above, bits_field_below, Nat.or_zero,
    Nat.zero_or, decide_b2n, and_self]

@[simp] theorem length_recWords (r : Rec) (seq : Nat) (fb crcv : Bool) : (recWords r seq fb crcv).length = r.body.length + 2 := by
  simp [recWords]

/-! ## A slot of the ring (R421) -/

theorem putSlot_concat (t : Tab Word) (base : Nat) (ws : List Word) (w : Word) :
    putSlot t base (ws ++ [w]) = tput (putSlot t base ws) (base + ws.length) w := by
  simp [putSlot, List.range_succ, List.zip_append]

/-- The words of a slot just written. -/
theorem tget_putSlot_of_lt (t : Tab Word) (base : Nat) (ws : List Word) {i : Nat} (h : i < ws.length) :
    tget Word.zero (putSlot t base ws) (base + i) = ws[i]?.getD Word.zero := by
  induction ws using List.reverseRecOn with
  | nil => simp at h
  | append_singleton ws w ih =>
    rw [putSlot_concat, tget_tput]
    by_cases hi : i = ws.length
    · simp [hi]
    · have hlt : i < ws.length := by simp at h; omega
      rw [if_neg (by omega), ih hlt, List.getElem?_append_left hlt]

/-- A slot written leaves every word before it and past its end. -/
theorem tget_putSlot_of_outside (t : Tab Word) (base : Nat) (ws : List Word) {a : Nat} (h : a < base ∨ base + ws.length ≤ a) :
    tget Word.zero (putSlot t base ws) a = tget Word.zero t a := by
  induction ws using List.reverseRecOn with
  | nil => rfl
  | append_singleton ws w ih =>
    simp only [List.length_append, List.length_singleton] at h
    rw [putSlot_concat, tget_tput_ne _ _ _ (by omega), ih (by omega)]

/-! ## The writer in SERVICE mode (R427) -/

/-- ALERT_N asserted signals an entry of the physical function and changes nothing else. -/
theorem withAlert_spec (s0 s1 : State) : ∃ hi mx, withAlert s0 s1 = { s1 with hostIf := hi, msix := mx } := by
  unfold withAlert signalMsix
  split
  · split
    · split
      · exact ⟨s1.hostIf, s1.msix, rfl⟩
      · exact ⟨_, s1.msix, rfl⟩
    · exact ⟨s1.hostIf, _, rfl⟩
  · exact ⟨s1.hostIf, s1.msix, rfl⟩

/-- A record of this code goes to the ring alone and nothing goes to a twin: SERVICE mode, a ring in service, a sequence number short
of the wrap, a code that the bank does not take, and no formed pair. -/
structure RingOnly (s : State) (code : Nat) : Prop where
  service : s.glow.mode = 1
  ringOk : s.glow.ringFail = false
  seq : s.glow.nextSeq < 2 ^ 32 - 1
  notRefclkLost : code ≠ 0x9002
  notThermtrip : code ≠ 0x9004
  notFallbackFull : code ≠ 0xC004
  notFormed : s.refl.state ≠ 2
  notSynced : s.refl.state ≠ 3

theorem RingOnly.toRing {s : State} {code : Nat} (h : RingOnly s code) : toRing s = true := by
  simp [Machine.toRing, h.service, h.ringOk]

theorem RingOnly.toBank {s : State} {code : Nat} (h : RingOnly s code) : toBank s code = false := by
  simp [Machine.toBank, h.toRing, h.notRefclkLost, h.notThermtrip, h.notFallbackFull]

/-- The recorder after a record written in SERVICE mode. -/
def ringRecorded (g : Afterglow) (r : Rec) : Afterglow :=
  { g with nextSeq := g.nextSeq + 1, alertSev := decide (5 ≤ r.sev) || g.alertSev
           ring := putSlot g.ring (g.nextSeq % 16384 * 32) (recWords r g.nextSeq false true) }

theorem RingOnly.shipping {s : State} {code : Nat} (h : RingOnly s code) : shipping s = false := by
  simp [Machine.shipping, h.notFormed, h.notSynced]

theorem shipping_modGlow (s : State) (f : Afterglow → Afterglow) : shipping (modGlow s f) = shipping s := rfl

/-- Severity ERROR or FATAL raises ALERT_SEV (R438). -/
theorem raise_alertSev (s : State) (sev : Nat) :
    (if sev ≥ 5 then modGlow s fun g => { g with alertSev := true } else s) =
      modGlow s fun g => { g with alertSev := decide (5 ≤ sev) || g.alertSev } := by
  by_cases h : 5 ≤ sev <;> simp [h, modGlow]

theorem writeOne_of_ringOnly {s : State} {r : Rec} (h : RingOnly s r.code) :
    writeOne s r = { s with glow := ringRecorded s.glow r } := by
  have hseq : (s.glow.nextSeq + 1) % 2 ^ 32 = s.glow.nextSeq + 1 := Nat.mod_eq_of_lt (by have := h.seq; omega)
  simp only [writeOne, takeSeq, h.toRing, h.toBank, h.service, hseq, raise_alertSev, shipping_modGlow, h.shipping, if_true,
    Bool.false_eq_true, if_false, Bool.and_false, beq_self_eq_true]
  cases (r.body[1]?).bind fun w => subjPart w.pay <;> rfl

/-- A record written in SERVICE mode changes the recorder, and may signal the physical function. -/
theorem writeRec_of_ringOnly {s : State} {r : Rec} (h : RingOnly s r.code) :
    ∃ hi mx, writeRec s r = { s with glow := ringRecorded s.glow r, hostIf := hi, msix := mx } := by
  have hnext : writeNext s r = { s with glow := ringRecorded s.glow r } := by
    have hwrap : s.glow.nextSeq ≠ 0xFFFFFFFF := by have := h.seq; omega
    simp only [writeNext, if_neg hwrap, writeOne_of_ringOnly h]
  obtain ⟨hi, mx, hw⟩ := withAlert_spec s { s with glow := ringRecorded s.glow r }
  refine ⟨hi, mx, ?_⟩
  simp only [writeRec, h.toBank, Bool.false_and, Bool.false_eq_true, if_false, hnext, hw]

/-- The words of the slot just written (R421). -/
theorem ringRecorded_slot (g : Afterglow) (r : Rec) {i : Nat} (h : i < r.body.length + 2) :
    tget Word.zero (ringRecorded g r).ring (g.nextSeq % 16384 * 32 + i) = (recWords r g.nextSeq false true)[i]?.getD Word.zero :=
  tget_putSlot_of_lt _ _ _ (by rwa [length_recWords])

/-- Every word of the ring outside the record is as before (R421). -/
theorem ringRecorded_outside (g : Afterglow) (r : Rec) {a : Nat}
    (h : a < g.nextSeq % 16384 * 32 ∨ g.nextSeq % 16384 * 32 + r.body.length + 2 ≤ a) :
    tget Word.zero (ringRecorded g r).ring a = tget Word.zero g.ring a :=
  tget_putSlot_of_outside _ _ _ (by rw [length_recWords]; omega)

/-! ## The window of the ring (R421) -/

theorem dcsOff_ring (o : Nat) : dcsOff (0xC00100000 + o) = 0x100000 + o := by unfold dcsOff; omega

theorem offIn_eq_false {o lo hi : Nat} (h : o < lo ∨ hi < o) : offIn o lo hi = false := by
  simp only [offIn, Bool.and_eq_false_iff, decide_eq_false_iff_not]; omega

theorem offIn_eq_true {o lo hi : Nat} (h : lo ≤ o) (h' : o ≤ hi) : offIn o lo hi = true := by simp [offIn, h, h']

theorem dcsRead_ring (s : State) {o : Nat} (h : o < 0x80000) : dcsRead s (0xC00100000 + o) = tget Word.zero s.glow.ring o := by
  have h1 : ¬ 0x100000 + o = 1 := by omega
  have h2 : ¬ 0x100000 + o = 2 := by omega
  have h3 : ¬ 0x100000 + o = 0x20200 := by omega
  have h4 : ¬ 0x100000 + o = 0x20201 := by omega
  simp (disch := omega) only [dcsRead, dcsOff_ring, h1, h2, h3, h4, offIn_eq_false, offIn_eq_true, if_true, Bool.false_eq_true, if_false,
    Nat.add_sub_cancel_left]

/-- No register or buffer that an agent writes stands in the window. -/
theorem dcsWrite_ring (s : State) (who : DcsWho) {o : Nat} (w : Word) (h : o < 0x80000) : dcsWrite s who (0xC00100000 + o) w = s := by
  have hpoke : dcsPoke s 0 (0xC00100000 + o) w = s := by
    have h0 : ¬ 0x100000 + o = 0 := by omega
    have h1 : ¬ 0x100000 + o = 1 := by omega
    have h2 : ¬ 0x100000 + o = 2 := by omega
    have h3 : ¬ 0x100000 + o = 0x20202 := by omega
    simp (disch := omega) only [dcsPoke, dcsOff_ring, h0, h1, h2, h3, offIn_eq_false, Bool.false_eq_true, if_false]
  unfold dcsWrite
  split
  · rfl
  · cases who with
    | part p => simp (disch := omega) only [dcsOff_ring, offIn_eq_false, Bool.false_eq_true, if_false]
    | pf => exact hpoke
    | smb => exact hpoke

/-- A write to the window is discarded, whoever makes it. -/
theorem exec_dcsRegisterWrite_ring (s : State) (who : DcsWho) {o : Nat} (w : Word) (h : o < 0x80000) :
    exec (.dcsRegisterWrite who (0xC00100000 + o) w) s = .next s := by
  change Host.Outcome.next _ = _
  cases who <;> simp only [dcsWrite_ring s _ w h, ite_self]

/-- Settles O49: the record's slot is the one that `ringRecorded` writes, and the window reads the ring. -/
theorem recordIsWritten : Obligations.RecordIsWritten := by
  unfold Obligations.RecordIsWritten
  refine ⟨fun s r hmode hok hseq href htrip hfull _ hst2 hst3 => ?_,
    fun s o ho => ⟨dcsRead_ring s ho, fun who w => exec_dcsRegisterWrite_ring s who w ho⟩⟩
  obtain ⟨hi, mx, hw⟩ := writeRec_of_ringOnly ⟨hmode, hok, hseq, href, htrip, hfull, hst2, hst3⟩
  simp only [hw]
  exact ⟨rfl, fun i => ringRecorded_slot s.glow r, fun a => ringRecorded_outside s.glow r, recHeader_pay_ring r s.glow.nextSeq,
    trivial, trivial, trivial⟩

/-! ## An aggregation entry closes (R433, R434) -/

/-- Every code is of 16 bits and every severity of 4 (R422, R425). -/
theorem codeSev_fits {code sev : Nat} (h : codeSev code = some sev) : code < 2 ^ 16 ∧ sev < 2 ^ 4 := by
  unfold codeSev at h
  split at h
  all_goals cases h
  all_goals decide

theorem exec_aggEntryClose_of_due {s : State} {ix : Nat} {a : AggEnt} (hfind : (s.glow.agg.find? fun e => e.1 == ix) = some (ix, a))
    (hdue : a.open' + 10000000 ≤ s.time) : exec (.aggEntryClose ix) s = .next (closeAgg s ix true) := by
  have hspan : a.open' + aggSpan ≤ s.time := hdue
  change Host.Outcome.next (aggEntryClose s ix) = _
  simp only [aggEntryClose, hfind, if_pos hspan]

/-- An entry of one witness writes nothing. -/
theorem closeAgg_of_count_le_one {s : State} {ix : Nat} {a : AggEnt} (token : Bool)
    (hfind : (s.glow.agg.find? fun e => e.1 == ix) = some (ix, a)) (hcount : a.count ≤ 1) :
    closeAgg s ix token = modGlow s fun g => { g with agg := tdel g.agg ix } := by
  simp only [closeAgg, hfind, if_pos hcount]

/-- The record of an entry of more witnesses takes its token. -/
theorem closeAgg_of_one_lt_count {s : State} {ix : Nat} {a : AggEnt}
    (hfind : (s.glow.agg.find? fun e => e.1 == ix) = some (ix, a)) (hcount : 1 < a.count) :
    closeAgg s ix true = limited (modGlow s fun g => { g with agg := tdel g.agg ix }) (aggRec a) a.open' a.subj := by
  simp only [closeAgg, hfind, if_neg (Nat.not_le.mpr hcount), if_true]

/-- A record that finds a token, with nothing of its code suppressed, is written (R431, R432). -/
theorem limited_of_token {s : State} {r : Rec} (time : Nat) (subj : W64) (htoken : 10 ^ 9 ≤ bucketLevel s r.code)
    (hsupp : (s.glow.supps.find? fun e => e.1 == r.code) = none) :
    limited s r time subj = writeRec (modGlow s fun g => { g with
      buckets := tput g.buckets r.code { level := bucketLevel s r.code - 10 ^ 9, time := s.time } }) r := by
  have hnone : ∀ f : Afterglow → Afterglow, (f s.glow).supps = s.glow.supps → writeSupp (modGlow s f) r.code = modGlow s f := by
    intro f hf
    simp only [writeSupp, modGlow, hf, hsupp]
  simp only [limited, if_pos htoken]
  rw [hnone _ rfl]

/-- The nine words of an aggregate record in its slot (R434). -/
theorem aggRec_words (a : AggEnt) {sev seq : Nat} (hsev : codeSev a.code = some sev) (hseq : seq < 2 ^ 32) :
    let word (i : Nat) : Word := (recWords (aggRec a) seq false true)[i]?.getD Word.zero
    bits (word 0).pay 63 48 = a.code ∧ bits (word 0).pay 47 40 = 9 ∧ bits (word 0).pay 39 36 = sev ∧ bit (word 0).pay 35 = true ∧
      bit (word 0).pay 34 = false ∧ word 1 = Word.fixN a.open' ∧ (word 2).pay = a.subj ∧ word 3 = Word.fixN a.count ∧
      (word 4).pay = a.first ∧ word 5 = Word.fixN a.open' ∧ (word 6).pay = a.last ∧ word 7 = Word.fixN a.lastT := by
  have hsev' : (aggRec a).sev = sev := by simp [aggRec, mkRec, hsev]
  obtain ⟨hc, hs⟩ := codeSev_fits hsev
  obtain ⟨hcode, hlen, hsevf, hagg, hsupp⟩ := recHeader_fields (aggRec a) false hc (by decide : 7 + 2 < 2 ^ 8) (hsev' ▸ hs) hseq
  exact ⟨hcode, hlen, hsevf.trans hsev', hagg, hsupp, rfl, rfl, rfl, rfl, rfl, rfl, rfl⟩

/-- Settles O50: the close is one record written in SERVICE mode, whose words stand in the slot of its sequence number. -/
theorem aggregateRecordIsWritten : Obligations.AggregateRecordIsWritten := by
  unfold Obligations.AggregateRecordIsWritten
  intro s ix sev a hfind hdue hsev
  rw [exec_aggEntryClose_of_due hfind hdue]
  refine ⟨fun hcount => by rw [closeAgg_of_count_le_one true hfind hcount]; rfl, ?_⟩
  intro hcount htoken hsupp hmode hok hseq href htrip hfull hst2 hst3
  rw [closeAgg_of_one_lt_count hfind hcount, limited_of_token _ _ htoken hsupp]
  generalize hmod : modGlow _ _ = u
  obtain ⟨hi, mx, hw⟩ := writeRec_of_ringOnly (s := u) (r := aggRec a)
    (by subst hmod; exact ⟨hmode, hok, hseq, href, htrip, hfull, hst2, hst3⟩)
  have hnext : u.glow.nextSeq = s.glow.nextSeq := by subst hmod; rfl
  refine ⟨_, rfl, ?_⟩
  have hwords := aggRec_words a hsev (seq := s.glow.nextSeq) (by omega)
  have hslot : ∀ i < 9, tget Word.zero (writeRec u (aggRec a)).glow.ring (s.glow.nextSeq % 16384 * 32 + i) =
      (recWords (aggRec a) s.glow.nextSeq false true)[i]?.getD Word.zero := by
    intro i hi9
    rw [hw, ← hnext]
    exact ringRecorded_slot u.glow (aggRec a) hi9
  simp (disch := omega) only [hslot]
  refine ⟨hwords, ?_⟩
  rw [hw]
  subst hmod
  exact ⟨rfl, rfl, rfl, rfl⟩

end Sys2Proof.Machine

/-!
PROOFS. Reset, memory, and the codecs of packets and frames.
-/

namespace Sys2Proof.Machine
open Sys2Proof

/-! ## The queue of commands, and reset -/

/-- Settles O1: the front command and the rest are what `step` takes the queue apart into. -/
theorem stepRunsFrontCommand : Obligations.StepRunsFrontCommand := fun _ _ _ => rfl

/-- Settles O3: every field of the reset state is the default of its declaration. -/
theorem resetState : Obligations.ResetState :=
  ⟨rfl, rfl, rfl, fun _ => ⟨rfl, rfl, fun _ => rfl, fun _ => ⟨rfl, rfl⟩, rfl, rfl⟩, rfl, rfl, rfl, rfl, rfl, rfl, rfl⟩

/-- Settles O4: reset memory lists nothing. -/
theorem invAtReset : Obligations.InvAtReset := wf_nil

/-! ## Canonical memory -/

/-- Settles O9: the laws of a word and of a run of words written. -/
theorem memoryWriteReads : Obligations.MemoryWriteReads := by
  refine ⟨fun s a b w => ⟨readWord_writeWord s a b w, wf_writeWord s a w, ?_⟩,
    fun s a b ws => ⟨readWord_writeWords s a b ws, wf_writeWords s a ws⟩⟩
  obtain ⟨rf, h⟩ := writeWord_spec s a w
  rw [h]

/-- Canonical memory, one entry at a time: the first entry is not FIX 0, every later address is above it, and the rest is canonical. -/
theorem wf_cons_iff {e : Nat × Word} {m : List (Nat × Word)} :
    Memory.wf (e :: m) = true ↔ e.2 ≠ Word.zero ∧ (∀ x ∈ m, e.1 < x.1) ∧ Memory.wf m = true := by
  simp only [Memory.wf, Bool.and_eq_true, decide_eq_true_eq, List.pairwise_cons, List.all_cons]
  tauto

/-- An address below every entry reads FIX 0. -/
theorem memGet_of_below {m : List (Nat × Word)} {a : Nat} (h : ∀ x ∈ m, a < x.1) : memGet m a = Word.zero := by
  induction m with
  | nil => rfl
  | cons e m ih =>
    have he : a ≠ e.1 := (h e List.mem_cons_self).ne
    rw [memGet, tget, if_neg he]
    exact ih fun x hx => h x (List.mem_cons_of_mem _ hx)

theorem memGet_cons_self (e : Nat × Word) (m : List (Nat × Word)) : memGet (e :: m) e.1 = e.2 := tget_cons_same _ _ _ _

/-- Of two canonical memories that read alike, the first entry of one is not below the other's. -/
theorem not_lt_head_of_reads_alike {d e : Nat × Word} {m n : List (Nat × Word)} (hd : Memory.wf (d :: m) = true)
    (he : Memory.wf (e :: n) = true) (hr : ∀ a, memGet (d :: m) a = memGet (e :: n) a) : ¬ d.1 < e.1 := by
  intro hlt
  obtain ⟨hd0, -, -⟩ := wf_cons_iff.mp hd
  obtain ⟨-, hen, -⟩ := wf_cons_iff.mp he
  have habove : ∀ x ∈ e :: n, d.1 < x.1 := List.forall_mem_cons.mpr ⟨hlt, fun x hx => hlt.trans (hen x hx)⟩
  exact hd0 (by rw [← memGet_cons_self d m, hr, memGet_of_below habove])

/-- Settles O10: by induction on both lists; the first entries have the same address, so the same word, and the rests read alike. -/
theorem memoryIsCanonical : Obligations.MemoryIsCanonical := by
  unfold Obligations.MemoryIsCanonical
  intro m
  induction m with
  | nil =>
    intro n _ hn hr
    match n with
    | [] => rfl
    | e :: n =>
      have h0 := hr e.1
      rw [memGet_cons_self] at h0
      exact absurd h0.symm (wf_cons_iff.mp hn).1
  | cons d m ih =>
    intro n hm hn hr
    match n with
    | [] =>
      have h0 := hr d.1
      rw [memGet_cons_self] at h0
      exact absurd h0 (wf_cons_iff.mp hm).1
    | e :: n =>
      have haddr : d.1 = e.1 := Nat.le_antisymm (Nat.not_lt.mp (not_lt_head_of_reads_alike hn hm fun a => (hr a).symm))
        (Nat.not_lt.mp (not_lt_head_of_reads_alike hm hn hr))
      have hword : d.2 = e.2 := by rw [← memGet_cons_self d m, hr, haddr, memGet_cons_self]
      obtain ⟨-, hdm, hm'⟩ := wf_cons_iff.mp hm
      obtain ⟨-, hen, hn'⟩ := wf_cons_iff.mp hn
      have hrest : ∀ a, memGet m a = memGet n a := by
        intro a
        by_cases ha : a = d.1
        · rw [memGet_of_below (m := m) (fun x hx => ha ▸ hdm x hx), memGet_of_below (m := n) (fun x hx => ha ▸ haddr ▸ hen x hx)]
        · have h := hr a
          rwa [memGet, memGet, tget, tget, if_neg ha, if_neg (haddr ▸ ha)] at h
      rw [Prod.ext haddr hword, ih n hm' hn' hrest]

/-! ## Packets (R70 to R73) -/

/-- Bits of a concatenation that lie in its low part. -/
theorem extract_append_low {a b : Nat} (x : BitVec a) (y : BitVec b) {start len : Nat} (h : start + len ≤ b) :
    (x ++ y).extractLsb' start len = y.extractLsb' start len := BitVec.extractLsb'_append_eq_of_add_le h

/-- Bits of a concatenation whose high part they are, or the top of its low part. -/
theorem extract_append_high {a b : Nat} (x : BitVec a) (y : BitVec b) : (x ++ y).extractLsb' b a = x := BitVec.extractLsb'_append_eq_left

theorem extract_append_rest {a b : Nat} (x : BitVec a) (y : BitVec b) : (x ++ y).extractLsb' 0 b = y := BitVec.extractLsb'_append_eq_right

theorem append_extract {n : Nat} (v : BitVec n) (start lo hi : Nat) :
    v.extractLsb' (start + lo) hi ++ v.extractLsb' start lo = v.extractLsb' start (hi + lo) :=
  BitVec.extractLsb'_append_extractLsb'_eq_extractLsb' rfl

theorem shortOfBits_shortBits (m : ShortMove) : shortOfBits (shortBits m) = m := by
  have hdest : (shortBits m).extractLsb' 8 7 = m.dest := extract_append_high m.dest (BitVec.ofBool m.imm ++ m.src)
  have hlow (start len : Nat) (h : start + len ≤ 8) :
      (shortBits m).extractLsb' start len = (BitVec.ofBool m.imm ++ m.src).extractLsb' start len := extract_append_low m.dest _ h
  have himm : (shortBits m).getLsbD 7 = m.imm := by
    rw [BitVec.getLsbD_eq_extractLsb', hlow 7 1 (by decide), extract_append_high]
    cases m.imm <;> rfl
  have hsrc : (shortBits m).extractLsb' 0 7 = m.src := (hlow 0 7 (by decide)).trans (extract_append_rest _ _)
  rw [shortOfBits, hdest, himm, hsrc]

theorem longOfBits_longBits (m : LongMove) : longOfBits (longBits m) = m := by
  have hguard : (longBits m).extractLsb' 26 4 = m.guard := extract_append_high m.guard (m.dest ++ (m.sel ++ m.src))
  have hlow (start len : Nat) (h : start + len ≤ 26) :
      (longBits m).extractLsb' start len = (m.dest ++ (m.sel ++ m.src)).extractLsb' start len := extract_append_low m.guard _ h
  have hdest : (longBits m).extractLsb' 16 10 = m.dest := (hlow 16 10 (by decide)).trans (extract_append_high m.dest (m.sel ++ m.src))
  have hsel : (longBits m).extractLsb' 14 2 = m.sel := by
    rw [hlow 14 2 (by decide), extract_append_low _ _ (by decide), extract_append_high]
  have hsrc : (longBits m).extractLsb' 0 14 = m.src := by
    rw [hlow 0 14 (by decide), extract_append_low _ _ (by decide), extract_append_rest]
  rw [longOfBits, hguard, hdest, hsel, hsrc]

theorem wideOfBits_wideBits (m : WideMove) : wideOfBits (wideBits m) = m := by
  have hdest : (wideBits m).extractLsb' 50 10 = m.dest := extract_append_high m.dest (m.tag ++ m.pay)
  have hlow (start len : Nat) (h : start + len ≤ 50) :
      (wideBits m).extractLsb' start len = (m.tag ++ m.pay).extractLsb' start len := extract_append_low m.dest _ h
  have htag : (wideBits m).extractLsb' 42 8 = m.tag := (hlow 42 8 (by decide)).trans (extract_append_high _ _)
  have hpay : (wideBits m).extractLsb' 0 42 = m.pay := (hlow 0 42 (by decide)).trans (extract_append_rest _ _)
  rw [wideOfBits, hdest, htag, hpay]

theorem shortBits_shortOfBits (v : BitVec 15) : shortBits (shortOfBits v) = v := by
  have himm : BitVec.ofBool (v.getLsbD 7) = v.extractLsb' 7 1 := by
    rw [BitVec.getLsbD_eq_extractLsb']
    generalize v.extractLsb' 7 1 = b
    decide +revert
  have hlow : BitVec.ofBool (v.getLsbD 7) ++ v.extractLsb' 0 7 = v.extractLsb' 0 (1 + 7) := himm ▸ append_extract v 0 7 1
  calc shortBits (shortOfBits v) = v.extractLsb' 8 7 ++ (BitVec.ofBool (v.getLsbD 7) ++ v.extractLsb' 0 7) := rfl
    _ = v.extractLsb' 8 7 ++ v.extractLsb' 0 (1 + 7) := by rw [hlow]
    _ = v.extractLsb' 0 15 := append_extract v 0 8 7
    _ = v := BitVec.extractLsb'_eq_self

theorem longBits_longOfBits (v : BitVec 30) : longBits (longOfBits v) = v :=
  calc longBits (longOfBits v)
    _ = v.extractLsb' 26 4 ++ (v.extractLsb' 16 10 ++ (v.extractLsb' 14 2 ++ v.extractLsb' 0 14)) := rfl
    _ = v.extractLsb' 26 4 ++ (v.extractLsb' 16 10 ++ v.extractLsb' 0 16) := by rw [append_extract v 0 14 2]
    _ = v.extractLsb' 26 4 ++ v.extractLsb' 0 26 := by rw [append_extract v 0 16 10]
    _ = v.extractLsb' 0 30 := append_extract v 0 26 4
    _ = v := BitVec.extractLsb'_eq_self

theorem wideBits_wideOfBits (v : BitVec 60) : wideBits (wideOfBits v) = v :=
  calc wideBits (wideOfBits v)
    _ = v.extractLsb' 50 10 ++ (v.extractLsb' 42 8 ++ v.extractLsb' 0 42) := rfl
    _ = v.extractLsb' 50 10 ++ v.extractLsb' 0 50 := by rw [append_extract v 0 42 8]
    _ = v.extractLsb' 0 60 := append_extract v 0 50 10
    _ = v := BitVec.extractLsb'_eq_self

theorem bits_eq_extractLsb' (w : W64) (hi lo : Nat) : bits w hi lo = (w.extractLsb' lo (hi + 1 - lo)).toNat := by
  simp [bits, BitVec.extractLsb'_toNat, Nat.shiftRight_eq_div_pow]

/-- The template of a payload is its top four bits (R70). -/
theorem template_of_append {w : W64} {t : BitVec 4} {v : BitVec 60} (hw : w = t ++ v) : bits w 63 60 = t.toNat := by
  rw [bits_eq_extractLsb', hw]
  exact congrArg BitVec.toNat (extract_append_high t v)

/-- A slot of a payload lies below the template. -/
theorem slot_of_moves {w : W64} {t : BitVec 4} {v : BitVec 60} (hw : w = t ++ v) {start len : Nat} (h : start + len ≤ 60) :
    w.extractLsb' start len = v.extractLsb' start len := hw ▸ extract_append_low t v h

/-- A payload is its template followed by its 60 bits of moves. -/
theorem template_append_moves {w : W64} {t : BitVec 4} (h : bits w 63 60 = t.toNat) : t ++ w.extractLsb' 0 60 = w := by
  have ht : w.extractLsb' 60 4 = t := BitVec.eq_of_toNat_eq (by rw [← h, bits_eq_extractLsb'])
  rw [← ht]
  exact (append_extract w 0 60 4).trans BitVec.extractLsb'_eq_self

/-! ### The decoder, one template at a time -/

theorem decodePacket_of_template0 {w : W64} (h : bits w 63 60 = 0) : decodePacket w =
    some (.t0 (shortOfBits (w.extractLsb' 45 15)) (shortOfBits (w.extractLsb' 30 15))
      (shortOfBits (w.extractLsb' 15 15)) (shortOfBits (w.extractLsb' 0 15))) := by simp only [decodePacket, h]

theorem decodePacket_of_template1 {w : W64} (h : bits w 63 60 = 1) : decodePacket w =
    some (.t1 (shortOfBits (w.extractLsb' 45 15)) (shortOfBits (w.extractLsb' 30 15)) (longOfBits (w.extractLsb' 0 30))) := by
  simp only [decodePacket, h]

theorem decodePacket_of_template2 {w : W64} (h : bits w 63 60 = 2) : decodePacket w =
    some (.t2 (longOfBits (w.extractLsb' 30 30)) (shortOfBits (w.extractLsb' 15 15)) (shortOfBits (w.extractLsb' 0 15))) := by
  simp only [decodePacket, h]

theorem decodePacket_of_template3 {w : W64} (h : bits w 63 60 = 3) : decodePacket w =
    some (.t3 (longOfBits (w.extractLsb' 30 30)) (longOfBits (w.extractLsb' 0 30))) := by simp only [decodePacket, h]

theorem decodePacket_of_template4 {w : W64} (h : bits w 63 60 = 4) : decodePacket w =
    some (.t4 (wideOfBits (w.extractLsb' 0 60))) := by simp only [decodePacket, h]

theorem decodePacket_of_template_ge {w : W64} (h : 5 ≤ bits w 63 60) : decodePacket w = none := by
  unfold decodePacket
  split
  case h_6 => rfl
  all_goals omega

/-! ### The slots of a payload -/

/-- The first two short slots (templates 0 and 1). -/
theorem slots_of_shorts_first {w : W64} {t : BitVec 4} {a b : BitVec 15} {r : BitVec 30} (hw : w = t ++ (a ++ (b ++ r))) :
    w.extractLsb' 45 15 = a ∧ w.extractLsb' 30 15 = b ∧
      ∀ start len, start + len ≤ 30 → w.extractLsb' start len = r.extractLsb' start len :=
  ⟨(slot_of_moves hw (by decide)).trans (extract_append_high _ _),
    (slot_of_moves hw (by decide)).trans ((extract_append_low _ _ (by decide)).trans (extract_append_high _ _)),
    fun _ _ h => (slot_of_moves hw (by omega)).trans ((extract_append_low _ _ (by omega)).trans (extract_append_low _ _ h))⟩

/-- The first long slot (templates 2 and 3). -/
theorem slots_of_long_first {w : W64} {t : BitVec 4} {a r : BitVec 30} (hw : w = t ++ (a ++ r)) :
    w.extractLsb' 30 30 = a ∧ ∀ start len, start + len ≤ 30 → w.extractLsb' start len = r.extractLsb' start len :=
  ⟨(slot_of_moves hw (by decide)).trans (extract_append_high _ _),
    fun _ _ h => (slot_of_moves hw (by omega)).trans (extract_append_low _ _ h)⟩

/-- Settles O11: the template selects the decoder's branch, and each slot's bits are where the encoder put them. -/
theorem packetDecodesFromItsWord : Obligations.PacketDecodesFromItsWord := by
  unfold Obligations.PacketDecodesFromItsWord
  intro p
  have hshorts (c d : ShortMove) : (shortBits c ++ shortBits d : BitVec 30).extractLsb' 15 15 = shortBits c ∧
      (shortBits c ++ shortBits d : BitVec 30).extractLsb' 0 15 = shortBits d := ⟨extract_append_high _ _, extract_append_rest _ _⟩
  cases p with
  | t0 a b c d =>
    have hw : encodePacket (.t0 a b c d) = 0#4 ++ (shortBits a ++ (shortBits b ++ (shortBits c ++ shortBits d))) := rfl
    obtain ⟨ha, hb, hr⟩ := slots_of_shorts_first hw
    rw [decodePacket_of_template0 (template_of_append hw), ha, hb, hr 15 15 (by decide), hr 0 15 (by decide),
      (hshorts c d).1, (hshorts c d).2]
    simp only [shortOfBits_shortBits]
  | t1 a b c =>
    have hw : encodePacket (.t1 a b c) = 1#4 ++ (shortBits a ++ (shortBits b ++ longBits c)) := rfl
    obtain ⟨ha, hb, hr⟩ := slots_of_shorts_first hw
    rw [decodePacket_of_template1 (template_of_append hw), ha, hb, hr 0 30 (by decide), BitVec.extractLsb'_eq_self]
    simp only [shortOfBits_shortBits, longOfBits_longBits]
  | t2 a b c =>
    have hw : encodePacket (.t2 a b c) = 2#4 ++ (longBits a ++ (shortBits b ++ shortBits c)) := rfl
    obtain ⟨ha, hr⟩ := slots_of_long_first hw
    rw [decodePacket_of_template2 (template_of_append hw), ha, hr 15 15 (by decide), hr 0 15 (by decide),
      (hshorts b c).1, (hshorts b c).2]
    simp only [shortOfBits_shortBits, longOfBits_longBits]
  | t3 a b =>
    have hw : encodePacket (.t3 a b) = 3#4 ++ (longBits a ++ longBits b) := rfl
    obtain ⟨ha, hr⟩ := slots_of_long_first hw
    rw [decodePacket_of_template3 (template_of_append hw), ha, hr 0 30 (by decide), BitVec.extractLsb'_eq_self]
    simp only [longOfBits_longBits]
  | t4 a =>
    have hw : encodePacket (.t4 a) = 4#4 ++ wideBits a := rfl
    rw [decodePacket_of_template4 (template_of_append hw), slot_of_moves hw (by decide), BitVec.extractLsb'_eq_self,
      wideOfBits_wideBits]

/-- The payload of the packet that a payload decodes to: its slots put back where they were. -/
theorem encodePacket_of_decodePacket {w : W64} {p : Packet} (h : decodePacket w = some p) : encodePacket p = w := by
  have hrest (v : BitVec 30) : v = w.extractLsb' 0 30 → w.extractLsb' 45 15 ++ (w.extractLsb' 30 15 ++ v) = w.extractLsb' 0 60 := by
    rintro rfl
    exact (congrArg (w.extractLsb' 45 15 ++ ·) (append_extract w 0 30 15)).trans (append_extract w 0 45 15)
  have hpair : w.extractLsb' 15 15 ++ w.extractLsb' 0 15 = w.extractLsb' 0 30 := append_extract w 0 15 15
  match ht : bits w 63 60 with
  | 0 =>
    obtain rfl := Option.some.inj ((decodePacket_of_template0 ht).symm.trans h)
    simp only [encodePacket, shortBits_shortOfBits]
    exact (congrArg (0#4 ++ ·) (hrest _ hpair)).trans (template_append_moves ht)
  | 1 =>
    obtain rfl := Option.some.inj ((decodePacket_of_template1 ht).symm.trans h)
    simp only [encodePacket, shortBits_shortOfBits, longBits_longOfBits]
    exact (congrArg (1#4 ++ ·) (hrest _ rfl)).trans (template_append_moves ht)
  | 2 =>
    obtain rfl := Option.some.inj ((decodePacket_of_template2 ht).symm.trans h)
    simp only [encodePacket, shortBits_shortOfBits, longBits_longOfBits]
    exact (congrArg (fun v : BitVec 30 => 2#4 ++ (w.extractLsb' 30 30 ++ v)) hpair).trans
      ((congrArg (2#4 ++ ·) (append_extract w 0 30 30)).trans (template_append_moves ht))
  | 3 =>
    obtain rfl := Option.some.inj ((decodePacket_of_template3 ht).symm.trans h)
    simp only [encodePacket, longBits_longOfBits]
    exact (congrArg (3#4 ++ ·) (append_extract w 0 30 30)).trans (template_append_moves ht)
  | 4 =>
    obtain rfl := Option.some.inj ((decodePacket_of_template4 ht).symm.trans h)
    simp only [encodePacket, wideBits_wideOfBits]
    exact template_append_moves ht
  | n + 5 =>
    rw [decodePacket_of_template_ge (by omega)] at h
    contradiction

/-- Settles O12: the slots put back give the payload, templates 0 to 4 decode, and the written-out payloads are evaluated. -/
theorem packetWordIsItsPacket : Obligations.PacketWordIsItsPacket := by
  refine ⟨⟨fun w p => encodePacket_of_decodePacket, fun w => ⟨fun h => ?_, decodePacket_of_template_ge⟩⟩, by decide⟩
  by_contra hlt
  have hcases : bits w 63 60 = 0 ∨ bits w 63 60 = 1 ∨ bits w 63 60 = 2 ∨ bits w 63 60 = 3 ∨ bits w 63 60 = 4 := by omega
  rcases hcases with ht | ht | ht | ht | ht
  · rw [decodePacket_of_template0 ht] at h; contradiction
  · rw [decodePacket_of_template1 ht] at h; contradiction
  · rw [decodePacket_of_template2 ht] at h; contradiction
  · rw [decodePacket_of_template3 ht] at h; contradiction
  · rw [decodePacket_of_template4 ht] at h; contradiction

/-! ## The frame (R274, R279, R280) -/

theorem flagsNat_lt (f : Flags) : flagsNat f < 32 := by
  obtain ⟨z, n, c, v, t⟩ := f
  revert z n c v t
  decide

@[simp] theorem flagsOfNat_flagsNat (f : Flags) : flagsOfNat (flagsNat f) = f := by
  obtain ⟨z, n, c, v, t⟩ := f
  revert z n c v t
  decide

/-- Word 0 of a frame shows its fields. -/
theorem frame_word0_fields {fl kind resume : Nat} (ie priv : Bool) (hfl : fl < 32) (hkind : kind ≤ 2) (hres : resume < 2 ^ 48) :
    let w := field fl 52 ||| field kind 50 ||| flagBit ie 49 ||| flagBit priv 48 ||| field (resume % 2 ^ 48) 0
    bits w 63 57 = 0 ∧ bits w 56 52 = fl ∧ bits w 51 50 = kind ∧ bit w 49 = ie ∧ bit w 48 = priv ∧ bits w 47 0 = resume := by
  have hie := b2n_lt_two ie
  have hpriv := b2n_lt_two priv
  rw [Nat.mod_eq_of_lt hres]
  simp (disch := omega) only [flagBit_eq_field, bit_eq_bits, bits_or, bits_field_same, bits_field_above, bits_field_below, Nat.or_zero,
    Nat.zero_or, decide_b2n, and_self]

/-- Word 1 of a frame shows the repeat state, and passes its checks. -/
theorem frameRepeat_fields {r : Repeat} (h : ∀ n, r = .armed n ∨ r = .active n → n < 2 ^ 16) : let w := frameRepeat r
    bits w 63 19 = 0 ∧ bit w 16 = false ∧ (bit w 18 && bit w 17) = false ∧
      (if bit w 18 then .active (bits w 15 0) else if bit w 17 then .armed (bits w 15 0) else .none) = r := by
  cases r with
  | none => decide
  | armed n | active n =>
    have hn : n < 2 ^ 16 := h n (by simp)
    simp (disch := omega) [frameRepeat, flagBit_eq_field, bit_eq_bits, bits_field_same, bits_field_above,
      bits_field_below, b2n]

/-- A transfer word of a frame shows the transfer. -/
theorem frameXfer_fields {x : Xfer} (htarget : x.target < 2 ^ 48) (hdist : x.dist < 4) : let w := frameXfer x
    bits w 63 51 = 0 ∧ bit w 50 = true ∧ bits w 49 48 = x.dist ∧ bits w 47 0 = x.target := by
  simp (disch := omega) [frameXfer, flagBit_eq_field, bit_eq_bits, bits_or, bits_field_same, bits_field_above, bits_field_below, b2n]

/-- Transfer word i of a frame: 0 where no transfer is in flight. -/
def xferWord (xs : List Xfer) (i : Nat) : W64 := ((xs[i]?).map frameXfer).getD 0

/-- Every transfer word passes its checks. -/
theorem xferWord_ok {xs : List Xfer} (hx : ∀ t ∈ xs, t.target < 2 ^ 48 ∧ t.dist < 4) (i : Nat) :
    bits (xferWord xs i) 63 51 = 0 ∧ (bit (xferWord xs i) 50 || bits (xferWord xs i) 49 0 == 0) = true := by
  rw [xferWord]
  cases h : xs[i]? with
  | none => decide
  | some t =>
    obtain ⟨htarget, hdist⟩ := hx t (List.mem_of_getElem? h)
    obtain ⟨hhigh, hvalid, -, -⟩ := frameXfer_fields htarget hdist
    exact ⟨hhigh, by rw [Option.map_some, Option.getD_some, hvalid, Bool.true_or]⟩

/-- The transfer that a word of a frame shows. -/
def xferOfWord (w : W64) : Option Xfer := if bit w 50 then some { target := bits w 47 0, dist := bits w 49 48 } else none

theorem xferOfWord_frameXfer {t : Xfer} (h : t.target < 2 ^ 48 ∧ t.dist < 4) : xferOfWord (frameXfer t) = some t := by
  obtain ⟨-, hvalid, hdist, htarget⟩ := frameXfer_fields h.1 h.2
  rw [xferOfWord, hvalid, if_pos rfl, hdist, htarget]

theorem xferOfWord_xferWord {xs : List Xfer} (hx : ∀ t ∈ xs, t.target < 2 ^ 48 ∧ t.dist < 4) (i : Nat) :
    xferOfWord (xferWord xs i) = xs[i]? := by
  rw [xferWord]
  cases h : xs[i]? with
  | none => decide
  | some t => exact xferOfWord_frameXfer (hx t (List.mem_of_getElem? h))

/-- The three transfer words show the transfers in flight. -/
theorem filterMap_xferWord {xs : List Xfer} (hlen : xs.length ≤ 3) (hx : ∀ t ∈ xs, t.target < 2 ^ 48 ∧ t.dist < 4) :
    [xferWord xs 0, xferWord xs 1, xferWord xs 2].filterMap xferOfWord = xs := by
  simp only [List.filterMap_cons, xferOfWord_xferWord hx, List.filterMap_nil]
  match xs with
  | [] | [_] | [_, _] | [_, _, _] => rfl
  | _ :: _ :: _ :: _ :: _ => simp only [List.length_cons] at hlen; omega

/-- A payload masked to its low bits. -/
theorem toNat_and_mask (v : W64) (n : Nat) (hn : n ≤ 64) : (v &&& BitVec.ofNat 64 (2 ^ n - 1)).toNat = v.toNat % 2 ^ n := by
  have hlt : 2 ^ n - 1 < 2 ^ 64 := by have := Nat.pow_le_pow_right (n := 2) (by decide) hn; have := Nat.two_pow_pos n; omega
  rw [BitVec.toNat_and, BitVec.toNat_ofNat, Nat.mod_eq_of_lt hlt, Nat.and_two_pow_sub_one_eq_mod]

/-- A payload masked to 48 bits has its high bits clear, and its low bits are those of the payload. -/
theorem and_mask48_fields (v : W64) : bits (v &&& 0xFFFFFFFFFFFF) 63 48 = 0 ∧ bits (v &&& 0xFFFFFFFFFFFF) 47 0 = bits v 47 0 := by
  have h : (v &&& 0xFFFFFFFFFFFF).toNat = v.toNat % 2 ^ 48 := toNat_and_mask v 48 (by decide)
  simp only [bits, h]
  omega

theorem and_maskFF_of_lt {v : W64} (h : v.toNat < 256) : v &&& 0xFF = v :=
  BitVec.eq_of_toNat_eq ((toNat_and_mask v 8 (by decide)).trans (Nat.mod_eq_of_lt h))

theorem addr48_of_lt {v : W64} (h : v.toNat < 2 ^ 48) : addr48 v = v := by
  have hv : bits v 47 0 = v.toNat := by simp only [bits]; omega
  rw [addr48, hv, field, Nat.pow_zero, Nat.mul_one, BitVec.ofNat_toNat, BitVec.setWidth_eq]

/-- Payloads 0 to 8 of a frame are those of its body, and word 9 has the seal above its address (R275). -/
theorem fpay_frameOf (x : Ctx) (kind resume base : Nat) : let ws := frameOf x kind resume base
    fpay ws 0 = (field (flagsNat (curBank x).flags) 52 ||| field kind 50 ||| flagBit x.regs.ie 49 ||| flagBit x.priv 48 |||
      field (resume % 2 ^ 48) 0) ∧ fpay ws 1 = frameRepeat x.rpt ∧
    fpay ws 2 = xferWord x.xfers 0 ∧ fpay ws 3 = xferWord x.xfers 1 ∧ fpay ws 4 = xferWord x.xfers 2 ∧ fpay ws 5 = x.regs.cause ∧
    fpay ws 6 = x.regs.faddr ∧ fpay ws 7 = x.regs.finfo ∧ fpay ws 8 = (latchOf x.s pDSsp).pay &&& 0xFFFFFFFFFFFF ∧
    ∃ hi, fpay ws 9 = ((latchOf x.s pRSsp).pay &&& 0xFFFFFFFFFFFF) ||| field hi 48 := by
  have hx (i : Nat) : (match x.xfers[i]? with | some t => frameXfer t | none => 0) = xferWord x.xfers i := by
    rw [xferWord]; cases x.xfers[i]? <;> rfl
  exact ⟨rfl, rfl, hx 0, hx 1, hx 2, rfl, rfl, rfl, rfl, _, rfl⟩

/-- Settles O13: every field of the frame's words reads back, and word 8 and the transfer words pass their checks. -/
theorem frameRoundTrip : Obligations.FrameRoundTrip := by
  unfold Obligations.FrameRoundTrip
  intro x kind resume base hkind hres hlen hx hrpt hcause hfaddr
  obtain ⟨e0, e1, e2, e3, e4, e5, e6, e7, e8, hi, e9⟩ := fpay_frameOf x kind resume base
  obtain ⟨w0high, w0flags, w0kind, w0ie, w0priv, w0pc⟩ := frame_word0_fields x.regs.ie x.priv (flagsNat_lt (curBank x).flags) hkind hres
  obtain ⟨w1high, w1clear, w1one, w1rpt⟩ := frameRepeat_fields (fun n hn => hrpt n hn)
  obtain ⟨x0, x0'⟩ := xferWord_ok hx 0
  obtain ⟨x1, x1'⟩ := xferWord_ok hx 1
  obtain ⟨x2, x2'⟩ := xferWord_ok hx 2
  obtain ⟨s8high, s8⟩ := and_mask48_fields (latchOf x.s pDSsp).pay
  obtain ⟨-, s9⟩ := and_mask48_fields (latchOf x.s pRSsp).pay
  have hseal : bits (field hi 48) 47 0 = 0 := bits_field_above hi (by decide)
  have hcause' : x.regs.cause &&& 0xFF = x.regs.cause := and_maskFF_of_lt hcause
  have hfaddr' : addr48 x.regs.faddr = x.regs.faddr := addr48_of_lt hfaddr
  constructor
  · have hne : (kind != 3) = true := by rw [bne_iff_ne]; omega
    simp only [frameFieldsOk, e0, e1, e2, e3, e4, e8, w0high, w0kind, hne, w1high, w1clear, w1one, x0, x0', x1, x1', x2, x2', s8high,
      beq_self_eq_true, Bool.not_false, Bool.and_self]
  · have hxs := filterMap_xferWord hlen hx
    simp only [frameView, e0, e1, e2, e3, e4, e5, e6, e7, e8, e9, w0priv, w0pc, w0ie, w0flags, flagsOfNat_flagsNat, w1rpt, hcause', hfaddr', s8,
      bits_or, s9, hseal, Nat.or_zero]
    congr 1

/-! ## The tick (R29, R30, R453) -/

/-- Clusters that are the same but for being idle. -/
def SameButIdle (ks ks' : Tab Cluster) : Prop := ∀ c, tget {} ks' c = { tget {} ks c with idle := (tget {} ks' c).idle }

theorem SameButIdle.refl (ks : Tab Cluster) : SameButIdle ks ks := fun _ => rfl

/-- Noting that a cluster is idle changes nothing else. -/
theorem SameButIdle.put {ks ks' : Tab Cluster} (h : SameButIdle ks ks') (c : Nat) (b : Bool) :
    SameButIdle ks (tput ks' c { tget {} ks' c with idle := b }) := by
  intro d
  by_cases hd : d = c
  · subst hd
    rw [tget_tput_same, h d]
  · rw [tget_tput_ne _ _ _ hd, h d]

theorem noteIdle_eq (s : State) (cl : Nat) : ∃ b, noteIdle s cl =
    { s with clusters := tput s.clusters cl { tget {} s.clusters cl with idle := b } } := ⟨_, rfl⟩

/-- A tick's round over the clusters changes the clusters' idleness and what the power block keeps of it. -/
theorem tickIdle_spec (s : State) : ∃ ks p, tickIdle s = { s with clusters := ks, power := p } ∧ SameButIdle s.clusters ks := by
  unfold tickIdle
  refine List.foldlRecOn (motive := fun t => ∃ ks p, t = { s with clusters := ks, power := p } ∧ SameButIdle s.clusters ks) _ _
    ⟨s.clusters, s.power, rfl, .refl _⟩ ?_
  rintro _ ⟨ks, p, rfl, h⟩ c -
  split
  · obtain ⟨b, hb⟩ := noteIdle_eq { s with clusters := ks, power := p } c
    rw [hb]
    exact ⟨_, _, rfl, h.put c b⟩
  · exact ⟨_, _, rfl, h⟩

/-- A timebase that is not slewed counts the nanoseconds of the tick. -/
theorem tickTime_of_no_slew {s : State} (h : s.tsync.slew = 0) :
    tickTime s = { s with time := s.time + tickNs s, tsync := { s.tsync with slewNs := 0 } } := if_pos h

/-- Settles O2: the calendar, the timebase, the lifetime counters and the clusters' idleness are all that a tick changes. -/
theorem idleStepTicks : Obligations.IdleStepTicks := by
  unfold Obligations.IdleStepTicks
  intro s hpend hvaon hslew
  have hstep : step s = .next (tick s) := by rw [step, hpend]
  refine ⟨_, hstep, ?_⟩
  have htime := tickTime_of_no_slew (s := { s with cal := tickCal (tickNs s) s.cal }) hslew
  have hns : tickNs { s with cal := tickCal (tickNs s) s.cal } = tickNs s := rfl
  rw [tick, if_neg (by simp [hvaon]), htime, hns]
  split
  · exact ⟨rfl, ⟨rfl, rfl, fun _ => rfl, rfl, rfl⟩, rfl, rfl, rfl, rfl, rfl, rfl, rfl, rfl, rfl, hpend⟩
  · obtain ⟨ks, p, hidle, hks⟩ := tickIdle_spec (tickLife (tickNs s) { s with
      cal := tickCal (tickNs s) s.cal, time := s.time + tickNs s, tsync := { s.tsync with slewNs := 0 } })
    rw [hidle]
    exact ⟨rfl, ⟨rfl, rfl, hks, rfl, rfl⟩, rfl, rfl, rfl, rfl, rfl, rfl, rfl, rfl, rfl, hpend⟩

end Sys2Proof.Machine

/-!
PROOFS. What every command keeps: the part, the straps, the waiting commands, memory's canonical form and the fuses' minimum versions;
and the device number but for a reset. One lemma for each operation of the model, in the model's order.
-/

namespace Sys2Proof.Machine
open Sys2Proof

/-- No minimum version of the fuses falls. -/
def FusesLe (u v : Trust) : Prop :=
  u.fwSvnMin ≤ v.fwSvnMin ∧ u.capSvnMin ≤ v.capSvnMin ∧ ∀ i, tget 0 u.imgSvnMin i ≤ tget 0 v.imgSvnMin i

/-- A state that operations begin at, and whether one of them may be a reset, which samples the device number on the straps. -/
structure Origin extends State where
  samples : Prop

/-- What every command keeps of the state `s` that it begins at in a state `t` that it leads to. -/
structure Keeps (s : Origin) (t : State) : Prop where
  part : t.part = s.part
  dev : t.dev = s.dev ∨ (s.samples ∧ t.dev = s.boardSlot)
  boardSlot : t.boardSlot = s.boardSlot
  pending : t.pending = s.pending
  wf : Memory.wf s.mem = true → Memory.wf t.mem = true
  fuses : FusesLe s.trust t.trust

protected theorem FusesLe.refl (u : Trust) : FusesLe u u := ⟨le_rfl, le_rfl, fun _ => le_rfl⟩

protected theorem FusesLe.trans {u v w : Trust} (h : FusesLe u v) (h' : FusesLe v w) : FusesLe u w :=
  ⟨h.1.trans h'.1, h.2.1.trans h'.2.1, fun i => (h.2.2 i).trans (h'.2.2 i)⟩

/-- Programming a fuse only raises the minimum versions. -/
theorem fusesLe_blow (t : Trust) (b : FuseBlow) : FusesLe t (blow t b) := by
  cases b with
  | owner i h => exact .refl t
  | revoke i => exact .refl t
  | fwSvn n => exact ⟨le_max_left _ _, le_rfl, fun _ => le_rfl⟩
  | capSvn n => exact ⟨le_rfl, le_max_left _ _, fun _ => le_rfl⟩
  | imgSvn i n =>
    refine ⟨le_rfl, le_rfl, fun j => ?_⟩
    by_cases hj : j = i
    · subst hj; simp [blow]
    · simp [blow, hj]

theorem fusesLe_blows (t : Trust) (bs : List FuseBlow) : FusesLe t (bs.foldl blow t) :=
  List.foldlRecOn (motive := FusesLe t) bs blow (.refl t) fun _ h b _ => h.trans (fusesLe_blow _ b)

/-- Dropping words keeps memory canonical. -/
theorem wf_filter {m : List (Nat × Word)} (p : Nat × Word → Bool) (h : Memory.wf m = true) : Memory.wf (m.filter p) = true := by
  simp only [Memory.wf, Bool.and_eq_true, decide_eq_true_eq, List.all_eq_true] at h ⊢
  obtain ⟨hsorted, hlisted⟩ := h
  exact ⟨hsorted.filter p, fun e he => hlisted e (List.mem_of_mem_filter he)⟩

section
variable {s0 : Origin} {s : State}

protected theorem Keeps.refl (s : State) {p : Prop} : Keeps ⟨s, p⟩ s := ⟨rfl, .inl rfl, rfl, rfl, id, .refl _⟩

/-- Memory and the trust state may change where memory stays canonical and the minimum versions do not fall. -/
protected theorem Keeps.change {t : State} (h : Keeps s0 s) (hpart : t.part = s.part) (hdev : t.dev = s.dev ∨ (s0.samples ∧ t.dev = s.boardSlot))
    (hslot : t.boardSlot = s.boardSlot) (hpending : t.pending = s.pending) (hwf : Memory.wf s.mem = true → Memory.wf t.mem = true)
    (hfuses : FusesLe s.trust t.trust) : Keeps s0 t where
  part := hpart.trans h.part
  dev := by
    rcases hdev with hd | ⟨hsamples, hd⟩
    · rw [hd]; exact h.dev
    · exact .inr ⟨hsamples, hd.trans h.boardSlot⟩
  boardSlot := hslot.trans h.boardSlot
  pending := hpending.trans h.pending
  wf := fun hm => hwf (h.wf hm)
  fuses := h.fuses.trans hfuses

/-- What is kept speaks of the part, the device number, the straps, memory, the trust state and the waiting commands alone. -/
protected theorem Keeps.frame (h : Keeps s0 s) {time freeIx nextOp ctxs cores clusters dir parts owner unc invals nextInval nextSeq queues flows
    inFlows msgs routes remotes msix outbox reports img ports tsync forwards relays withdrawn withdrawing unbound glow life cal power hostIf
    flash staging smb dbg refl} :
    Keeps s0 ⟨s.part, s.dev, s.boardSlot, time, freeIx, nextOp, s.mem, ctxs, cores, clusters, dir, parts, owner, unc, invals, nextInval,
      nextSeq, queues, flows, inFlows, msgs, routes, remotes, msix, outbox, reports, img, ports, tsync, forwards, relays, withdrawn,
      withdrawing, unbound, s.trust, glow, life, cal, power, hostIf, flash, staging, smb, dbg, refl, s.pending⟩ :=
  ⟨h.part, h.dev, h.boardSlot, h.pending, h.wf, h.fuses⟩

protected theorem Keeps.ite {c : Prop} [Decidable c] {s t : State} (hs : Keeps s0 s) (ht : Keeps s0 t) : Keeps s0 (if c then s else t) := by
  split
  · exact hs
  · exact ht

/-- What is kept over an operation that a condition chooses, or that it leaves out. -/
protected theorem Keeps.when {c : Prop} [Decidable c] {t : State} (h : Keeps s0 s) (f : Keeps s0 s → Keeps s0 t) :
    Keeps s0 (if c then t else s) := .ite (f h) h

protected theorem Keeps.either {c : Prop} [Decidable c] {t u : State} (h : Keeps s0 s) (f : Keeps s0 s → Keeps s0 t)
    (g : Keeps s0 s → Keeps s0 u) : Keeps s0 (if c then t else u) := .ite (f h) (g h)

protected theorem Keeps.foldl {α : Type} {f : State → α → State} {l : List α} (hf : ∀ s a, Keeps s0 s → Keeps s0 (f s a)) (h : Keeps s0 s) :
    Keeps s0 (l.foldl f s) := List.foldlRecOn (motive := Keeps s0) l f h fun s hs a _ => hf s a hs

protected theorem Keeps.of_fst {α : Type} {p : State × α} {t : State} {a : α} (h : Keeps s0 p.1) (e : p = (t, a)) : Keeps s0 t := by
  rwa [e] at h

protected theorem Keeps.of_snd {α : Type} {p : α × State} {t : State} {a : α} (h : Keeps s0 p.2) (e : p = (a, t)) : Keeps s0 t := by
  rwa [e] at h

protected theorem Keeps.pair {α : Type} {a : α} (h : Keeps s0 s) : Keeps s0 (s, a).1 := h

protected theorem Keeps.pair_snd {α : Type} {a : α} (h : Keeps s0 s) : Keeps s0 (a, s).2 := h

protected theorem Keeps.getD {o : Option State} (ho : ∀ t, o = some t → Keeps s0 t) (h : Keeps s0 s) : Keeps s0 (o.getD s) := by
  cases o with
  | none => exact h
  | some t => exact ho t rfl

/-- A fold that carries a state and something else with it keeps what each of its steps keeps. -/
protected theorem Keeps.foldl_fst {α β : Type} {f : State × β → α → State × β} {l : List α} {a : State × β}
    (hf : ∀ a e, Keeps s0 a.1 → Keeps s0 (f a e).1) (h : Keeps s0 a.1) : Keeps s0 (l.foldl f a).1 :=
  List.foldlRecOn (motive := fun a => Keeps s0 a.1) l f h fun a ha e _ => hf a e ha

/-- What a command of the debug chain leaves. -/
protected theorem Keeps.res {status : Nat} {data : Option Word} (h : Keeps s0 s) : Keeps s0 (DbgRes.st ⟨s, status, data⟩) := h

/-- A command goes on: it answers a next state, with what every command keeps. -/
def GoesOn (s0 : Origin) (o : Host.Outcome State Fault Refusal) : Prop := ∃ t, o = .next t ∧ Keeps s0 t

protected theorem Keeps.next (h : Keeps s0 s) : GoesOn s0 (.next s) := ⟨s, rfl, h⟩

end
end Sys2Proof.Machine

namespace Sys2Proof.Machine
open Sys2Proof

section
variable {s0 : Origin} {s : State}

/-! ### Ops -/

protected theorem Keeps.writeWord {a w} (h : Keeps s0 s) : Keeps s0 (writeWord s a w) := by
  unfold writeWord
  have hs := h.change (t := { s with mem := memPut s.mem a w }) rfl (.inl rfl) rfl rfl (wf_memPut _ _ _) (.refl _)
  exact Keeps.ite hs.frame hs

protected theorem Keeps.writeWords {a ws} (h : Keeps s0 s) : Keeps s0 (writeWords s a ws) := by
  induction ws generalizing s a with
  | nil => exact h
  | cons w ws ih => exact ih h.writeWord

protected theorem Keeps.setCtx {c x} (h : Keeps s0 s) : Keeps s0 (setCtx s c x) := h.frame

protected theorem Keeps.modCtx {c f} (h : Keeps s0 s) : Keeps s0 (modCtx s c f) := h.setCtx

protected theorem Keeps.setCore {k x} (h : Keeps s0 s) : Keeps s0 (setCore s k x) := h.frame

protected theorem Keeps.modCore {k f} (h : Keeps s0 s) : Keeps s0 (modCore s k f) := h.setCore

protected theorem Keeps.setCluster {k x} (h : Keeps s0 s) : Keeps s0 (setCluster s k x) := h.frame

protected theorem Keeps.modCluster {k f} (h : Keeps s0 s) : Keeps s0 (modCluster s k f) := h.setCluster

protected theorem Keeps.modEngine {cl i f} (h : Keeps s0 s) : Keeps s0 (modEngine s cl i f) := h.modCluster

protected theorem Keeps.setPart {p x} (h : Keeps s0 s) : Keeps s0 (setPart s p x) := h.frame

protected theorem Keeps.modPart {p f} (h : Keeps s0 s) : Keeps s0 (modPart s p f) := h.setPart

protected theorem Keeps.freshOp (h : Keeps s0 s) : Keeps s0 (freshOp s).2 := by
  unfold freshOp
  dsimp only
  exact h.frame

protected theorem Keeps.drawBool (h : Keeps s0 s) : Keeps s0 (drawBool s).2 := by
  unfold drawBool
  dsimp only
  exact h.frame

protected theorem Keeps.drawNat (h : Keeps s0 s) : Keeps s0 (drawNat s).2 := by
  unfold drawNat
  dsimp only
  exact h.frame

protected theorem Keeps.drawWord (h : Keeps s0 s) : Keeps s0 (drawWord s).2 := by
  unfold drawWord
  dsimp only
  exact h.frame

protected theorem Keeps.enterReport {r} (h : Keeps s0 s) : Keeps s0 (enterReport s r) := by
  unfold enterReport
  dsimp only
  exact Keeps.ite h.frame h.frame

protected theorem Keeps.report {code subj pay wit} (h : Keeps s0 s) : Keeps s0 (report s code subj pay wit) := h.enterReport

protected theorem Keeps.setPort {p x} (h : Keeps s0 s) : Keeps s0 (setPort s p x) := h.frame

protected theorem Keeps.modPort {p f} (h : Keeps s0 s) : Keeps s0 (modPort s p f) := h.setPort

protected theorem Keeps.sendFlit {port f} (h : Keeps s0 s) : Keeps s0 (sendFlit s port f) := h.modPort

protected theorem Keeps.sendCtrl {target op part args token} (h : Keeps s0 s) : Keeps s0 (sendCtrl s target op part args token) := h.sendFlit

protected theorem Keeps.holdOut {o} (h : Keeps s0 s) : Keeps s0 (holdOut s o) := by
  unfold holdOut
  dsimp only
  exact h.frame

protected theorem Keeps.sendHw {kind part qid words} (h : Keeps s0 s) : Keeps s0 (sendHw s kind part qid words) := by
  unfold sendHw
  dsimp only
  exact Keeps.ite h.holdOut (Keeps.ite h.frame h.frame)

protected theorem Keeps.ringDoorbell {p b} (h : Keeps s0 s) : Keeps s0 (ringDoorbell s p b) := by
  unfold ringDoorbell
  dsimp only
  exact Keeps.ite h h.setPart.sendHw

protected theorem Keeps.pushStore {core e} (h : Keeps s0 s) : Keeps s0 (pushStore s core e) := by
  unfold pushStore
  dsimp only
  exact h.frame.modCore

protected theorem Keeps.queueRoutine {cl q} (h : Keeps s0 s) : Keeps s0 (queueRoutine s cl q) := h.frame.modCluster

protected theorem Keeps.sealedRefused {p agent wit} (h : Keeps s0 s) : Keeps s0 (sealedRefused s p agent wit) := h.report

protected theorem Keeps.tellSealed {c f} (h : Keeps s0 s) : Keeps s0 (tellSealed s c f) := by
  unfold tellSealed
  split
  · exact h.sealedRefused
  · exact h

/-! ### Cache -/

protected theorem Keeps.discardLine {line} (h : Keeps s0 s) : Keeps s0 (discardLine s line) := h.frame

protected theorem Keeps.cleanLine {line} (h : Keeps s0 s) : Keeps s0 (cleanLine s line) := by
  unfold cleanLine
  dsimp only
  exact Keeps.ite h h.writeWords.frame

protected theorem Keeps.flushLine {line} (h : Keeps s0 s) : Keeps s0 (flushLine s line) := h.cleanLine.discardLine

protected theorem Keeps.homeWrite {pa w} (h : Keeps s0 s) : Keeps s0 (homeWrite s pa w) := Keeps.ite h.flushLine h.flushLine.writeWord

protected theorem Keeps.setDir {line cs} (h : Keeps s0 s) : Keeps s0 (setDir s line cs) := h.frame

protected theorem Keeps.setOwner {line c} (h : Keeps s0 s) : Keeps s0 (setOwner s line c) := h.frame

protected theorem Keeps.downgradeLine {line} (h : Keeps s0 s) : Keeps s0 (downgradeLine s line) := by
  unfold downgradeLine
  dsimp only
  exact h.cleanLine.frame

protected theorem Keeps.uncachedReads {line} (h : Keeps s0 s) : Keeps s0 (uncachedReads s line) := by
  unfold uncachedReads
  dsimp only
  split
  · exact h.downgradeLine.setDir
  · exact h.cleanLine

protected theorem Keeps.homeRead {pa} (h : Keeps s0 s) : Keeps s0 (homeRead s pa).2 := by
  unfold homeRead
  dsimp only
  exact h.uncachedReads

protected theorem Keeps.homeCas {pa cmp new} (h : Keeps s0 s) : Keeps s0 (homeCas s pa cmp new).2 := by
  unfold homeCas
  dsimp only
  split
  · exact h.homeWrite.pair_snd
  · exact h.flushLine.pair_snd

protected theorem Keeps.wakeDie {d} (h : Keeps s0 s) : Keeps s0 (wakeDie s d) := by
  unfold wakeDie
  dsimp only
  exact Keeps.ite h.frame h

protected theorem Keeps.clusterBack {cl} (h : Keeps s0 s) : Keeps s0 (clusterBack s cl) := by
  unfold clusterBack
  dsimp only
  exact Keeps.ite h.modCluster.wakeDie h

protected theorem Keeps.stackBack {st} (h : Keeps s0 s) : Keeps s0 (stackBack s st) := by
  unfold stackBack
  dsimp only
  exact h.frame.wakeDie

protected theorem Keeps.wakeLine {line} (h : Keeps s0 s) : Keeps s0 (wakeLine s line) := by
  unfold wakeLine
  dsimp only
  exact Keeps.ite (Keeps.ite h.clusterBack h) ((Keeps.ite h.clusterBack h).stackBack)

protected theorem Keeps.writeEvict {core} (h : Keeps s0 s) : Keeps s0 (writeEvict s core) := by
  unfold writeEvict
  dsimp only
  split
  · exact h.setCore
  · exact Keeps.ite h.setCore.modCluster h.setCore.writeWords

protected theorem Keeps.trimEvict {core n} (h : Keeps s0 s) : Keeps s0 (trimEvict core n s) := by
  induction n generalizing s with
  | zero => exact h
  | succ n ih => exact Keeps.ite h (ih h.writeEvict)

protected theorem Keeps.installL1 {core line data dirty stream} (h : Keeps s0 s) : Keeps s0 (installL1 s core line data dirty stream) := by
  unfold installL1
  dsimp only
  split
  · exact h.setCore
  · split
    · exact h
    · exact h.setCore.modCluster.trimEvict

protected theorem Keeps.touchL1 {core line} (h : Keeps s0 s) : Keeps s0 (touchL1 s core line) := by
  unfold touchL1
  dsimp only
  split
  · exact h.setCore
  · exact h

protected theorem Keeps.reinstallEvicted {core line} (h : Keeps s0 s) : Keeps s0 (reinstallEvicted s core line) := by
  unfold reinstallEvicted
  dsimp only
  split
  · exact h
  · exact h.setCore.installL1.touchL1.modCluster

protected theorem Keeps.serveEvicted {core line} (h : Keeps s0 s) : Keeps s0 (serveEvicted s core line) := Keeps.ite h h.reinstallEvicted

protected theorem Keeps.hitL1 {core line} (h : Keeps s0 s) : Keeps s0 (hitL1 s core line) := Keeps.ite h.touchL1 h.reinstallEvicted

protected theorem Keeps.backInvalidate {c line} (h : Keeps s0 s) : Keeps s0 (backInvalidate s c line) := by
  unfold backInvalidate
  dsimp only
  exact h.frame.modCluster

protected theorem Keeps.evictL2 {c i} (h : Keeps s0 s) : Keeps s0 (evictL2 s c i) := by
  unfold evictL2
  dsimp only
  split
  · exact h
  · exact Keeps.foldl (fun _ _ hs => hs.backInvalidate.modCluster) h

protected theorem Keeps.installL2 {c line data st stream} (h : Keeps s0 s) : Keeps s0 (installL2 s c line data st stream) := by
  unfold installL2
  dsimp only
  split
  · exact h.setCluster
  · split
    · exact h
    · exact (Keeps.ite h.modCluster h.modCluster.evictL2).modCluster

protected theorem Keeps.touchL2 {c line} (h : Keeps s0 s) : Keeps s0 (touchL2 s c line) := by
  unfold touchL2
  dsimp only
  split
  · exact h.setCluster
  · exact h

protected theorem Keeps.writeHeld {core a w} (h : Keeps s0 s) : Keeps s0 (writeHeld s core a w) := by
  unfold writeHeld
  dsimp only
  split
  · exact h
  · split
    · split
      · exact h.hitL1.setCore
      · exact h.homeWrite
    · exact h.homeWrite

/-! ### Queues -/

protected theorem Keeps.setQ {q x} (h : Keeps s0 s) : Keeps s0 (setQ s q x) := h.frame

protected theorem Keeps.modQ {q f} (h : Keeps s0 s) : Keeps s0 (modQ s q f) := h.setQ

protected theorem Keeps.ringQueue {q} (h : Keeps s0 s) : Keeps s0 (ringQueue s q) := by
  unfold ringQueue
  dsimp only
  exact h.ringDoorbell

protected theorem Keeps.signalMsix {fn v} (h : Keeps s0 s) : Keeps s0 (signalMsix s fn v) := by
  unfold signalMsix
  dsimp only
  exact Keeps.ite (Keeps.ite h h.frame) h.frame

protected theorem Keeps.queueVector {q} (h : Keeps s0 s) : Keeps s0 (queueVector s q) := by
  unfold queueVector
  dsimp only
  exact Keeps.ite h.drawWord.drawWord.report (Keeps.ite h.holdOut h.signalMsix)

protected theorem Keeps.markHigh {q} (h : Keeps s0 s) : Keeps s0 (markHigh s q) := by
  unfold markHigh
  dsimp only
  exact Keeps.ite (Keeps.ite h.setQ.ringQueue.queueVector h.setQ.ringQueue) h

protected theorem Keeps.markLow {q} (h : Keeps s0 s) : Keeps s0 (markLow s q) := by
  unfold markLow
  dsimp only
  exact Keeps.ite (Keeps.ite h.setQ.ringQueue.queueVector h.setQ.ringQueue) h

protected theorem Keeps.ringPut {x a w} (h : Keeps s0 s) : Keeps s0 (ringPut s x a w) := Keeps.ite h.homeWrite h

protected theorem Keeps.ringWrite {q m} (h : Keeps s0 s) : Keeps s0 (ringWrite s q m) := by
  unfold ringWrite
  dsimp only
  exact (Keeps.foldl (fun _ _ hs => hs.ringPut) h).ringPut.modQ.markHigh

protected theorem Keeps.returnCredit {flow} (h : Keeps s0 s) : Keeps s0 (returnCredit s flow) := by
  unfold returnCredit
  dsimp only
  exact h.frame

protected theorem Keeps.sendAck {part dev sun w} (h : Keeps s0 s) : Keeps s0 (sendAck s part dev sun w) := by
  unfold sendAck
  split
  · exact h.sendFlit
  · exact h.sendFlit

protected theorem Keeps.returnSlot {q a} (h : Keeps s0 s) : Keeps s0 (returnSlot s q a) := by
  unfold returnSlot
  dsimp only
  split
  · exact h
  · split
    · split
      · exact h.returnCredit
      · exact h
    · split
      · exact h.sendAck
      · exact h

protected theorem Keeps.ringHealed {pa old new} (h : Keeps s0 s) : Keeps s0 (ringHealed s pa old new) := by
  unfold ringHealed
  dsimp only
  exact Keeps.ite h h.frame

protected theorem Keeps.dequeue {q} (h : Keeps s0 s) : Keeps s0 (dequeue s q) := by
  unfold dequeue
  dsimp only
  exact h.frame.modQ.returnSlot.markLow

protected theorem Keeps.setResult {c op r} (h : Keeps s0 s) : Keeps s0 (setResult s c op r) := h.modCtx

protected theorem Keeps.waiterDisabled {w} (h : Keeps s0 s) : Keeps s0 (waiterDisabled s w) := h.setResult

protected theorem Keeps.countLost {p rule qid} (h : Keeps s0 s) : Keeps s0 (countLost s p rule qid) := by
  unfold countLost
  dsimp only
  exact h.modPart.ringDoorbell.report

protected theorem Keeps.assignWaiter {q} (h : Keeps s0 s) : Keeps s0 (assignWaiter s q) := by
  unfold assignWaiter
  dsimp only
  split
  · exact h
  · exact Keeps.ite h h.setQ.dequeue.setResult

protected theorem Keeps.arrivalEffect {q} (h : Keeps s0 s) : Keeps s0 (arrivalEffect s q) := by
  unfold arrivalEffect
  dsimp only
  split
  · exact h.assignWaiter
  · split
    · exact Keeps.ite h.modCtx h
    · exact h.ringQueue
    · exact h.queueVector
    · exact h

protected theorem Keeps.acceptMsg {m} (h : Keeps s0 s) : Keeps s0 (acceptMsg s m) := by
  unfold acceptMsg
  dsimp only
  exact h.ringWrite.arrivalEffect

protected theorem Keeps.bounce {m status} (h : Keeps s0 s) : Keeps s0 (bounce s m status) := by
  unfold bounce
  dsimp only
  exact h.frame

protected theorem Keeps.dropWaiters {q} (h : Keeps s0 s) : Keeps s0 (dropWaiters s q) := by
  unfold dropWaiters
  dsimp only
  exact Keeps.foldl (fun _ _ h => h.waiterDisabled) h.setQ

protected theorem Keeps.removeWaiter {c} (h : Keeps s0 s) : Keeps s0 (removeWaiter s c) := by
  unfold removeWaiter
  dsimp only
  exact h.frame

protected theorem Keeps.flushQ {q} (h : Keeps s0 s) : Keeps s0 (flushQ s q) := by
  unfold flushQ
  dsimp only
  exact (Keeps.foldl (fun _ _ hs => hs.returnSlot) h).modQ.markLow

protected theorem Keeps.qcmd {q cmd} (h : Keeps s0 s) : Keeps s0 (qcmd s q cmd) := by
  unfold qcmd
  split
  · exact h.modQ
  · exact h.modQ.dropWaiters
  · exact h.modQ.flushQ
  · exact h

/-! ### Translate -/

protected theorem Keeps.walkPage {part asid root req} (h : Keeps s0 s) : Keeps s0 (walkPage s part asid root req).1 := by
  unfold walkPage
  dsimp only
  split
  · exact h
  · split
    · exact h
    · exact (Keeps.ite h h.homeCas).pair

protected theorem Keeps.setUnitTlb {u t l} (h : Keeps s0 s) : Keeps s0 (setUnitTlb s u t l) := by
  unfold setUnitTlb
  split
  · exact h.modCore
  · exact h.modEngine
  · exact h.modCluster

protected theorem Keeps.unitWalk {u part asid root again req} (h : Keeps s0 s) : Keeps s0 (unitWalk s u part asid root again req).1 := by
  unfold unitWalk
  dsimp only
  split
  · refine Keeps.setUnitTlb ?_
    split
    · exact h.walkPage.modCore
    · exact h.walkPage
  · refine Keeps.setUnitTlb ?_
    split
    · exact h.walkPage.modCore
    · exact h.walkPage

protected theorem Keeps.unitXlate {u part asid root req} (h : Keeps s0 s) : Keeps s0 (unitXlate s u part asid root req).1 := by
  unfold unitXlate
  dsimp only
  split
  · split
    · rename_i he
      split
      · exact (h.unitWalk.of_fst he).pair
      · exact (h.unitWalk.of_fst he).pair
    · exact h.unitWalk
  · split
    · split
      · rename_i he
        split
        · exact (h.unitWalk.of_fst he).pair
        · exact (h.unitWalk.of_fst he).pair
      · exact h.unitWalk
    · split
      · exact h
      · split
        · split
          · rename_i he
            split
            · exact (h.unitWalk.of_fst he).pair
            · exact (h.unitWalk.of_fst he).pair
          · exact h.unitWalk
        · split
          · exact h
          · exact h

protected theorem Keeps.walkInstall {c req} (h : Keeps s0 s) : Keeps s0 (walkInstall s c req).1 := by
  unfold walkInstall
  dsimp only
  exact h.unitWalk

protected theorem Keeps.walkNow {c req} (h : Keeps s0 s) : Keeps s0 (walkNow s c req) := by
  unfold walkNow
  dsimp only
  exact h.setCore.setCtx

protected theorem Keeps.walkBegin {c req} (h : Keeps s0 s) : Keeps s0 (walkBegin s c req) := by
  unfold walkBegin
  dsimp only
  exact Keeps.ite h.walkNow h

protected theorem Keeps.walkFor {c req} (h : Keeps s0 s) : Keeps s0 (walkFor s c req).1 := by
  unfold walkFor
  dsimp only
  split
  · exact h.modCore.walkNow
  · exact h.unitWalk.modCtx.pair

/-! ### Barrier -/

protected theorem Keeps.agXlate {g req} (h : Keeps s0 s) : Keeps s0 (agXlate s g req).1 := by
  unfold agXlate
  split
  · rename_i he
    split
    · exact (h.unitXlate.of_fst he).pair
    · exact (h.unitXlate.of_fst he).wakeLine.pair
  · rename_i he
    exact (h.unitXlate.of_fst he).pair

protected theorem Keeps.agRead {g va} (h : Keeps s0 s) : Keeps s0 (agRead s g va).1 := by
  unfold agRead
  split
  · rename_i he
    exact (h.agXlate.of_fst he).pair
  · rename_i he
    exact (h.agXlate.of_fst he).pair

protected theorem Keeps.agWrite {g va w} (h : Keeps s0 s) : Keeps s0 (agWrite s g va w).1 := by
  unfold agWrite
  split
  · rename_i he
    exact (h.agXlate.of_fst he).homeWrite.pair
  · rename_i he
    exact (h.agXlate.of_fst he).pair

protected theorem Keeps.agLook {g va} (h : Keeps s0 s) : Keeps s0 (agLook s g va).1 := by
  unfold agLook
  split
  · rename_i he
    exact (h.agRead.of_fst he).pair
  · rename_i he
    exact (h.agRead.of_fst he).pair

protected theorem Keeps.farTarget {g w} (h : Keeps s0 s) : Keeps s0 (farTarget s g w).1 := by
  unfold farTarget
  split
  · exact h
  · split
    · rename_i he
      exact (h.unitXlate.of_fst he).pair
    · rename_i he
      exact (h.unitXlate.of_fst he).pair

protected theorem Keeps.readRegion {g r} (h : Keeps s0 s) : Keeps s0 (readRegion s g r).1 := by
  unfold readRegion
  dsimp only
  split
  · rename_i he
    exact (h.agRead.of_fst he).pair
  · rename_i he
    split
    · exact (h.agRead.of_fst he).pair
    · split
      · exact (h.agRead.of_fst he).pair
      · exact (h.agRead.of_fst he).pair

protected theorem Keeps.regionEntry {g r} (h : Keeps s0 s) : Keeps s0 (regionEntry s g r).1 := by
  unfold regionEntry
  split
  · rename_i he
    exact (h.readRegion.of_fst he).pair
  · rename_i he
    exact (h.readRegion.of_fst he).pair

protected theorem Keeps.writeRegion {g r st gen live} (h : Keeps s0 s) : Keeps s0 (writeRegion s g r st gen live) := h.agWrite

protected theorem Keeps.setRegion {g r st gen} (h : Keeps s0 s) : Keeps s0 (setRegion s g r st gen) := by
  unfold setRegion
  split
  · rename_i he
    exact (h.regionEntry.of_fst he).writeRegion
  · rename_i he
    exact (h.regionEntry.of_fst he).writeRegion

protected theorem Keeps.markCode {g a} (h : Keeps s0 s) : Keeps s0 (markCode s g a).1 := by
  unfold markCode
  dsimp only
  exact h.agLook

protected theorem Keeps.setMark {g a code} (h : Keeps s0 s) : Keeps s0 (setMark s g a code) := by
  unfold setMark
  dsimp only
  exact h.agLook.agWrite

protected theorem Keeps.isMarked {g w} (h : Keeps s0 s) : Keeps s0 (isMarked s g w).1 := by
  unfold isMarked
  dsimp only
  exact h.markCode.agLook

protected theorem Keeps.markTarget {g w} (h : Keeps s0 s) : Keeps s0 (markTarget s g w) := by
  unfold markTarget
  dsimp only
  split
  · exact h.markCode.agLook
  · split
    · exact h.markCode.agLook.setMark
    · refine Keeps.modPart ?_
      split
      · exact Keeps.ite h.markCode.agLook.setMark.agWrite h.markCode.agLook.setMark
      · split
        · exact h.markCode.agLook.setMark
        · exact h.markCode.agLook.setMark
        · exact h.markCode.agLook.setMark.setMark

protected theorem Keeps.cardOr {pa gen} (h : Keeps s0 s) : Keeps s0 (cardOr s pa gen) := by
  unfold cardOr
  dsimp only
  exact h.homeWrite

protected theorem Keeps.releaseAll {p} (h : Keeps s0 s) : Keeps s0 (releaseAll s p) := Keeps.foldl (fun _ _ hs => hs.modCtx) h

protected theorem Keeps.dropJobs {p} (h : Keeps s0 s) : Keeps s0 (dropJobs s p) := by
  unfold dropJobs
  dsimp only
  exact h.frame

protected theorem Keeps.abortCycle {p status} (h : Keeps s0 s) : Keeps s0 (abortCycle s p status) := by
  unfold abortCycle
  dsimp only
  exact h.dropJobs.releaseAll.modPart.ringDoorbell

protected theorem Keeps.overflowLog {core part ws} (h : Keeps s0 s) : Keeps s0 (overflowLog s core part ws) := by
  induction ws generalizing s with
  | nil => exact h
  | cons e ws ih =>
    unfold overflowLog
    dsimp only
    split
    · exact Keeps.ite h.report.abortCycle h.report.modPart.ringDoorbell
    · split
      · rename_i he
        exact ih (h.agWrite.of_fst he).modPart
      · rename_i he
        exact Keeps.ite (h.agWrite.of_fst he).report.abortCycle (h.agWrite.of_fst he).report.modPart.ringDoorbell

protected theorem Keeps.sendLog {core part ws} (h : Keeps s0 s) : Keeps s0 (sendLog s core part ws) := Keeps.ite h h.sendHw

protected theorem Keeps.logWord {core part ctx w} (h : Keeps s0 s) : Keeps s0 (logWord s core part ctx w) := by
  unfold logWord
  dsimp only
  exact Keeps.ite h.setCore h.setCore.sendLog

protected theorem Keeps.flushLog {core part} (h : Keeps s0 s) : Keeps s0 (flushLog s core part) := by
  unfold flushLog
  dsimp only
  exact h.setCore.sendLog

protected theorem Keeps.flushLogs {part} (h : Keeps s0 s) : Keeps s0 (flushLogs s part) := Keeps.foldl (fun _ _ hs => hs.flushLog) h

protected theorem Keeps.settleFlush {part} (h : Keeps s0 s) : Keeps s0 (settleFlush s part) := Keeps.ite h.modPart h

protected theorem Keeps.storeMarks {m old} (h : Keeps s0 s) : Keeps s0 (storeMarks s m old) := by
  unfold storeMarks
  dsimp only
  split
  · exact (Keeps.ite h.logWord h).cardOr
  · exact Keeps.ite h.logWord h

protected theorem Keeps.takeRegion {g gen n} (h : Keeps s0 s) : Keeps s0 (takeRegion s g gen n).1 := by
  induction n generalizing s with
  | zero => exact h
  | succ n ih =>
    unfold takeRegion
    dsimp only
    split
    · exact h
    · split
      · refine Keeps.writeRegion ?_
        split
        · exact h.dequeue.regionEntry
        · exact h.dequeue
      · refine ih (Keeps.report ?_)
        split
        · exact h.dequeue.regionEntry
        · exact h.dequeue

protected theorem Keeps.toSpace {g gen size k} (h : Keeps s0 s) : Keeps s0 (toSpace s g gen size k).1 := by
  have use {t : State} {a} (ht : Keeps s0 t) : Keeps s0 (if alignUp a k = a then t else (agWrite t g a ⟨tagFILLH, BitVec.ofNat 64 (alignUp a k - a - 1)⟩).1) :=
    Keeps.ite ht ht.agWrite
  unfold toSpace
  dsimp only
  split
  · split
    · rename_i he
      exact (use (h.takeRegion.of_fst he)).modCluster.pair
    · rename_i he
      exact h.takeRegion.of_fst he
  · split
    · exact (use h).modCluster.pair
    · split
      · rename_i he
        exact (use (h.setRegion.modCluster.takeRegion.of_fst he)).modCluster.pair
      · rename_i he
        exact h.setRegion.modCluster.takeRegion.of_fst he

protected theorem Keeps.copyWords {g src dst n} (h : Keeps s0 s) : Keeps s0 (copyWords s g src dst n) := by
  induction n generalizing s src dst with
  | zero => exact h
  | succ n ih => exact ih h.agLook.agWrite

protected theorem Keeps.promoteCards {g dst size gen} (h : Keeps s0 s) : Keeps s0 (promoteCards s g dst size gen) := by
  unfold promoteCards
  dsimp only
  refine Keeps.foldl (fun _ _ hs => ?_) h
  split
  · split
    · rename_i he2
      exact (hs.agLook.agXlate.of_fst he2).cardOr
    · rename_i he2
      exact (hs.agLook.agXlate.of_fst he2)
  · exact hs.agLook

protected theorem Keeps.installForward {g w first dst size gen} (h : Keeps s0 s) : Keeps s0 (installForward s g w first dst size gen).1 := by
  unfold installForward
  dsimp only
  split
  · rename_i he
    exact ((Keeps.ite h.agWrite h).agXlate.of_fst he).pair
  · rename_i he
    split
    · exact (Keeps.ite (((Keeps.ite h.agWrite h).agXlate.of_fst he).homeCas.promoteCards) (((Keeps.ite h.agWrite h).agXlate.of_fst he).homeCas)).pair
    · split
      · exact ((Keeps.ite h.agWrite h).agXlate.of_fst he).homeCas.agWrite.pair
      · exact ((Keeps.ite h.agWrite h).agXlate.of_fst he).homeCas.agWrite.pair

protected theorem Keeps.askEngine {cl j} (h : Keeps s0 s) : Keeps s0 (askEngine s cl j) := h.queueRoutine

protected theorem Keeps.pinRegion {g r gen} (h : Keeps s0 s) : Keeps s0 (pinRegion s g r gen) := by
  unfold pinRegion
  dsimp only
  exact h.setRegion.modPart

protected theorem Keeps.evacuate {g w srcGen} (h : Keeps s0 s) : Keeps s0 (evacuate s g w srcGen).1 := by
  unfold evacuate
  dsimp only
  split
  · exact h.agLook.pinRegion.pair
  · split
    · exact h.agLook.pair
    · split
      · rename_i he
        split
        · exact (h.agLook.toSpace.of_fst he).pair
        · exact (h.agLook.toSpace.of_fst he).modPart.ringDoorbell.pair
      · rename_i he
        split
        · exact (h.agLook.toSpace.of_fst he).askEngine.pair
        · exact (h.agLook.toSpace.of_fst he).copyWords.installForward

protected theorem Keeps.finishResolve {g w slot weak} (h : Keeps s0 s) : Keeps s0 (finishResolve s g w slot weak).1 := by
  unfold finishResolve
  dsimp only
  split
  · exact h
  · split
    · exact h
    · split
      · split
        · rename_i he
          exact (h.readRegion.of_fst he).pair
        · rename_i he
          exact (Keeps.ite ((h.readRegion.of_fst he).markTarget) ((h.readRegion.of_fst he))).pair
        · rename_i he
          exact (Keeps.ite ((h.readRegion.of_fst he).markTarget) ((h.readRegion.of_fst he))).pair
      · split
        · split
          · rename_i he
            exact (h.isMarked.of_fst he).pair
          · rename_i he
            exact (h.isMarked.of_fst he).pair
        · exact h

protected theorem Keeps.resolve {g w slot weak} (h : Keeps s0 s) : Keeps s0 (resolve s g w slot weak).1 := by
  unfold resolve
  dsimp only
  split
  · exact h
  · split
    · rename_i he
      exact (h.readRegion.of_fst he).pair
    · rename_i he
      split
      · split
        · exact (h.readRegion.of_fst he).pair
        · split
          · rename_i he2
            exact ((h.readRegion.of_fst he).agRead.of_fst he2).pair
          · rename_i he2
            split
            · split
              · rename_i he3
                exact (((h.readRegion.of_fst he).agRead.of_fst he2).agRead.of_fst he3).pair
              · rename_i he3
                split
                · exact (((h.readRegion.of_fst he).agRead.of_fst he2).agRead.of_fst he3).pair
                · exact (((h.readRegion.of_fst he).agRead.of_fst he2).agRead.of_fst he3).finishResolve
            · split
              · exact ((h.readRegion.of_fst he).agRead.of_fst he2).pair
              · split
                · split
                  · rename_i he3
                    exact (((h.readRegion.of_fst he).agRead.of_fst he2).evacuate.of_fst he3).finishResolve
                  · exact ((h.readRegion.of_fst he).agRead.of_fst he2).evacuate
                · exact ((h.readRegion.of_fst he).agRead.of_fst he2).finishResolve
      · split
        · exact (h.readRegion.of_fst he).pair
        · split
          · rename_i he2
            exact ((h.readRegion.of_fst he).agRead.of_fst he2).pair
          · rename_i he2
            split
            · split
              · rename_i he3
                exact (((h.readRegion.of_fst he).agRead.of_fst he2).agRead.of_fst he3).pair
              · rename_i he3
                split
                · exact (((h.readRegion.of_fst he).agRead.of_fst he2).agRead.of_fst he3).pair
                · exact (((h.readRegion.of_fst he).agRead.of_fst he2).agRead.of_fst he3).finishResolve
            · split
              · exact ((h.readRegion.of_fst he).agRead.of_fst he2).pair
              · split
                · split
                  · rename_i he3
                    exact (((h.readRegion.of_fst he).agRead.of_fst he2).evacuate.of_fst he3).finishResolve
                  · exact ((h.readRegion.of_fst he).agRead.of_fst he2).evacuate
                · exact ((h.readRegion.of_fst he).agRead.of_fst he2).finishResolve

protected theorem Keeps.healAt {c slot pa old new} (h : Keeps s0 s) : Keeps s0 (healAt s c slot pa old new) := by
  unfold healAt
  dsimp only
  exact Keeps.ite h.homeWrite.ringHealed (Keeps.ite h h.report)

protected theorem Keeps.heal {g c slot old new} (h : Keeps s0 s) : Keeps s0 (heal s g c slot old new) := by
  unfold heal
  split
  · exact h
  · split
    · exact Keeps.ite h.report h.healAt
    · exact h.report

/-! ### Entry -/

protected theorem Keeps.lostFails {c x} (h : Keeps s0 s) : Keeps s0 (lostFails s c x) := by
  unfold lostFails
  refine Keeps.foldl (fun _ _ hs => ?_) h
  split
  · exact Keeps.ite hs hs.report
  · exact hs

protected theorem Keeps.suspendRoutine {c} (h : Keeps s0 s) : Keeps s0 (suspendRoutine s c) := by
  unfold suspendRoutine
  dsimp only
  split
  · exact Keeps.ite h.setCtx h
  · exact h

protected theorem Keeps.suspendAtEntry {c} (h : Keeps s0 s) : Keeps s0 (suspendAtEntry s c) := by
  unfold suspendAtEntry
  dsimp only
  split
  · exact h.setCtx
  · exact h.suspendRoutine

protected theorem Keeps.haltEntry {c e reason tcause} (h : Keeps s0 s) : Keeps s0 (haltEntry s c e reason tcause) := by
  unfold haltEntry
  dsimp only
  exact h.lostFails.setCtx.suspendRoutine.report.ringDoorbell

protected theorem Keeps.pushFrame {c base ws pas} (h : Keeps s0 s) : Keeps s0 (pushFrame s c base ws pas) := Keeps.foldl (fun _ _ hs => hs.pushStore) h

protected theorem Keeps.takeEntry {c e} (h : Keeps s0 s) : Keeps s0 (takeEntry s c e) := by
  unfold takeEntry
  dsimp only
  split
  · exact h.setCtx.walkBegin
  · exact h
  · exact h.haltEntry
  · exact h.pushFrame.suspendAtEntry.modCtx

protected theorem Keeps.faultEntry {c f} (h : Keeps s0 s) : Keeps s0 (faultEntry s c f) := by
  unfold faultEntry
  dsimp only
  exact h.takeEntry

protected theorem Keeps.interruptEntry {c} (h : Keeps s0 s) : Keeps s0 (interruptEntry s c) := by
  unfold interruptEntry
  dsimp only
  exact h.takeEntry

/-! ### Units -/

protected theorem Keeps.deliver {t unit lat ivl ds} (h : Keeps s0 s) : Keeps s0 (deliver t unit lat ivl ds s) := h.modCtx

protected theorem Keeps.startOp {t unit lat kind dsts pend} (h : Keeps s0 s) : Keeps s0 (startOp t unit lat kind dsts pend s) := by
  unfold startOp
  dsimp only
  exact h.freshOp.modCtx

protected theorem Keeps.startCas {t kind dst} (h : Keeps s0 s) : Keeps s0 (startCas t kind dst s) := by
  unfold startCas
  dsimp only
  exact h.startOp.frame

protected theorem Keeps.yieldAt {c at'} (h : Keeps s0 s) : Keeps s0 (yieldAt s c at') := by
  unfold yieldAt
  dsimp only
  split
  · exact Keeps.ite h.drawBool.setCtx (Keeps.ite h.drawBool.setCtx.modCore h.drawBool.setCtx.setCore.modCluster)
  · exact h

protected theorem Keeps.yieldPrefetch {c} (h : Keeps s0 s) : Keeps s0 (yieldPrefetch s c) := by
  unfold yieldPrefetch
  split
  · exact h.yieldAt
  · exact h

protected theorem Keeps.askFill {c line va why} (h : Keeps s0 s) : Keeps s0 (askFill s c line va why) := by
  unfold askFill
  dsimp only
  exact h.modCore

protected theorem Keeps.askShared {c line va} (h : Keeps s0 s) : ∀ t, askShared s c line va = some t → Keeps s0 t := by
  intro t ht
  unfold askShared at ht
  dsimp only at ht
  split at ht
  · cases ht
    exact h.askFill
  · split at ht
    · cases ht
    · cases ht
      exact Keeps.ite h.modCore.modCluster h.modCore

protected theorem Keeps.askHome {r} (h : Keeps s0 s) : Keeps s0 (askHome s r) := h.frame

protected theorem Keeps.sendRemote {op part cl ctx who va pa port colour ws keep} (h : Keeps s0 s) :
    Keeps s0 (sendRemote s op part cl ctx who va pa port colour ws keep) := by
  unfold sendRemote
  dsimp only
  exact h.frame.sendFlit

protected theorem Keeps.askRemote {op ctx who va pa port colour ws} (h : Keeps s0 s) : Keeps s0 (askRemote s op ctx who va pa port colour ws) := h.sendRemote

protected theorem Keeps.healSlot {g c slot old new} (h : Keeps s0 s) : Keeps s0 (healSlot s g c slot old new) := by
  unfold healSlot
  dsimp only
  split
  · exact h
  · split
    · exact h.report
    · split
      · split
        · exact h.sendRemote
        · exact h.report
      · exact h.heal

protected theorem Keeps.startRoutine {t unit lat num dst gaop two a b c} (h : Keeps s0 s) : Keeps s0 (startRoutine t unit lat num dst gaop two a b c s) := by
  unfold startRoutine
  dsimp only
  exact h.startOp.modCtx.queueRoutine

protected theorem Keeps.cancelGaRequest {t} (h : Keeps s0 s) : Keeps s0 (cancelGaRequest t s) := Keeps.ite h.modCtx.modCluster h

protected theorem Keeps.casNow {c a cmp new card w h'} (h : Keeps s0 s) : Keeps s0 (casNow s c a cmp new card w h') := by
  unfold casNow
  dsimp only
  exact Keeps.ite h.writeHeld.storeMarks (Keeps.ite h.hitL1 h.writeHeld)

protected theorem Keeps.commitAlloc {t direct plan ws} (h : Keeps s0 s) : Keeps s0 (commitAlloc t direct plan ws s) := by
  unfold commitAlloc
  dsimp only
  exact (Keeps.foldl (fun _ _ hs => hs.pushStore) h).modCtx.deliver

protected theorem Keeps.pushXfer {t target lat} (h : Keeps s0 s) : Keeps s0 (pushXfer t target lat s) := h.modCtx

/-! ### Contexts -/

protected theorem Keeps.dropRequests {c} (h : Keeps s0 s) : Keeps s0 (dropRequests s c) := by
  unfold dropRequests
  dsimp only
  exact h.frame

protected theorem Keeps.fillRange {c} (h : Keeps s0 s) : Keeps s0 (fillRange s c) := by
  unfold fillRange
  dsimp only
  split
  · exact h
  · exact h.agWrite.modCtx

protected theorem Keeps.contextReset {c} (h : Keeps s0 s) : Keeps s0 (contextReset s c) := by
  unfold contextReset
  dsimp only
  refine Keeps.setCtx ?_
  split
  · exact h.fillRange.dropRequests.removeWaiter.countLost
  · exact h.fillRange.dropRequests.removeWaiter

protected theorem Keeps.startContext {c} (h : Keeps s0 s) : Keeps s0 (startContext s c) := by
  unfold startContext
  dsimp only
  exact h.modPart.modCtx

protected theorem Keeps.reissueRoutine {c} (h : Keeps s0 s) : Keeps s0 (reissueRoutine s c) := by
  unfold reissueRoutine
  dsimp only
  exact Keeps.ite h (Keeps.ite h.setCtx (Keeps.ite h.setCtx h.setCtx.queueRoutine))

protected theorem Keeps.replaceWait {c} (h : Keeps s0 s) : Keeps s0 (replaceWait s c) := by
  unfold replaceWait
  dsimp only
  split
  · exact h
  · exact Keeps.ite h.setCtx (Keeps.ite h.setCtx h.setCtx)

protected theorem Keeps.settleSlot {c} (h : Keeps s0 s) : Keeps s0 (settleSlot s c) := by
  unfold settleSlot
  dsimp only
  exact Keeps.ite h (Keeps.ite h.reissueRoutine (Keeps.ite h.replaceWait h))

protected theorem Keeps.freeSlot {c} (h : Keeps s0 s) : Keeps s0 (freeSlot s c) := h.modCtx.settleSlot

protected theorem Keeps.touchPending {c regs} (h : Keeps s0 s) : Keeps s0 (touchPending s c regs) := by
  unfold touchPending
  dsimp only
  split
  · exact Keeps.ite ((Keeps.ite h.reissueRoutine h).replaceWait) (Keeps.ite h.reissueRoutine h)
  · exact Keeps.ite h.reissueRoutine h

protected theorem Keeps.onPark {c p} (h : Keeps s0 s) : Keeps s0 (onPark s c p) := by
  unfold onPark
  split
  · exact h.touchPending
  · exact h.touchPending
  · exact h.touchPending
  · exact h.replaceWait
  · exact h.reissueRoutine
  · exact .getD h.askShared h
  · exact Keeps.ite h h.frame.report
  · exact h

protected theorem Keeps.onEret {c priv} (h : Keeps s0 s) : Keeps s0 (onEret s c priv) := by
  unfold onEret
  dsimp only
  split
  · exact Keeps.ite ((Keeps.ite h.reissueRoutine h).replaceWait) (Keeps.ite h.reissueRoutine h)
  · exact Keeps.ite h.reissueRoutine h

/-! ### Collector -/

protected theorem Keeps.modColl {p f} (h : Keeps s0 s) : Keeps s0 (modColl s p f) := h.modPart

protected theorem Keeps.tellPeers {p kind vals} (h : Keeps s0 s) : Keeps s0 (tellPeers s p kind vals) := Keeps.foldl (fun _ _ hs => hs.sendCtrl) h

protected theorem Keeps.overRegions {g f} (h : Keeps s0 s) (hf : ∀ x0 x1 x2 x3 x4, Keeps s0 x0 → Keeps s0 (f x0 x1 x2 x3 x4)) : Keeps s0 (overRegions s g f) := by
  unfold overRegions
  refine Keeps.foldl (fun _ _ hs => ?_) h
  split
  · rename_i he2
    exact hf _ _ _ _ _ ((hs.regionEntry.of_fst he2))
  · rename_i he2
    exact (hs.regionEntry.of_fst he2)

protected theorem Keeps.evacRegionsTo {g next} (h : Keeps s0 s) (hnext : ∀ x0 x1, Keeps s0 x0 → Keeps s0 (next x0 x1).1) : Keeps s0 (evacRegionsTo s g next) := by
  unfold evacRegionsTo
  dsimp only
  exact h.overRegions (fun _ _ _ _ _ hs => Keeps.ite ((hnext _ _ hs).writeRegion) hs)

/-- The size of a region is a variable here: the kernel would count it down in unary. -/
protected theorem Keeps.liveObjects {g r} (h : Keeps s0 s) : Keeps s0 (liveObjects s g r).1 := by
  rw [liveObjects]
  generalize regionWords = size
  as_aux_lemma =>
    refine .foldl_fst (fun a u ha => ?_) h
    dsimp only
    split
    · rename_i he
      exact (ha.markCode.of_fst he).agLook.agLook
    · rename_i he
      exact ha.markCode.of_fst he
    · rename_i he
      split
      · exact (ha.markCode.of_fst he).markCode.markCode
      · exact (ha.markCode.of_fst he).markCode.markCode
    · rename_i he
      exact ha.markCode.of_fst he

/-- The definition is opened by itself: beside the objects of a region the kernel would evaluate their search. -/
protected theorem Keeps.evacuated {g r} (h : Keeps s0 s) : Keeps s0 (evacuated s g r).1 := by
  have key : ∀ f, f = evacuated → ∀ p, p = f s g r → Keeps s0 p.1 := by
    intro f hf p hp
    delta evacuated at hf
    subst hf
    beta_reduce at hp
    rcases hl : liveObjects s g r with ⟨s1, os⟩
    rw [hl] at hp
    rw [hp]
    exact .foldl_fst (fun a o ha => ha.agLook) (h.liveObjects.of_fst hl)
  exact key _ rfl _ rfl

protected theorem Keeps.endCopies {p g} (h : Keeps s0 s) : Keeps s0 (endCopies s p g) := by
  unfold endCopies
  dsimp only
  exact (Keeps.foldl (fun _ _ hs => hs.agWrite) h).dropJobs

/-- The check of a region's objects is a variable here, which the kernel does not evaluate. -/
protected theorem Keeps.collAbort {p} (h : Keeps s0 s) : Keeps s0 (collAbort s p) := by
  have hev {t g r} (ht : Keeps s0 t) : Keeps s0 (evacuated t g r).1 := ht.evacuated
  unfold collAbort
  generalize evacuated = ev at hev ⊢
  as_aux_lemma =>
    dsimp only
    exact Keeps.ite ((h.evacRegionsTo (fun _ _ hs => hs)).modPart.ringDoorbell)
      (Keeps.ite ((h.endCopies.evacRegionsTo (fun _ _ hs => (hev hs).pair)).modPart) h.abortCycle)

protected theorem Keeps.collCommand {p v} (h : Keeps s0 s) : Keeps s0 (collCommand s p v) := by
  unfold collCommand
  dsimp only
  split
  · exact h.modPart
  · split
    · exact h.modPart
    · exact h.modPart
    · exact (h.evacRegionsTo (fun _ _ hs => hs)).modPart
    · exact h.collAbort
    · exact h

protected theorem Keeps.colcmdWrite {p v} (h : Keeps s0 s) : Keeps s0 (colcmdWrite s p v) := by
  unfold colcmdWrite
  dsimp only
  exact Keeps.ite h.modPart (Keeps.ite h.collCommand.tellPeers h.collCommand)

protected theorem Keeps.barctlWrite {p v} (h : Keeps s0 s) : Keeps s0 (barctlWrite s p v) := by
  unfold barctlWrite
  dsimp only
  exact Keeps.ite h (Keeps.ite ((Keeps.foldl (fun _ _ hs => hs.modCtx) h.modPart).flushLogs.settleFlush) (Keeps.foldl (fun _ _ hs => hs.modCtx) h.modPart))

protected theorem Keeps.askResolve {g who w far port} (h : Keeps s0 s) : ∀ t, askResolve s g who w far port = some t → Keeps s0 t := by
  intro t ht
  unfold askResolve at ht
  split at ht
  · cases ht
    exact h.sendRemote
  · cases ht

protected theorem Keeps.shakeFar {g w far} (h : Keeps s0 s) : Keeps s0 (shakeFar s g w far).1 := by
  unfold shakeFar
  split
  · exact h
  · split
    · exact h
    · split
      · exact h
      · split
        · exact h
        · exact .getD h.askResolve h

protected theorem Keeps.shakeWord {g w} (h : Keeps s0 s) : Keeps s0 (shakeWord s g w).1 := by
  unfold shakeWord
  split
  · exact h
  · split
    · rename_i he
      exact (h.farTarget.of_fst he).shakeFar
    · rename_i he
      split
      · rename_i he2
        exact ((h.farTarget.of_fst he).resolve.of_fst he2).pair
      · rename_i he2
        exact ((h.farTarget.of_fst he).resolve.of_fst he2).pair
      · rename_i he2
        exact ((h.farTarget.of_fst he).resolve.of_fst he2).pair

protected theorem Keeps.shakeList {g ws} (h : Keeps s0 s) : Keeps s0 (shakeList s g ws).1 := by
  unfold shakeList
  exact .foldl_fst (fun a w ha => ha.shakeWord) h

protected theorem Keeps.shakeTab {g t} (h : Keeps s0 s) : Keeps s0 (shakeTab s g t).1 := by
  unfold shakeTab
  dsimp only
  exact h.shakeList

protected theorem Keeps.shakeCtx {p c goodc} (h : Keeps s0 s) : Keeps s0 (shakeCtx s p c goodc).1 := by
  unfold shakeCtx
  dsimp only
  refine Keeps.modCtx ?_
  split
  · exact h.modCtx.shakeTab.shakeTab.shakeTab.shakeList.shakeList
  · exact h.modCtx.shakeTab.shakeTab.shakeTab.shakeList.pair

protected theorem Keeps.beginShake {p} (h : Keeps s0 s) : Keeps s0 (beginShake s p) := by
  unfold beginShake
  dsimp only
  exact (Keeps.foldl (fun _ _ hs => hs.modCtx) h).modColl

protected theorem Keeps.shakeRound {p} (h : Keeps s0 s) : Keeps s0 (shakeRound s p) := by
  unfold shakeRound
  refine Keeps.modColl (.foldl_fst (fun a c ha => ?_) h)
  split
  · rename_i he
    exact ha.shakeCtx.of_fst he
  · rename_i he
    exact (ha.shakeCtx.of_fst he).modCtx.pair

protected theorem Keeps.healTraced {g phys slot old new} (h : Keeps s0 s) : Keeps s0 (healTraced s g phys slot old new) := Keeps.ite h (Keeps.ite h.healAt h.healSlot)

protected theorem Keeps.traceFar {g phys slot w far} (h : Keeps s0 s) : Keeps s0 (traceFar s g phys slot w far).1 := by
  unfold traceFar
  dsimp only
  split
  · exact h
  · split
    · exact Keeps.ite h.sendHw h
    · split
      · rename_i he
        have hr := h.askResolve _ he
        exact Keeps.ite hr.sendHw hr
      · exact h

protected theorem Keeps.traceWord {g phys slot w weak} (h : Keeps s0 s) : Keeps s0 (traceWord s g phys slot w weak).1 := by
  unfold traceWord
  dsimp only
  split
  · exact h.report.pair
  · split
    · exact h
    · split
      · rename_i he
        exact (h.farTarget.of_fst he).traceFar
      · rename_i he
        split
        · rename_i he2
          exact ((h.farTarget.of_fst he).resolve.of_fst he2).pair
        · rename_i he2
          exact ((h.farTarget.of_fst he).resolve.of_fst he2).pair
        · rename_i he2
          have hres := (h.farTarget.of_fst he).resolve.of_fst he2
          split
          · split
            · split
              · split
                · exact hres.regionEntry.pair
                · exact (hres.regionEntry.when fun h => h.report).healTraced.pair
              · split
                · exact hres.regionEntry.pair
                · exact (hres.regionEntry.when fun h => h.report).healTraced.pair
            · split
              · exact hres.regionEntry.pair
              · exact (hres.regionEntry.when fun h => h.report).healTraced.pair
          · split
            · split
              · split
                · exact hres.pair.pair
                · exact (hres.pair.when fun h => h.report).healTraced.pair
              · split
                · exact hres.pair.pair
                · exact (hres.pair.when fun h => h.report).healTraced.pair
            · split
              · exact hres.pair.pair
              · exact (hres.pair.when fun h => h.report).healTraced.pair

protected theorem Keeps.traceFarSlot {g slot pa} (h : Keeps s0 s) : Keeps s0 (traceFarSlot s g slot pa).1 := by
  unfold traceFarSlot
  split
  · exact h
  · split
    · exact h.sendRemote.pair
    · exact h

protected theorem Keeps.traceSlot {g slot weak} (h : Keeps s0 s) : Keeps s0 (traceSlot s g slot weak).1 := by
  unfold traceSlot
  split
  · rename_i he
    exact (h.unitXlate.of_fst he).pair
  · rename_i he
    split
    · exact (h.unitXlate.of_fst he).traceFarSlot
    · split
      · rename_i he2
        exact ((h.unitXlate.of_fst he).agRead.of_fst he2).pair
      · rename_i he2
        exact ((h.unitXlate.of_fst he).agRead.of_fst he2).traceWord

protected theorem Keeps.traceRun {g base n} (h : Keeps s0 s) : Keeps s0 (traceRun s g base n).1 := by
  induction n generalizing s base with
  | zero => exact h
  | succ n ih =>
    unfold traceRun
    split
    · rename_i he
      exact ih (h.traceSlot.of_fst he)
    · rename_i he
      exact h.traceSlot.of_fst he

protected theorem Keeps.askScan {g base n} (h : Keeps s0 s) : Keeps s0 (askScan s g base n) := h.askEngine

protected theorem Keeps.traceRange {g base n} (h : Keeps s0 s) : Keeps s0 (traceRange s g base n).1 := by
  unfold traceRange
  split
  · rename_i he
    exact (h.traceRun.of_fst he).askScan.pair
  · rename_i he
    exact (h.traceRun.of_fst he).pair

protected theorem Keeps.traceBody {g base n} (h : Keeps s0 s) : Keeps s0 (traceBody s g base n).1 := by
  unfold traceBody
  split
  · exact h.askScan.pair
  · exact h.traceRange

protected theorem Keeps.scanObject {g w} (h : Keeps s0 s) : Keeps s0 (scanObject s g w).1 := by
  unfold scanObject
  dsimp only
  split
  · split
    · exact h
    · exact h.traceRange
  · split
    · exact h.agLook.pair
    · split
      · exact h.agLook.traceBody
      · exact (Keeps.ite h.agLook.report h.agLook).traceBody
      · exact (Keeps.ite h.agLook.sendHw h.agLook).traceBody
      · exact h.agLook.pair

protected theorem Keeps.endTrace {p} {r : State × TraceEnd} (h : Keeps s0 r.1) : Keeps s0 (endTrace p r) := by
  unfold endTrace
  split
  · exact h
  · exact h.modColl
  · exact h.abortCycle

protected theorem Keeps.traceWords {g pas} (h : Keeps s0 s) : Keeps s0 (traceWords s g pas).1 := by
  induction pas generalizing s with
  | nil => exact h
  | cons pa rest ih =>
    unfold traceWords
    split
    · rename_i he
      exact ih (h.traceWord.of_fst he)
    · exact h.traceWord

protected theorem Keeps.scanRoot {g p} (h : Keeps s0 s) : Keeps s0 (scanRoot s g p) := by
  unfold scanRoot
  extract_lets q va next
  have hnext {t} (ht : Keeps s0 t) : Keeps s0 (next t) := ht.modColl
  split
  · rename_i he
    have h1 := h.agRead.of_fst he
    split
    · exact h1.modColl
    · split
      · rename_i he2
        have h2 := h1.agRead.of_fst he2
        split
        · exact h2.abortCycle
        · split
          · exact Keeps.ite h2.abortCycle (hnext h2.traceRange).pair.endTrace
          · exact Keeps.ite h2.abortCycle (hnext h2.traceRange).pair.endTrace
          · refine Keeps.endTrace ?_
            split
            · exact (hnext h2.traceWords).pair
            · exact h2.traceWords
          · exact h2.abortCycle
      · rename_i he2
        exact (h1.agRead.of_fst he2).abortCycle
  · rename_i he
    exact (h.agRead.of_fst he).abortCycle

protected theorem Keeps.scanCard {g p} (h : Keeps s0 s) : Keeps s0 (scanCard s g p) := by
  unfold scanCard
  dsimp only
  split
  · exact h.modColl
  · split
    · rename_i he
      exact Keeps.ite ((h.regionEntry.of_fst he).agLook.modColl) ((h.regionEntry.of_fst he).agLook.agWrite.traceRange.modColl.pair.endTrace)
    · rename_i he
      exact (h.regionEntry.of_fst he).modColl

protected theorem Keeps.markLogged {g w} (h : Keeps s0 s) : Keeps s0 (markLogged s g w) := by
  unfold markLogged
  dsimp only
  split
  · exact h
  · split
    · rename_i he
      exact (h.regionEntry.of_fst he)
    · rename_i he
      exact (h.regionEntry.of_fst he).resolve

protected theorem Keeps.markWork {p cl} (h : Keeps s0 s) : Keeps s0 (markWork s p cl) := by
  unfold markWork
  dsimp only
  split
  · exact h
  · split
    · exact h.modColl.scanObject.endTrace
    · split
      · exact h.scanRoot
      · split
        · exact h.scanCard
        · split
          · exact Keeps.foldl (fun _ _ hs => hs.markLogged) h.dequeue
          · exact Keeps.ite h.agLook.modColl.markLogged h

protected theorem Keeps.writeLive {g} (h : Keeps s0 s) : Keeps s0 (writeLive s g) := by
  unfold writeLive
  refine h.overRegions fun t r st gen live hs => Keeps.ite ?_ hs.writeRegion
  split
  rename_i he
  exact (hs.liveObjects.of_fst he).writeRegion

protected theorem Keeps.noteAllocs {g} (h : Keeps s0 s) : Keeps s0 (noteAllocs s g) := h.overRegions (fun _ _ _ _ _ hs => Keeps.ite hs.modColl hs)

protected theorem Keeps.freeRegions {g} (h : Keeps s0 s) : Keeps s0 (freeRegions s g) := by
  unfold freeRegions
  dsimp only
  exact h.overRegions (fun _ _ _ _ _ hs => Keeps.ite hs.writeRegion hs)

protected theorem Keeps.dropAllocs {g} (h : Keeps s0 s) : Keeps s0 (dropAllocs s g) := by
  unfold dropAllocs
  dsimp only
  exact h.overRegions (fun _ _ _ _ _ hs => Keeps.ite hs.writeRegion hs)

protected theorem Keeps.badRegion {g} (h : Keeps s0 s) : Keeps s0 (badRegion s g).1 := by
  unfold badRegion
  exact .foldl_fst (fun a r ha => ha.regionEntry) h

protected theorem Keeps.clearBitmap {g} (h : Keeps s0 s) : Keeps s0 (clearBitmap s g) := by
  unfold clearBitmap
  dsimp only
  exact h.overRegions (fun _ _ _ _ _ hs => Keeps.ite (Keeps.foldl (fun _ _ hs => hs.agWrite) hs) hs)

protected theorem Keeps.doMarkStart {g p} (h : Keeps s0 s) : Keeps s0 (doMarkStart s g p) := by
  unfold doMarkStart
  dsimp only
  split
  · rename_i he
    exact (h.badRegion.of_fst he).abortCycle
  · rename_i he
    exact (h.badRegion.of_fst he).clearBitmap.modPart.beginShake

protected theorem Keeps.withdrawEnd {p} (h : Keeps s0 s) : Keeps s0 (withdrawEnd s p) := by
  unfold withdrawEnd
  dsimp only
  exact Keeps.ite h.modColl.tellPeers h

protected theorem Keeps.endPhase {p go} (h : Keeps s0 s) (hgo : ∀ x0, Keeps s0 x0 → Keeps s0 (go x0)) : Keeps s0 (endPhase s p go) := by
  unfold endPhase
  dsimp only
  exact Keeps.ite (hgo _ (Keeps.ite h h.modColl.tellPeers)) (Keeps.ite h h.modColl.tellPeers)

protected theorem Keeps.setPhase {ph p} (h : Keeps s0 s) : Keeps s0 (setPhase ph p s) := h.modPart

protected theorem Keeps.endMark {g p} (h : Keeps s0 s) : Keeps s0 (endMark s g p) := h.writeLive.noteAllocs.modPart

protected theorem Keeps.doMarkEnd {g p} (h : Keeps s0 s) : Keeps s0 (doMarkEnd s g p) := by
  unfold doMarkEnd
  dsimp only
  exact Keeps.ite h.flushLogs.beginShake.shakeRound (Keeps.ite h.shakeRound (Keeps.ite h.withdrawEnd
    (Keeps.ite h.flushLogs.beginShake.shakeRound (h.endPhase (fun _ hs => hs.endMark)))))

protected theorem Keeps.firstEvac {g} (h : Keeps s0 s) : Keeps s0 (firstEvac s g).1 := by
  unfold firstEvac
  refine .foldl_fst (fun a r ha => ?_) h
  split
  · exact ha
  · split
    · rename_i he
      exact ha.regionEntry.of_fst he
    · rename_i he
      exact ha.regionEntry.of_fst he

protected theorem Keeps.phaseAdvance {p} (h : Keeps s0 s) : Keeps s0 (phaseAdvance s p) := by
  unfold phaseAdvance
  dsimp only
  split
  · exact h
  · split
    · exact (h.either (fun h => h) fun h => h.doMarkStart).either (fun h => h) fun h =>
        h.shakeRound.when fun h => h.endPhase (fun _ hs => hs.modPart)
    · exact Keeps.ite (h.endPhase (fun _ hs => hs.modPart)) h
    · exact h.doMarkEnd
    · exact Keeps.ite h (h.endPhase (fun _ hs => hs.freeRegions.modPart.ringDoorbell))
    · exact (h.either (fun h => h) fun h => h.dropAllocs.modPart.beginShake).shakeRound.when fun h => h.endPhase (fun _ hs => hs.setPhase)
    · exact Keeps.ite h.firstEvac (h.firstEvac.endPhase (fun _ hs => hs.modPart.ringDoorbell))
    · exact h

protected theorem Keeps.weakVisit {p} (h : Keeps s0 s) : Keeps s0 (weakVisit s p) := by
  unfold weakVisit
  dsimp only
  split
  · split
    · exact h
    · split
      · exact h.dequeue
      · split
        · rename_i he
          exact h
        · rename_i he
          exact (h.dequeue.agLook.traceSlot.of_fst he)
  · exact h

protected theorem Keeps.nextLive {g r unit} (h : Keeps s0 s) : Keeps s0 (nextLive s g r unit).1 := by
  rcases hl : liveObjects s g r with ⟨s1, os⟩
  rw [nextLive, hl]
  exact h.liveObjects.of_fst hl

/-- The searches for a region and for its next object are variables here, which the kernel does not evaluate. -/
protected theorem Keeps.evacStep {p} (h : Keeps s0 s) : Keeps s0 (evacStep s p) := by
  have hfirst {t g} (ht : Keeps s0 t) : Keeps s0 (firstEvac t g).1 := ht.firstEvac
  have hlive {t g r unit} (ht : Keeps s0 t) : Keeps s0 (nextLive t g r unit).1 := ht.nextLive
  unfold evacStep
  generalize regionWords = size
  generalize firstEvac = first at hfirst ⊢
  generalize nextLive = live at hlive ⊢
  as_aux_lemma =>
    split
    · exact h
    · extract_lets g q
      split
      · exact h
      · split
        · rename_i he
          exact (hfirst h).of_fst he
        · rename_i he
          have h1 := (hfirst h).of_fst he
          extract_lets unit
          split
          · rename_i he2
            exact ((hlive h1).of_fst he2).setRegion.modColl
          · rename_i he2
            extract_lets past go
            have hgo {t} (ht : Keeps s0 t) : Keeps s0 (go t) := ht.modColl
            split
            rename_i he3
            have h3 := ((hlive h1).of_fst he2).agLook.of_fst he3
            refine Keeps.ite (hgo h3) (Keeps.ite h3.pinRegion.modColl (Keeps.ite (hgo h3) ?_))
            split
            · rename_i he4
              exact hgo (h3.evacuate.of_fst he4)
            · rename_i he4
              exact h3.evacuate.of_fst he4

protected theorem Keeps.portRound {cl range} (h : Keeps s0 s) : Keeps s0 (portRound s cl range) := h.modCluster

protected theorem Keeps.collRound {p run} (h : Keeps s0 s) (hrun : ∀ x0, Keeps s0 x0 → Keeps s0 (run x0)) : Keeps s0 (collRound s p run) := by
  unfold collRound
  split
  · exact h
  · exact Keeps.ite h (hrun _ h.portRound)

protected theorem Keeps.execCollectorMarkWork {part} (h : Keeps s0 s) : GoesOn s0 (execCollectorMarkWork part s) := by
  unfold execCollectorMarkWork
  dsimp only
  split
  · exact (Keeps.ite h.portRound.markWork h).next
  · exact h.next

/-! ### Control -/

protected theorem Keeps.crReadEffect {e n} (h : Keeps s0 s) : Keeps s0 (crReadEffect e n s) := by
  unfold crReadEffect
  dsimp only
  exact Keeps.ite h.modCtx h

protected theorem Keeps.modRegs {c f} (h : Keeps s0 s) : Keeps s0 (modRegs s c f) := h.modCtx

protected theorem Keeps.writeG {c r w} (h : Keeps s0 s) : Keeps s0 (writeG s c r w) := by
  unfold writeG
  dsimp only
  refine Keeps.setCtx ?_
  split
  · exact h.report
  · exact h

protected theorem Keeps.clearScratch {cl lo hi} (h : Keeps s0 s) : Keeps s0 (clearScratch s cl lo hi) := by
  unfold clearScratch
  exact h.change rfl (.inl rfl) rfl rfl (wf_filter _) (.refl _)

protected theorem Keeps.flushWay {cl way} (h : Keeps s0 s) : Keeps s0 (flushWay s cl way) := by
  unfold flushWay
  dsimp only
  refine Keeps.modCluster ?_
  refine Keeps.foldl (fun _ _ hs => ?_) h
  split
  · exact Keeps.foldl (fun _ _ hs => hs.flushLine) hs
  · exact hs

protected theorem Keeps.layoutL2 {cl sp lock nsp} (h : Keeps s0 s) : Keeps s0 (layoutL2 s cl sp lock nsp) := by
  unfold layoutL2
  dsimp only
  exact (Keeps.foldl (fun _ _ hs => hs.flushWay) h).clearScratch.modCluster

protected theorem Keeps.l2cfgWrite {cl v} (h : Keeps s0 s) : Keeps s0 (l2cfgWrite s cl v) := by
  unfold l2cfgWrite
  dsimp only
  exact Keeps.ite h.modCluster (Keeps.ite h.layoutL2 h.layoutL2.modCluster.report)

protected theorem Keeps.xcmdWrite {c sel cmd} (h : Keeps s0 s) : Keeps s0 (xcmdWrite s c sel cmd) := by
  unfold xcmdWrite
  dsimp only
  split
  · exact Keeps.ite h.frame (Keeps.ite h.modRegs.startContext h.modRegs)
  · exact Keeps.ite h.modRegs.modCtx h.modRegs.contextReset
  · exact h.modRegs.modRegs
  · exact h.modRegs

protected theorem Keeps.queueWrite {q n v} (h : Keeps s0 s) : Keeps s0 (queueWrite s q n v) := by
  unfold queueWrite
  dsimp only
  split
  · exact Keeps.ite h.setQ h.setQ
  · exact h.setQ.dropWaiters
  · exact h.setQ
  · exact Keeps.ite h.setQ h.setQ
  · exact h.qcmd
  · exact h

protected theorem Keeps.rqRetry {c} (h : Keeps s0 s) : Keeps s0 (rqRetry s c) := by
  unfold rqRetry
  dsimp only
  exact h.modCtx

protected theorem Keeps.rangeSubmit {c v} (h : Keeps s0 s) : Keeps s0 (rangeSubmit s c v) := by
  unfold rangeSubmit
  dsimp only
  exact Keeps.ite h.sendHw h.modCluster

protected theorem Keeps.heapWrite {p f} (h : Keeps s0 s) : Keeps s0 (heapWrite s p f) := Keeps.ite h.modPart h.modPart

protected theorem Keeps.crWriteEffect {e n w} (h : Keeps s0 s) : Keeps s0 (crWriteEffect e n w s) := by
  unfold crWriteEffect
  dsimp only
  split
  · exact Keeps.ite h h.modCtx
  · split
    · exact h.queueWrite
    · split
      · exact h.modRegs
      · exact h.modCtx
      · exact h.modRegs
      · exact h.modRegs
      · exact h.modCtx
      · exact Keeps.ite h h.modPart
      · exact Keeps.ite h h.modPart
      · exact Keeps.ite h h.modPart
      · exact h.modRegs
      · exact h.modRegs
      · exact h.modRegs
      · exact h.modRegs
      · exact h.modRegs
      · exact h.modRegs
      · exact h.modRegs
      · exact h.modRegs
      · exact h.modRegs
      · exact h.xcmdWrite
      · exact Keeps.ite h.modCtx h
      · exact h.modRegs
      · exact Keeps.ite h.writeG h
      · exact h.modCtx
      · exact h.modRegs
      · exact h.modRegs
      · exact h.barctlWrite
      · exact h.heapWrite
      · exact h.heapWrite
      · exact h.heapWrite
      · exact h.heapWrite
      · exact h.heapWrite
      · exact h.heapWrite
      · exact h.heapWrite
      · exact h.heapWrite
      · exact h.heapWrite
      · exact h.heapWrite
      · exact h.colcmdWrite
      · exact h.modRegs
      · exact h.modPart
      · exact h.modPart
      · exact h.modPart
      · exact Keeps.ite h h.l2cfgWrite
      · exact h.modCluster
      · exact h.modRegs
      · exact h.modRegs
      · exact h.modRegs
      · exact h.rangeSubmit
      · exact Keeps.ite h.rqRetry h
      · exact h

/-! ### Home -/

protected theorem Keeps.dirRoom {c line} (h : Keeps s0 s) : Keeps s0 (dirRoom s c line) := by
  unfold dirRoom
  dsimp only
  split
  · exact h
  · split
    · exact h
    · split
      · exact h.drawNat.flushLine.report
      · exact h.drawNat

protected theorem Keeps.homeGrantRead {c line stream} (h : Keeps s0 s) : Keeps s0 (homeGrantRead s c line stream) := by
  unfold homeGrantRead
  dsimp only
  split
  · exact h.dirRoom.installL2.setOwner
  · exact h.installL2.setDir
  · exact h.downgradeLine.installL2.setDir

protected theorem Keeps.homeGrantOwn {c line stream} (h : Keeps s0 s) : Keeps s0 (homeGrantOwn s c line stream) := by
  unfold homeGrantOwn
  dsimp only
  exact (Keeps.ite h.dirRoom.cleanLine h.dirRoom).discardLine.installL2.setOwner

protected theorem Keeps.dropOthers {c line} (h : Keeps s0 s) : Keeps s0 (dropOthers s c line) := h.frame

protected theorem Keeps.reclaimWb {c line stream} (h : Keeps s0 s) : Keeps s0 (reclaimWb s c line stream) := by
  unfold reclaimWb
  dsimp only
  split
  · exact h
  · split
    · exact h
    · exact Keeps.ite h.drawBool.modCluster.installL2 h.drawBool.modCluster.installL2

protected theorem Keeps.noteMiss {c line} (h : Keeps s0 s) : Keeps s0 (noteMiss s c line) := by
  unfold noteMiss
  dsimp only
  exact h.frame

protected theorem Keeps.homeReadReq {c line} (h : Keeps s0 s) : Keeps s0 (homeReadReq s c line) := Keeps.ite h.homeGrantRead.noteMiss h

protected theorem Keeps.homeOwnReq {c line} (h : Keeps s0 s) : Keeps s0 (homeOwnReq s c line) := Keeps.ite h.homeGrantOwn.noteMiss h

protected theorem Keeps.homeUpgradeNow {c line} (h : Keeps s0 s) : Keeps s0 (homeUpgradeNow s c line) := Keeps.ite h.dropOthers.modCluster.setOwner h.homeGrantOwn

protected theorem Keeps.homeUpgradeReq {c line} (h : Keeps s0 s) : Keeps s0 (homeUpgradeReq s c line) := Keeps.ite h h.homeUpgradeNow

protected theorem Keeps.endFills {core line} (h : Keeps s0 s) : Keeps s0 (endFills s core line) := by
  unfold endFills
  dsimp only
  exact h.modCore.modCluster

protected theorem Keeps.homeClaimReq {c line} (h : Keeps s0 s) : Keeps s0 (homeClaimReq s c line) := by
  unfold homeClaimReq
  dsimp only
  split
  · exact h
  · split
    · exact h
    · exact Keeps.ite (Keeps.ite h.reclaimWb h) h.dirRoom.discardLine.installL2.setOwner.installL1.modCluster.modCore.endFills

protected theorem Keeps.homeWritebackReq {c line} (h : Keeps s0 s) : Keeps s0 (homeWritebackReq s c line) := by
  unfold homeWritebackReq
  dsimp only
  split
  · exact h
  · exact (Keeps.ite h.writeWords.frame h).modCluster

protected theorem Keeps.keepNoticeReq {c line} (h : Keeps s0 s) : Keeps s0 (keepNoticeReq s c line) := by
  unfold keepNoticeReq
  dsimp only
  split
  · exact h
  · split
    · exact Keeps.ite h.modCluster h.modCluster.frame.modCluster
    · exact h.modCluster.setDir
    · exact h.modCluster.setDir

protected theorem Keeps.homeCleanReq {c line} (h : Keeps s0 s) : Keeps s0 (homeCleanReq s c line) := by
  unfold homeCleanReq
  dsimp only
  split
  · exact h
  · split
    · exact h.setDir
    · exact Keeps.ite h.setDir h
    · exact h

protected theorem Keeps.clusterRecallReq {c line inv} (h : Keeps s0 s) : Keeps s0 (clusterRecallReq s c line inv) := by
  unfold clusterRecallReq
  dsimp only
  exact Keeps.ite h (Keeps.ite h.drawNat.flushLine.report h.downgradeLine.setDir)

protected theorem Keeps.serveUnc {ix r} (h : Keeps s0 s) : Keeps s0 (serveUnc s ix r) := by
  unfold serveUnc
  dsimp only
  split
  · split
    · exact h.frame.homeRead.setResult
    · exact h.frame.homeRead
  · split
    · exact h.frame.homeWrite.storeMarks
    · exact h.frame.homeWrite
  · split
    · exact h.frame.homeCas.setResult
    · exact h.frame.homeCas

protected theorem Keeps.execHomeUncachedRead {slice} (h : Keeps s0 s) : GoesOn s0 (execHomeUncachedRead slice s) := by
  unfold execHomeUncachedRead
  refine Keeps.next ?_
  split
  · exact h.serveUnc
  · exact h

protected theorem Keeps.execHomeUncachedWrite {slice} (h : Keeps s0 s) : GoesOn s0 (execHomeUncachedWrite slice s) := by
  unfold execHomeUncachedWrite
  refine Keeps.next ?_
  split
  · exact Keeps.ite h h.serveUnc
  · exact h

protected theorem Keeps.nextSector {core f} (h : Keeps s0 s) : Keeps s0 (nextSector s core f) := by
  unfold nextSector
  dsimp only
  split
  · split
    · exact h
    · split
      · exact Keeps.ite h (Keeps.ite h.setCore h.setCore.modCluster)
      · exact h.setCore
  · split
    · exact h
    · split
      · exact Keeps.ite h (Keeps.ite h.setCore h.setCore.modCluster)
      · exact h.setCore

protected theorem Keeps.mergeL1 {c line} (h : Keeps s0 s) : Keeps s0 (mergeL1 s c line) := by
  unfold mergeL1
  dsimp only
  split
  · exact h
  · exact Keeps.ite h.frame.modCluster h.frame.writeWords

protected theorem Keeps.dropSiblings {core line} (h : Keeps s0 s) : Keeps s0 (dropSiblings s core line) := h.frame

protected theorem Keeps.settleLost {c line} (h : Keeps s0 s) : Keeps s0 (settleLost s c line) := by
  unfold settleLost
  dsimp only
  exact Keeps.ite (Keeps.ite h.frame.modCluster h.frame.writeWords) h

protected theorem Keeps.placeL1 {core line store stream hit} (h : Keeps s0 s) : Keeps s0 (placeL1 s core line store stream hit) := by
  unfold placeL1
  dsimp only
  exact (((h.settleLost.mergeL1.when fun h => h.dropSiblings).modCore.either (fun h => h.serveEvicted) fun h => h.installL1).when
    fun h => h.touchL2).modCluster

protected theorem Keeps.takeOwn {core line} (h : Keeps s0 s) : ∀ t, takeOwn s core line = some t → Keeps s0 t := by
  intro t ht
  unfold takeOwn at ht
  dsimp only at ht
  split at ht
  · cases ht
  · cases ht
    exact (Keeps.ite h.homeGrantOwn (Keeps.ite h.homeUpgradeNow h)).placeL1

protected theorem Keeps.l1dFill {core line} (h : Keeps s0 s) : Keeps s0 (l1dFill s core line) := by
  unfold l1dFill
  dsimp only
  split
  · exact h
  · exact Keeps.ite (Keeps.ite h.reclaimWb h) ((Keeps.ite h.reclaimWb h).placeL1.endFills.nextSector)

/-! ### Range -/

protected theorem Keeps.rangeXlate {cl r va} (h : Keeps s0 s) : Keeps s0 (rangeXlate s cl r va).1 := by
  unfold rangeXlate
  split
  · rename_i he
    exact (h.unitXlate.of_fst he).pair
  · rename_i he
    exact (h.unitXlate.of_fst he).pair

protected theorem Keeps.clearHeld {line clean} (h : Keeps s0 s) : Keeps s0 (clearHeld s line clean) := by
  unfold clearHeld
  dsimp only
  exact Keeps.ite h ((Keeps.foldl (fun _ _ hs => Keeps.ite ((Keeps.ite hs.cleanLine hs).discardLine) hs) h).frame)

protected theorem Keeps.bringLine {c line} (h : Keeps s0 s) : Keeps s0 (bringLine s c line) := Keeps.ite h (Keeps.ite h.reclaimWb h.homeGrantRead)

protected theorem Keeps.lockSector {c line} (h : Keeps s0 s) : Keeps s0 (lockSector s c line).1 := by
  unfold lockSector
  simp only
  split
  · split
    · exact Keeps.pair (.foldl (fun _ _ hs => hs.bringLine) h)
    · split
      · exact Keeps.pair (.foldl (fun _ _ hs => hs.bringLine) h.setCluster)
      · exact h
  · split
    · exact Keeps.pair (.foldl (fun _ _ hs => hs.bringLine) h.setCluster)
    · exact h

protected theorem Keeps.unlockSector {c line} (h : Keeps s0 s) : Keeps s0 (unlockSector s c line) := by
  unfold unlockSector
  dsimp only
  split
  · exact h.when fun h => (Keeps.foldl (fun _ _ hs =>
      (hs.backInvalidate.when fun hs => hs.cleanLine).modCluster.when fun hs => hs.setDir) h).modCluster
  · exact h

protected theorem Keeps.dropL1I {line} (h : Keeps s0 s) : Keeps s0 (dropL1I s line) := by
  unfold dropL1I
  dsimp only
  exact h.frame

protected theorem Keeps.rangeLine {cl op pa n first} (h : Keeps s0 s) : Keeps s0 (rangeLine s cl op pa n first).1 := by
  unfold rangeLine
  extract_lets a line sp
  split
  · exact h.cleanLine
  · exact (Keeps.ite h.clearHeld h).discardLine
  · exact (Keeps.ite h.clearHeld h).flushLine
  · exact (Keeps.ite h h.flushLine.writeWords).pair
  · exact (Keeps.ite h h.bringLine).pair
  · split
    · exact h
    · split
      · exact h.lockSector
      · exact h
  · exact (Keeps.ite h h.unlockSector).pair
  · exact h.dropL1I

protected theorem Keeps.rangeEnd {cl r status at' stopped} (h : Keeps s0 s) : Keeps s0 (rangeEnd s cl r status at' stopped) := by
  unfold rangeEnd
  dsimp only
  exact h.modCluster.sendHw

protected theorem Keeps.rangeRun {cl} (h : Keeps s0 s) : Keeps s0 (rangeRun s cl) := by
  unfold rangeRun
  extract_lets k
  split
  · exact h
  · extract_lets len va n first step
    have hstep {t : State} {ok : Bool} (ht : Keeps s0 t) : Keeps s0 (step t ok) := Keeps.ite ht.modCluster.rangeEnd ht.modCluster
    clear_value step
    refine Keeps.ite h (Keeps.ite h.rangeEnd (Keeps.ite h.rangeEnd (Keeps.ite h ?_)))
    split
    · rename_i he
      exact (h.rangeXlate.of_fst he).rangeEnd
    · rename_i he
      have h1 := h.rangeXlate.of_fst he
      refine Keeps.ite (Keeps.ite h1.rangeEnd (hstep h1)) (Keeps.ite h1 ?_)
      split
      rename_i he2
      exact hstep (h1.portRound.rangeLine.of_fst he2)

protected theorem Keeps.rangeRetry {cl} (h : Keeps s0 s) : Keeps s0 (rangeRetry s cl) := by
  unfold rangeRetry
  split
  · exact h
  · exact h.modCluster.sendHw

/-! ### QueueEvents -/

protected theorem Keeps.receiveRequest {c} (h : Keeps s0 s) : Keeps s0 (receiveRequest s c) := by
  unfold receiveRequest
  dsimp only
  split
  · exact Keeps.ite h (Keeps.ite h (Keeps.ite h.setResult (Keeps.ite h.setResult (Keeps.ite h.dequeue.setResult
      (Keeps.ite h.setResult (Keeps.ite h.setResult h.setQ))))))
  · exact h

protected theorem Keeps.sendMsgFlits {port vc m desc} (h : Keeps s0 s) : Keeps s0 (sendMsgFlits s port vc m desc) := by
  unfold sendMsgFlits
  dsimp only
  exact Keeps.ite h.sendFlit.sendFlit h.sendFlit

protected theorem Keeps.departMsg {m0} (h : Keeps s0 s) : Keeps s0 (departMsg s m0) := by
  unfold departMsg
  dsimp only
  split
  · split
    · exact h.frame
    · split
      · exact h.sendMsgFlits
      · exact h.frame
  · split
    · exact h.frame
    · split
      · exact h.sendMsgFlits
      · exact h.frame

protected theorem Keeps.messageRelease {src} (h : Keeps s0 s) : Keeps s0 (messageRelease s src) := by
  unfold messageRelease
  dsimp only
  split
  · exact h
  · exact Keeps.ite (Keeps.ite h h.frame.holdOut) h.frame.departMsg

protected theorem Keeps.endOutbox {m} (h : Keeps s0 s) : Keeps s0 (endOutbox s m) := by
  unfold endOutbox
  split
  · exact h.frame
  · exact h

protected theorem Keeps.logFor {q p words} (h : Keeps s0 s) : Keeps s0 (logFor s q p words) := by
  unfold logFor
  dsimp only
  exact Keeps.ite (Keeps.foldl (fun _ _ hs => Keeps.ite hs.logWord hs) h) h

protected theorem Keeps.logArrival {q words} (h : Keeps s0 s) : Keeps s0 (logArrival s q words) := Keeps.foldl (fun _ _ hs => hs.logFor) h

protected theorem Keeps.placeMsg {m} (h : Keeps s0 s) : Keeps s0 (placeMsg s m) := by
  unfold placeMsg
  dsimp only
  split
  · exact h.logArrival.acceptMsg.frame
  · exact h.logArrival.acceptMsg.settleFlush
  · exact h.logArrival.acceptMsg.modColl
  · exact h.logArrival.acceptMsg

protected theorem Keeps.refuseMsg {m status} (h : Keeps s0 s) : Keeps s0 (refuseMsg s m status) := by
  unfold refuseMsg
  dsimp only
  split
  · exact (Keeps.ite h.returnCredit h).bounce
  · exact (Keeps.ite h.returnCredit h).bounce
  · exact h.overflowLog.settleFlush
  · exact Keeps.ite h.modColl.frame h.modColl.frame
  · exact Keeps.ite h.frame h.frame
  · exact Keeps.ite h.modCluster h.report
  · exact h.frame
  · exact h.countLost
  · exact h
  · exact h

protected theorem Keeps.judgeLocal {m} (h : Keeps s0 s) : Keeps s0 (judgeLocal s m) := by
  unfold judgeLocal
  dsimp only
  split
  · exact h.endOutbox.refuseMsg
  · split
    · exact h.endOutbox.refuseMsg
    · split
      · exact h.endOutbox.placeMsg
      · exact h.endOutbox.refuseMsg

/-! ### Routine -/

protected theorem Keeps.routineFailed {c op f st} (h : Keeps s0 s) : Keeps s0 (routineFailed s c op f st) := by
  unfold routineFailed
  dsimp only
  exact Keeps.ite h.modCtx h.report

protected theorem Keeps.drainStores {cl en es} (h : Keeps s0 s) : Keeps s0 (drainStores cl en es s) := by
  induction es generalizing s with
  | nil => exact h.modEngine
  | cons e es ih =>
    unfold drainStores
    dsimp only
    split
    · exact ih h.sendHw
    · split
      · exact ih h.report
      · exact Keeps.ite h.modEngine (ih h.sendRemote)
    · exact Keeps.ite h.modEngine (ih h.homeWrite)
    · split
      · exact Keeps.ite h.modEngine (ih h.homeWrite.storeMarks)
      · split
        · exact ih h.routineFailed
        · exact Keeps.ite h.modEngine (ih h.sendRemote)

protected theorem Keeps.takeRange {c a n} (h : Keeps s0 s) : Keeps s0 (takeRange s c a n) := by
  unfold takeRange
  dsimp only
  exact h.modCtx

protected theorem Keeps.endRequest {c st res} (h : Keeps s0 s) : Keeps s0 (endRequest s c st res) := by
  unfold endRequest
  dsimp only
  exact h.setResult.modCtx

protected theorem Keeps.releaseEngine {cl en} (h : Keeps s0 s) : Keeps s0 (releaseEngine s cl en) := h.modEngine

protected theorem Keeps.failRequest {r f} (h : Keeps s0 s) : Keeps s0 (failRequest s r f) := h.fillRange.tellSealed.endRequest.releaseEngine

protected theorem Keeps.nurseryLacks {r} (h : Keeps s0 s) : Keeps s0 (nurseryLacks s r) := by
  unfold nurseryLacks
  dsimp only
  exact h.releaseEngine.modCtx.freeSlot

protected theorem Keeps.completeRequest {r ws} (h : Keeps s0 s) : Keeps s0 (completeRequest s r ws) := h.endRequest.releaseEngine

protected theorem Keeps.requeue {cl en home q} (h : Keeps s0 s) : Keeps s0 (requeue s cl en home q) := h.releaseEngine.queueRoutine

protected theorem Keeps.setAside {cl en home q} (h : Keeps s0 s) : Keeps s0 (setAside s cl en home q) := by
  unfold setAside
  dsimp only
  exact Keeps.ite h.requeue h.modEngine

protected theorem Keeps.routineTake {cl en} (h : Keeps s0 s) : Keeps s0 (routineTake s cl en) := by
  unfold routineTake
  dsimp only
  split
  · exact h
  · split
    · exact h
    · exact h.modCluster.modEngine

protected theorem Keeps.traceMicro {t addr w v} (h : Keeps s0 s) : Keeps s0 (traceMicro s t addr w v) := by
  unfold traceMicro
  dsimp only
  exact Keeps.ite h h.drawBool.frame

protected theorem Keeps.traceRom {t addr} (h : Keeps s0 s) : Keeps s0 (traceRom s t addr) := by
  unfold traceRom
  dsimp only
  exact h.drawWord.traceMicro

protected theorem Keeps.romPath {t start} (h : Keeps s0 s) : Keeps s0 (romPath s t start).1 := by
  unfold romPath
  dsimp only
  split
  · exact h
  · exact (Keeps.foldl (fun _ _ hs => hs.traceRom) h.drawNat).pair

end
end Sys2Proof.Machine

namespace Sys2Proof.Machine
open Sys2Proof

/-! ### What the microcode of the routines keeps -/

/-- A routine's work, begun in the state `s`, leaves a state that keeps what `s` keeps. -/
def RtFrom {α : Type} (s : State) (x : RtM α) : Prop := ∀ s0, Keeps s0 s → Keeps s0 (x.run s).2

/-- A routine's work keeps what every command keeps, wherever it begins. -/
def RtKeeps {α : Type} (x : RtM α) : Prop := ∀ s, RtFrom s x

section
variable {α β : Type} {s t : State} {r : Rt}

theorem RtFrom.of_keeps {x : RtM α} (h : RtKeeps x) : RtFrom s x := h s

theorem RtFrom.pure {a : α} : RtFrom s (pure a) := fun _ h => h

theorem RtFrom.throw {e : RtStop} : RtFrom s (throw e : RtM α) := fun _ h => h

theorem RtFrom.set {k : Unit → RtM α} (hst : ∀ s0, Keeps s0 s → Keeps s0 t) (hk : RtFrom t (k ())) : RtFrom s (set t >>= k) :=
  fun s0 h => hk s0 (hst s0 h)

theorem RtFrom.set_last (hst : ∀ s0, Keeps s0 s → Keeps s0 t) : RtFrom s (MonadStateOf.set t : RtM Unit) := fun s0 h => hst s0 h

theorem RtFrom.ite {c : Prop} [Decidable c] {x y : RtM α} (hx : RtFrom s x) (hy : RtFrom s y) : RtFrom s (if c then x else y) := by
  split
  · exact hx
  · exact hy

theorem RtKeeps.pure {a : α} : RtKeeps (pure a) := fun _ => .pure

theorem RtKeeps.throw {e : RtStop} : RtKeeps (throw e : RtM α) := fun _ => .throw

theorem RtKeeps.ite {c : Prop} [Decidable c] {x y : RtM α} (hx : RtKeeps x) (hy : RtKeeps y) : RtKeeps (if c then x else y) :=
  fun s => .ite (hx s) (hy s)

theorem RtKeeps.get {f : State → RtM α} (h : ∀ s, RtFrom s (f s)) : RtKeeps (get >>= f) := fun s => h s

theorem RtKeeps.modify {f : State → State} (h : ∀ s0 s, Keeps s0 s → Keeps s0 (f s)) : RtKeeps (modify f) := fun s s0 hs => h s0 s hs

theorem RtKeeps.bind {x : RtM α} {f : α → RtM β} (hx : RtKeeps x) (hf : ∀ a, RtKeeps (f a)) : RtKeeps (x >>= f) := by
  intro s s0 h
  have h1 := hx s s0 h
  change Keeps s0 (ExceptT.bindCont f (x.run s).1 (x.run s).2).2
  cases (x.run s).1 with
  | ok a => exact hf a _ _ h1
  | error e => exact h1

theorem RtKeeps.mapM {f : α → RtM β} (hf : ∀ a, RtKeeps (f a)) (l : List α) : RtKeeps (l.mapM f) := by
  induction l with
  | nil => exact .pure
  | cons a l ih =>
    rw [List.mapM_cons]
    exact .bind (hf a) fun _ => .bind ih fun _ => .pure

theorem RtKeeps.forM {f : α → RtM Unit} (hf : ∀ a, RtKeeps (f a)) (l : List α) : RtKeeps (l.forM f) := by
  induction l with
  | nil => exact .pure
  | cons a l ih =>
    exact .bind (hf a) fun _ => ih

theorem RtKeeps.rtFail {cause va} : RtKeeps (rtFail cause va : RtM α) := .throw

theorem RtKeeps.rtBad {cause} : RtKeeps (rtBad r cause : RtM α) := .throw

theorem RtKeeps.rtXlate {va acc row} : RtKeeps (rtXlate r va acc row) := by
  refine .get fun s => .ite .throw ?_
  split
  rename_i he
  refine .set (fun _ h => h.unitXlate.of_fst he) ?_
  split
  · exact .throw
  · refine .ite .throw (.ite (.ite .throw .pure) ?_)
    exact .set (fun _ h => h.wakeLine) .pure

theorem RtKeeps.rtRead {va} : RtKeeps (rtRead r va) :=
  .bind .rtXlate fun _ => .get fun _ => .ite (.ite .pure .throw) (.ite (.set (fun _ h => h.homeRead) .pure) .pure)

theorem RtKeeps.rtClean {va} : RtKeeps (rtClean r va) := .bind .rtRead fun _ => .ite .throw .pure

theorem RtKeeps.rtResolve {w slot weak} : RtKeeps (rtResolve r w slot weak) := by
  refine .get fun s => .ite .pure ?_
  split
  · rename_i he
    exact .set (fun _ h => h.farTarget.of_fst he) (.ite .pure (.ite .throw (.ite .throw .throw)))
  · rename_i he
    split
    rename_i he2
    refine .set (fun _ h => (h.farTarget.of_fst he).resolve.of_fst he2) ?_
    split
    · exact .pure
    · exact .throw
    · exact .throw

theorem RtKeeps.rtSlot {va} : RtKeeps (rtSlot r va) :=
  .bind .rtRead fun _ => .bind .rtResolve fun _ => .ite (.bind (.modify fun _ _ h => h.modEngine) fun _ => .pure) .pure

theorem RtKeeps.rtOperand {w} : RtKeeps (rtOperand r w) := by
  unfold Machine.rtOperand
  split
  · exact .ite .throw .rtBad
  · exact .pure

theorem RtKeeps.rtObject {w} : RtKeeps (rtObject r w) :=
  .bind .rtResolve fun _ => .bind .rtClean fun _ => .ite (.bind .rtClean fun _ => .ite .rtFail (.ite .rtFail .pure)) (.ite .rtFail (.ite .rtFail .pure))

theorem RtKeeps.rtFix {w lo hi} : RtKeeps (rtFix r w lo hi) := .ite .rtBad (.ite .rtBad .pure)

theorem RtKeeps.rtForm {w count} : RtKeeps (rtForm r w count) :=
  .ite (.ite .rtFail .pure) (.bind .rtOperand fun _ => .ite .rtBad .pure)

theorem RtKeeps.rtAddress {w count} : RtKeeps (rtAddress r w count) :=
  .bind .rtForm fun _ => .ite .pure (.bind .rtResolve fun _ => .ite .rtFail .pure)

theorem RtKeeps.rtNothing {ops res} : RtKeeps (rtNothing r ops res) := .bind (.forM (fun _ => .rtForm) _) fun _ => .pure

theorem RtKeeps.rtBig {w} : RtKeeps (rtBig r w) :=
  .bind .rtObject fun _ => .bind (.mapM (fun _ => .bind .rtClean fun _ => .pure) _) fun _ => .pure

theorem RtKeeps.rtPart {hdr va} : RtKeeps (rtPart r hdr va) := by
  refine .bind .rtSlot fun w => ?_
  split
  · exact .pure
  · exact .rtBig
  · exact .ite .throw .rtFail

theorem RtKeeps.rtKind {w} : RtKeeps (rtKind r w) := .ite .rtBad .pure

theorem RtKeeps.rtNum {w} : RtKeeps (rtNum r w) := by
  unfold Machine.rtNum
  split
  · exact .pure
  · exact .pure
  · exact .bind .rtBig fun _ => .pure
  · exact .bind .rtObject fun _ => .bind .rtPart fun _ => .bind .rtPart fun _ => .ite .rtFail .pure
  · exact .rtBad

theorem RtKeeps.segNumeric : RtKeeps (segNumeric r) := by
  unfold Machine.segNumeric
  extract_lets n unary k free finish kinds operands
  have hfinish (a : NumIn) : RtKeeps (finish a) := by
    refine .bind .rtNum fun b => ?_
    split
    · exact .rtBad
    · exact .pure
  have hkinds (u : Unit) : RtKeeps (kinds u) := .bind .rtKind fun _ => .ite (.bind .pure hfinish) (.bind .rtNum hfinish)
  have hoperands (u : Unit) : RtKeeps (operands u) := .bind .rtOperand fun _ => .ite (.bind .rtKind hkinds) (hkinds ())
  exact .ite (.bind .rtOperand hoperands) (hoperands ())

theorem RtKeeps.segCopy : RtKeeps (segCopy r) :=
  .bind .rtFix fun _ => .ite .rtNothing (.bind .rtAddress fun _ => .bind .rtAddress fun _ => .ite .pure
    (.bind (.mapM (fun _ => .rtRead) _) fun _ => .pure))

theorem RtKeeps.segFill : RtKeeps (segFill r) :=
  .bind .rtFix fun _ => .ite .rtNothing (.bind .rtAddress fun _ => .ite .pure .pure)

theorem RtKeeps.findIx {t : Nat → RtM Bool} (ht : ∀ i, RtKeeps (t i)) (i n : Nat) : RtKeeps (findIx t i n) := by
  induction n generalizing i with
  | zero => exact .pure
  | succ n ih => exact .bind (ht i) fun _ => .ite .pure (ih (i + 1))

theorem RtKeeps.segScan {count miss} {t : Nat → RtM Bool} (ht : ∀ i, RtKeeps (t i)) : RtKeeps (segScan r count miss t) := by
  refine .bind (.findIx ht _ _) fun f => ?_
  cases f with
  | some i => exact .pure
  | none => exact .pure

theorem RtKeeps.segCmp : RtKeeps (segCmp r) :=
  .bind .rtFix fun _ => .ite .rtNothing (.bind .rtAddress fun _ => .bind .rtAddress fun _ => .segScan fun _ =>
    .bind .rtClean fun _ => .bind .rtClean fun _ => .pure)

theorem RtKeeps.segFind : RtKeeps (segFind r) :=
  .bind .rtFix fun _ => .ite .rtNothing (.bind .rtAddress fun _ => .segScan fun _ => .bind .rtClean fun _ => .pure)

theorem RtKeeps.probe {body pairs start key n done tomb} : RtKeeps (probe r body pairs start key n done tomb) := by
  induction n generalizing done tomb with
  | zero => exact .pure
  | succ n ih =>
    exact .ite .pure (.bind .rtSlot fun _ => .ite .throw (.ite .pure (.ite ih (.ite (.bind .rtSlot fun _ => .pure) ih))))

theorem RtKeeps.segProbe : RtKeeps (segProbe r) :=
  .bind .rtOperand fun _ => .ite .rtBad (.ite .rtBad (.bind .rtObject fun _ => .ite .rtBad (.bind .rtResolve fun _ =>
    .bind .probe fun _ => .pure)))

theorem RtKeeps.rtString {w} : RtKeeps (rtString r w) := .bind .rtOperand fun _ => .ite .rtBad (.bind .rtObject fun _ => .pure)

theorem RtKeeps.rtByte {body i} : RtKeeps (rtByte r body i) := .bind .rtClean fun _ => .pure

theorem RtKeeps.segStrCmp : RtKeeps (segStrCmp r) := by
  refine .bind .rtString fun _ => .bind .rtString fun _ => .bind (.findIx (fun _ => .bind .rtByte fun _ => .bind .rtByte fun _ => .pure) _ _) fun f => ?_
  cases f with
  | some i => exact .bind .rtByte fun _ => .bind .rtByte fun _ => .pure
  | none => exact .pure

theorem RtKeeps.findStr {h lh n ln k pos m} : RtKeeps (findStr r h lh n ln k pos m) := by
  induction k generalizing pos m with
  | zero => exact .pure
  | succ k ih => exact .ite .pure (.ite .pure (.bind .rtByte fun _ => .bind .rtByte fun _ => .ite ih ih))

theorem RtKeeps.segStrFind : RtKeeps (segStrFind r) :=
  .bind .rtString fun _ => .bind .rtString fun _ => .bind .rtFix fun _ => .bind .findStr fun _ => .pure

theorem RtKeeps.segStrHash : RtKeeps (segStrHash r) :=
  .bind .rtString fun _ => .bind (.mapM (fun _ => .rtByte) _) fun _ => .pure

theorem RtKeeps.utf8Scan {a la stop k i n} : RtKeeps (utf8Scan r a la stop k i n) := by
  induction k generalizing i n with
  | zero => exact .pure
  | succ k ih =>
    have hat (j : Nat) : RtKeeps (if j < la then Machine.rtByte r a j else Pure.pure 256) := .ite .rtByte .pure
    refine .ite .pure (.bind (hat _) fun _ => .bind (hat _) fun _ => .bind (hat _) fun _ => .bind (hat _) fun _ => ?_)
    split
    · exact .pure
    · exact ih

theorem RtKeeps.segStrCheck : RtKeeps (segStrCheck r) := by
  refine .bind .rtString fun x => .bind .utf8Scan fun y => ?_
  obtain ⟨i, n, bad⟩ := y
  cases bad with
  | some k => exact .pure
  | none => exact .pure

theorem RtKeeps.segment : RtKeeps (segment r) := by
  unfold Machine.segment
  split
  · exact .segCopy
  · exact .segFill
  · exact .segCmp
  · exact .segFind
  · exact .segProbe
  · exact .segStrCmp
  · exact .segStrFind
  · exact .segStrHash
  · exact .segStrCheck
  · exact .segNumeric

theorem RtKeeps.rtCard {va w} : RtKeeps (rtCard r va w) := by
  refine .get fun s => ?_
  split
  rename_i he
  refine .set (fun _ h => h.agXlate.of_fst he) ?_
  split
  · exact .pure
  · exact .throw

theorem RtKeeps.rtPrepare {barriers e} : RtKeeps (rtPrepare r barriers e) := by
  refine .ite .rtFail (.bind .rtXlate fun _ => .ite .pure (.ite (.get fun s => ?_) .pure))
  split
  rename_i he
  refine .set (fun _ h => h.agXlate.of_fst he) ?_
  split
  · exact .pure
  · exact .throw

theorem RtKeeps.rtEffect {e} : RtKeeps (rtEffect r e) := by
  cases e with
  | store va w bar => exact .rtPrepare
  | cardOr va w => exact .rtCard
  | send w => exact .pure

theorem RtKeeps.rtFree : RtKeeps rtFree := .get fun _ => .set (fun _ h => h.drawWord) .pure

theorem RtKeeps.memPort {d m va data size} : RtKeeps (memPort r d m va data size) := by
  have hload (a : Nat) : RtKeeps (if d.membar % 2 = 1 then Machine.rtSlot r a else Machine.rtRead r a) := .ite .rtSlot .rtRead
  unfold Machine.memPort
  dsimp only
  split
  · exact .ite (.bind (.mapM (fun _ => hload _) _) fun _ => .pure) (.bind (hload _) fun _ => .pure)
  · exact .pure
  · exact .bind .rtRead fun _ => .bind .rtFree fun _ => .pure
  · exact .pure
  · refine .get fun s => ?_
    split
    · exact .pure
    · exact .ite (.set (fun _ h => h.takeRange) .pure) .throw
  · exact .pure
  · exact .pure
  · exact .pure

theorem RtKeeps.microData {d m} : RtKeeps (microData r d m) := by
  refine .get fun s => .of_keeps ?_
  extract_lets regs a b cnt counter
  refine .bind .rtFree fun f0 => .bind .rtFree fun f1 => ?_
  split
  extract_lets va data
  refine .bind .memPort fun m1 => ?_
  split
  extract_lets out fl m2 finish
  have hfinish (u : Unit) : RtKeeps (finish u) := .pure
  clear_value finish out
  cases out with
  | some w => exact .bind (.modify fun _ _ h => h.modEngine) hfinish
  | none => exact .bind .pure hfinish

theorem RtKeeps.microNext {d m} : RtKeeps (microNext r d m) := by
  refine .get fun s => ?_
  dsimp only
  split
  · exact .pure
  · exact .pure
  · exact .pure
  · exact .pure
  · split
    · exact .pure
    · exact .of_keeps (.bind .rtFree fun _ => .pure)
  · exact .pure

theorem RtKeeps.microRun {n m} : RtKeeps (microRun r n m) := by
  induction n generalizing m with
  | zero => exact .pure
  | succ n ih =>
    exact .ite .pure (.ite .throw (.get fun _ => .ite .throw (.ite .pure (.of_keeps (.bind .microData fun _ =>
      .bind (.modify fun _ _ h => h.traceMicro) fun _ => .ite .pure (.bind .microNext fun _ => .ite .pure ih))))))

theorem RtKeeps.rtResult {a n ns} : RtKeeps (rtResult r a n ns) :=
  .get fun _ => .of_keeps (.bind (.mapM (fun _ => .bind .rtXlate fun _ => .pure) _) fun _ => .pure)

theorem RtKeeps.rtReserve {ns} : RtKeeps (rtReserve r ns) := by
  refine .get fun s => ?_
  split
  · exact .pure
  · exact .set_last fun _ h => h.takeRange
  · exact .throw
  · exact .throw

theorem RtKeeps.rtWork {extra} : RtKeeps (rtWork r extra) := by
  refine .bind .segment fun g => .bind .rtReserve fun _ => .bind (.mapM (fun _ => .rtEffect) _) fun _ => .bind (.mapM (fun _ => .rtPrepare) _) fun _ => ?_
  dsimp only
  split
  · exact .pure
  · exact .pure
  · exact .get fun _ => .of_keeps (.bind .rtResult fun _ => .pure)

/-- What a routine's work leaves of the state that it began in. -/
theorem RtKeeps.after {x : RtM α} {s0 : Origin} {e : Except RtStop α} (hx : RtKeeps x) (h : Keeps s0 s) (he : x.run s = (e, t)) : Keeps s0 t :=
  (hx s s0 h).of_snd he

end
end Sys2Proof.Machine

namespace Sys2Proof.Machine
open Sys2Proof

section
variable {s0 : Origin} {s : State}

/-! ### Routine -/

protected theorem Keeps.commitHeals {r} (h : Keeps s0 s) : Keeps s0 (commitHeals s r).1 := by
  unfold commitHeals
  refine .foldl_fst (fun a e ha => ?_) h
  split
  · split
    · exact ha
    · exact ha.healSlot
  · exact ha.healSlot

protected theorem Keeps.commitStores {r stores} (h : Keeps s0 s) : Keeps s0 (commitStores s r stores) := by
  unfold commitStores
  dsimp only
  exact h.commitHeals.modEngine.drainStores

protected theorem Keeps.commitEffects {r prog stores} (h : Keeps s0 s) : Keeps s0 (commitEffects s r prog stores) := by
  unfold commitEffects
  dsimp only
  exact h.commitStores.modCtx

protected theorem Keeps.deliverEnd {r ws} (h : Keeps s0 s) : Keeps s0 (deliverEnd s r ws) := by
  unfold deliverEnd
  split
  · exact h.failRequest
  · exact Keeps.ite h.completeRequest h.modCtx

protected theorem Keeps.commitSegment {r g stores ws} (h : Keeps s0 s) : Keeps s0 (commitSegment s r g stores ws) := by
  unfold commitSegment
  dsimp only
  split
  · exact h.commitEffects.setAside
  · exact h.commitEffects.modCtx.deliverEnd

protected theorem Keeps.rtAsk {r op pa va colour} (h : Keeps s0 s) : Keeps s0 (rtAsk s r op pa va colour) := by
  unfold rtAsk
  split
  · exact Keeps.ite h.sendRemote h
  · exact h.failRequest

protected theorem Keeps.jobEnded {cl j} (h : Keeps s0 s) : Keeps s0 (jobEnded s cl j) := Keeps.ite h.agWrite h.askEngine

protected theorem Keeps.engineError {cl en} (h : Keeps s0 s) : Keeps s0 (engineError s cl en) := by
  unfold engineError
  dsimp only
  split
  · exact Keeps.ite h.releaseEngine.modCluster h.releaseEngine.jobEnded
  · exact h
  · exact Keeps.ite h.releaseEngine.modCtx.modCluster h.releaseEngine.fillRange.endRequest

protected theorem Keeps.backToCommit {cl en} (h : Keeps s0 s) : Keeps s0 (backToCommit s cl en) := h.modEngine

protected theorem Keeps.stopSegment {r a} (h : Keeps s0 s) : Keeps s0 (stopSegment s r a) := by
  unfold stopSegment
  split
  · exact h.failRequest
  · exact h.nurseryLacks
  · exact h.frame.report.engineError
  · exact h.requeue
  · exact h.backToCommit.rtAsk
  · exact h.backToCommit.rtAsk

protected theorem Keeps.runSegment {r extra} (h : Keeps s0 s) : Keeps s0 (runSegment s r extra) := by
  unfold runSegment
  split
  · rename_i he
    exact (RtKeeps.rtWork.after h he).stopSegment
  · rename_i he
    exact (RtKeeps.rtWork.after h he).commitSegment

protected theorem Keeps.commitMicro {r m fin} (h : Keeps s0 s) : Keeps s0 (commitMicro s r m fin) := by
  have heffects : RtKeeps (m.stores.mapM (rtEffect r)) := .mapM (fun _ => .rtEffect) _
  unfold commitMicro
  split
  · rename_i he
    exact (heffects.after h he).stopSegment
  · rename_i he
    have h1 := heffects.after h he
    split
    · exact h1.commitEffects.modEngine.setAside
    · exact h1.drawWord.drawWord.commitEffects.fillRange.deliverEnd
    · exact h1.failRequest

protected theorem Keeps.runMicro {r m fuel} (h : Keeps s0 s) : Keeps s0 (runMicro r m fuel s) := by
  induction fuel generalizing m s with
  | zero => exact h.modEngine
  | succ fuel ih =>
    unfold runMicro
    split
    · rename_i he
      exact (RtKeeps.microRun.after h he).stopSegment
    · rename_i he
      exact (RtKeeps.microRun.after h he).modEngine
    · rename_i he
      exact (RtKeeps.microRun.after h he).commitMicro
    · rename_i he
      exact (RtKeeps.microRun.after h he).commitMicro
    · rename_i he
      extract_lets s2
      have h2 : Keeps s0 s2 := (RtKeeps.microRun.after h he).modEngine
      split
      · rename_i he2
        exact (h2.romPath.of_fst he2).runSegment
      · rename_i he2
        exact ih (h2.romPath.of_fst he2)

protected theorem Keeps.scrambleRegs {cl en} (h : Keeps s0 s) : Keeps s0 (scrambleRegs s cl en) := by
  unfold scrambleRegs
  dsimp only
  exact Keeps.foldl (fun _ _ hs => hs.drawWord.modEngine) h

protected theorem Keeps.serveSegment {r} (h : Keeps s0 s) : Keeps s0 (serveSegment s r) := by
  unfold serveSegment
  dsimp only
  split
  · exact h.modEngine.runMicro
  · split
    · rename_i he
      exact (h.modEngine.romPath.of_fst he).runSegment
    · rename_i he
      exact (h.modEngine.romPath.of_fst he).scrambleRegs.runMicro

protected theorem Keeps.jobOn {cl en j n wait} (h : Keeps s0 s) : Keeps s0 (jobOn s cl en j n wait) := by
  unfold jobOn
  dsimp only
  exact Keeps.ite h.requeue h.modEngine.setAside

protected theorem Keeps.scanSegment {cl en j} (h : Keeps s0 s) : Keeps s0 (scanSegment s cl en j) := by
  unfold scanSegment
  dsimp only
  split
  · rename_i he
    exact (h.traceRun.of_fst he).abortCycle
  · rename_i he
    exact (h.traceRun.of_fst he).jobOn
  · rename_i he
    exact Keeps.ite ((h.traceRun.of_fst he).releaseEngine) ((h.traceRun.of_fst he).jobOn)

protected theorem Keeps.copySegment {cl en j} (h : Keeps s0 s) : Keeps s0 (copySegment s cl en j) := by
  unfold copySegment
  dsimp only
  split
  · split
    · rename_i he
      exact (h.copyWords.installForward.of_fst he).agWrite.releaseEngine
    · rename_i he
      exact (h.copyWords.installForward.of_fst he).releaseEngine
  · exact h.copyWords.jobOn

protected theorem Keeps.jobCatalogue {cl en j} (h : Keeps s0 s) : Keeps s0 (jobCatalogue s cl en j) := Keeps.ite h.copySegment h.scanSegment

protected theorem Keeps.runJobMicro {j cl en m fuel} (h : Keeps s0 s) : Keeps s0 (runJobMicro j cl en m fuel s) := by
  induction fuel generalizing m s with
  | zero => exact h.modEngine
  | succ fuel ih =>
    unfold runJobMicro
    extract_lets r commit
    have hcommit {t m1 next} (ht : Keeps s0 t) (hnext : ∀ t, Keeps s0 t → Keeps s0 (next t)) : Keeps s0 (commit t m1 next) := by
      have heffects : RtKeeps (m1.stores.mapM (rtEffect r)) := .mapM (fun _ => .rtEffect) _
      unfold commit
      split
      · rename_i he
        exact (heffects.after ht he).releaseEngine
      · rename_i he
        exact hnext _ (heffects.after ht he).commitStores
    clear_value commit
    split
    · rename_i he
      exact (RtKeeps.microRun.after h he).stopSegment
    · rename_i he
      exact (RtKeeps.microRun.after h he).requeue
    · rename_i he
      exact (RtKeeps.microRun.after h he).releaseEngine
    · rename_i he
      exact (RtKeeps.microRun.after h he).modEngine
    · rename_i he
      exact hcommit (RtKeeps.microRun.after h he) fun _ ht => ht.modEngine.setAside
    · rename_i he
      exact hcommit (RtKeeps.microRun.after h he) fun _ ht => ht.releaseEngine
    · rename_i he
      extract_lets s2
      have h2 : Keeps s0 s2 := (RtKeeps.microRun.after h he).modEngine
      split
      · rename_i he2
        exact hcommit (h2.romPath.of_fst he2) fun _ ht => ht.jobCatalogue
      · rename_i he2
        exact ih (h2.romPath.of_fst he2)

protected theorem Keeps.jobSegment {cl en j} (h : Keeps s0 s) : Keeps s0 (jobSegment s cl en j) := by
  unfold jobSegment
  split
  · exact h.runJobMicro
  · split
    · rename_i he
      exact (h.romPath.of_fst he).jobCatalogue
    · rename_i he
      exact (h.romPath.of_fst he).scrambleRegs.runJobMicro

protected theorem Keeps.routineSegment {cl en} (h : Keeps s0 s) : Keeps s0 (routineSegment s cl en) := by
  unfold routineSegment
  dsimp only
  split
  · exact h.drainStores
  · split
    · exact Keeps.ite h.drainStores h.drainStores.jobSegment
    · exact h.drainStores
    · split
      · exact h.drainStores
      · split
        · exact h.drainStores
        · split
          · exact h.drainStores.failRequest
          · exact h.drainStores.completeRequest
          · exact h.drainStores.serveSegment

protected theorem Keeps.leaveSlot {c} (h : Keeps s0 s) : Keeps s0 (leaveSlot s c) := by
  unfold leaveSlot
  dsimp only
  split
  · exact h.dropRequests.modCtx.freeSlot.touchPending
  · exact h.dropRequests.modCtx.freeSlot

protected theorem Keeps.yieldComplete {c} (h : Keeps s0 s) : Keeps s0 (yieldComplete s c) := by
  unfold yieldComplete
  dsimp only
  exact Keeps.ite h.leaveSlot h

protected theorem Keeps.restartAbandon {c} (h : Keeps s0 s) : Keeps s0 (restartAbandon s c) := by
  unfold restartAbandon
  dsimp only
  exact Keeps.ite h.leaveSlot h

/-! ### System -/

protected theorem Keeps.takeMsg {m seq} (h : Keeps s0 s) : Keeps s0 (takeMsg s m seq) := by
  unfold takeMsg
  dsimp only
  exact Keeps.ite h.frame h.frame

protected theorem Keeps.enterNow {c e} (h : Keeps s0 s) : Keeps s0 (enterNow s c e) := by
  unfold enterNow
  dsimp only
  split
  · exact (Keeps.foldl (fun _ _ hs => hs.walkNow.walkFor) h).takeEntry
  · exact h.takeEntry

protected theorem Keeps.issueInval {t w} (h : Keeps s0 s) : Keeps s0 (issueInval t w s) := by
  unfold issueInval
  dsimp only
  exact h.frame.modCtx

end
end Sys2Proof.Machine

namespace Sys2Proof.Machine
open Sys2Proof

/-! ### What the effects of a packet keep -/

/-- An effect keeps what every command keeps. -/
def EffKeeps (e : Effect) : Prop := ∀ s0 s, Keeps s0 s → Keeps s0 (e.run s)

/-- Where the checks of order 8 let an effect pass, it keeps what every command keeps. -/
def ChkKeeps (r : Chk Effect) : Prop := ∀ e, r = .ok e → EffKeeps e

/-- Where the checks of order 7 and of order 8 let an effect pass, it keeps what every command keeps. -/
def TrigKeeps (r : Chk (Chk Effect)) : Prop := ∀ q, r = .ok q → ChkKeeps q

section
variable {α : Type} {s : State} {t : Trig} {w : Word}

theorem ChkKeeps.error {st : Stop} : ChkKeeps (.error st) := fun _ h => nomatch h

theorem ChkKeeps.ok {b a : Bool} {n : Nat} {f : State → State} (hf : ∀ s0 s, Keeps s0 s → Keeps s0 (f s)) : ChkKeeps (.ok ⟨b, a, n, f⟩) := by
  rintro e ⟨⟩
  exact hf

theorem ChkKeeps.bind {x : Chk α} {f : α → Chk Effect} (hf : ∀ a, ChkKeeps (f a)) : ChkKeeps (x >>= f) := by
  cases x with
  | error st => exact .error
  | ok a => exact hf a

theorem ChkKeeps.bind_effect {x : Chk Effect} {f : Effect → Chk Effect} (hx : ChkKeeps x) (hf : ∀ e, EffKeeps e → ChkKeeps (f e)) :
    ChkKeeps (x >>= f) := by
  cases x with
  | error st => exact .error
  | ok e => exact hf e (hx e rfl)

theorem ChkKeeps.ite {c : Prop} [Decidable c] {x y : Chk Effect} (hx : ChkKeeps x) (hy : ChkKeeps y) : ChkKeeps (if c then x else y) := by
  split
  · exact hx
  · exact hy

theorem TrigKeeps.error {st : Stop} : TrigKeeps (.error st) := fun _ h => nomatch h

theorem TrigKeeps.fail {cause operand ext : Nat} : TrigKeeps (t.fail cause operand ext) := .error

theorem TrigKeeps.ok {q : Chk Effect} (hq : ChkKeeps q) : TrigKeeps (.ok q) := by
  rintro e ⟨⟩
  exact hq

theorem TrigKeeps.pureEff {f : State → State} (hf : ∀ s0 s, Keeps s0 s → Keeps s0 (f s)) : TrigKeeps (pureEff f) := .ok (.ok hf)

theorem TrigKeeps.bind {x : Chk α} {f : α → Chk (Chk Effect)} (hf : ∀ a, TrigKeeps (f a)) : TrigKeeps (x >>= f) := by
  cases x with
  | error st => exact .error
  | ok a => exact hf a

theorem TrigKeeps.ite {c : Prop} [Decidable c] {x y : Chk (Chk Effect)} (hx : TrigKeeps x) (hy : TrigKeeps y) :
    TrigKeeps (if c then x else y) := by
  split
  · exact hx
  · exact hy

theorem ChkKeeps.slotEff {f : State → State} (hf : ∀ s0 s, Keeps s0 s → Keeps s0 (f s)) : ChkKeeps (slotEff t s f) :=
  .ite (.ok fun _ _ h => hf _ _ h.yieldAt) .error

theorem ChkKeeps.hitOrResolve {unit lat pa va dst weak} : ChkKeeps (hitOrResolve t s unit lat pa va dst weak w) := by
  have hresolve : ChkKeeps (Machine.slotEff t s fun s => hitL1 (startOp t unit lat (.resolve pa va w weak) [dst] [dst] s) (coreOf t.e.c) (pa % 2 ^ 36 / 8)) :=
    .slotEff fun _ _ h => h.startOp.hitL1
  refine .ite (.bind fun _ => ?_) (.ok fun _ _ h => h.deliver.hitL1)
  split
  · exact .ite .error (.ite .error hresolve)
  · split
    · exact .error
    · exact hresolve

theorem ChkKeeps.loadEff {unit va dst req stream weak} : ChkKeeps (loadEff t s unit va dst req stream weak) := by
  refine .bind fun _ => .ite .error (.ite ?_ (.ite (.slotEff fun _ _ h => h.startOp) (.ite ?_ ?_)))
  · split
    · exact .error
    · split
      · exact .hitOrResolve
      · exact .slotEff fun _ _ h => h.startOp.askRemote
  · split
    · exact .hitOrResolve
    · exact .slotEff fun _ _ h => h.startOp.askHome
  · split
    · exact .hitOrResolve
    · exact .slotEff fun _ _ h => h.startOp.askFill

theorem ChkKeeps.storeEff {va contGen req barriers} : ChkKeeps (storeEff t s va w contGen req barriers) :=
  .bind fun _ => .ite .error (.ite (.bind fun _ => .bind fun _ => .bind fun _ => .ok fun _ _ h => h.pushStore)
    (.bind fun _ => .bind fun _ => .bind fun _ => .ok fun _ _ h => h.pushStore))

theorem TrigKeeps.alTrig {op} : TrigKeeps (alTrig t op w) := .pureEff fun _ _ h => h.deliver

theorem TrigKeeps.fmTrig {sub} : TrigKeeps (fmTrig t sub w) :=
  .ite .fail (.ite .fail (.ite .fail (.pureEff fun _ _ h => h.deliver)))

theorem TrigKeeps.tgTrig {op} : TrigKeeps (tgTrig t op w) := by
  unfold Machine.tgTrig
  extract_lets lt o ds finish checked
  have hfinish (u : Unit) : TrigKeeps (finish u) := .pureEff fun _ _ h => h.deliver
  have hchecked (u : Unit) : TrigKeeps (checked u) := by
    refine .ite ?_ (hfinish ())
    split
    · exact .bind hfinish
    · exact .bind hfinish
  exact .ite (.bind fun _ => hchecked ()) (hchecked ())

theorem ChkKeeps.routineEff {f : State → State} (hf : ∀ s0 s, Keeps s0 s → Keeps s0 (f s)) : ChkKeeps (routineEff t s f) :=
  .ite .error (.slotEff hf)

theorem TrigKeeps.gaTrig {op} : TrigKeeps (gaTrig t s op w) := by
  unfold Machine.gaTrig
  extract_lets a d fail
  split
  · exact .fail
  · refine .ite .fail (.ite .fail ?_)
    dsimp only
    split
    · exact .pureEff fun _ _ h => h.cancelGaRequest.deliver
    · refine .ite (.ite (.pureEff fun _ _ h => h.deliver) .error) (.ok (.ite (.ok fun _ _ h => h.cancelGaRequest.startRoutine.deliver) ?_))
      exact .routineEff fun _ _ h => h.startRoutine.deliver
    · exact .fail

theorem TrigKeeps.lsLd {stream} : TrigKeeps (lsLd t s w stream) :=
  .bind fun _ => .bind fun _ => .ok (.ite (.bind fun _ => .loadEff) .loadEff)

theorem TrigKeeps.lsSt : TrigKeeps (lsSt t s w) :=
  .bind fun _ => .ite .fail (.ok (.ite (.bind fun _ => .storeEff) .storeEff))

theorem TrigKeeps.lsCar {off} : TrigKeeps (lsCar t s w off) :=
  .ite (.bind fun _ => .pureEff fun _ _ h => h.deliver) (.ite .fail (.bind fun _ => .ok (.bind fun _ => .loadEff)))

theorem TrigKeeps.lsLdf : TrigKeeps (lsLdf t s w) := .bind fun _ => .bind fun _ => .ok .loadEff

theorem TrigKeeps.lsStf : TrigKeeps (lsStf t s w) := .bind fun _ => .ite .fail (.ok .storeEff)

theorem ChkKeeps.casHereEff {pa va typ dst cmp new card} : ChkKeeps (casHereEff t s pa va typ dst cmp new card) := by
  unfold Machine.casHereEff
  extract_lets c a goodc room later w now
  have hroom {k : Chk Effect} (hk : ChkKeeps k) : ChkKeeps (room k) := .bind fun _ => .bind fun _ => hk
  have hlater : ChkKeeps later := hroom (.slotEff fun _ _ h => h.startCas)
  have hnow (h : Word) : ChkKeeps (now h) := hroom (.ok fun _ _ hs => hs.casNow.deliver)
  clear_value later now
  refine .ite hlater (.ite (hnow _) (.ite (hnow _) (.bind fun _ => .ite hlater ?_)))
  split
  · exact .error
  · exact hlater

theorem TrigKeeps.lsCas : TrigKeeps (lsCas t s w) := by
  unfold Machine.lsCas
  extract_lets ptr new cmp queued finish
  have hfinish (a : Nat) : TrigKeeps (finish a) := by
    refine .ite .fail (.bind fun dst => .ok (.bind fun x => .bind fun card => .ite ?_ .casHereEff))
    split
    · exact .error
    · exact .bind fun _ => .slotEff fun _ _ h => .ite h.startCas h.startCas.askRemote
  exact .ite (.bind hfinish) (.bind hfinish)

theorem TrigKeeps.lsFence : TrigKeeps (lsFence t w) := .bind fun _ => .pureEff fun _ _ h => h.modCtx

theorem TrigKeeps.allocate {k words tag user queued} : TrigKeeps (allocate t s k words tag user queued) := by
  refine .ite .fail ?_
  split
  · exact .fail
  · refine .ok (.bind fun ws => ?_)
    extract_lets finish checked
    have hfinish (u : Unit) : ChkKeeps (finish u) := .ok fun _ _ h => h.commitAlloc
    have hchecked (u : Unit) : ChkKeeps (checked u) := by
      unfold checked
      split
      · exact .bind hfinish
      · exact .bind hfinish
    exact .ite (.bind hchecked) (hchecked ())

theorem TrigKeeps.auNew : TrigKeeps (auNew t s w) :=
  .ite .fail (.ite .fail (.ite .fail (.bind fun _ => .bind fun _ => .ite .allocate (.ite .fail (.ite .fail .allocate)))))

theorem TrigKeeps.auCons : TrigKeeps (auCons t s w) := .ite .fail (.ite .fail .allocate)

theorem TrigKeeps.pcJmp {br} : TrigKeeps (pcJmp t w br) := .ite .fail (.bind fun _ => .pureEff fun _ _ h => h.pushXfer)

theorem TrigKeeps.rsPushEff {more : State → State} (hmore : ∀ s0 s, Keeps s0 s → Keeps s0 (more s)) : TrigKeeps (rsPushEff t s w more) :=
  .bind fun _ => .bind fun _ => .ite .fail (.ok (.bind_effect .storeEff fun _ he => .ok fun _ _ h => hmore _ _ (he _ _ h).modCtx))

theorem TrigKeeps.pcCall : TrigKeeps (pcCall t s w) := .ite .fail (.bind fun _ => .rsPushEff fun _ _ h => h.pushXfer)

theorem TrigKeeps.pcRet : TrigKeeps (pcRet t s) :=
  .bind fun _ => .ite .error (.ite .error (.ite .error (.pureEff fun _ _ h => h.modCtx.pushXfer)))

theorem TrigKeeps.pcTdsp : TrigKeeps (pcTdsp t s w) :=
  .ite .fail (.ite .fail (.bind fun _ => .ite .fail (.pureEff fun _ _ h => h.pushXfer)))

theorem TrigKeeps.dsPush : TrigKeeps (dsPush t s w) :=
  .ite .fail (.ite .fail (.ite .fail (.ok (.bind_effect .storeEff fun _ he => .ok fun _ _ h => (he _ _ h).modCtx))))

theorem TrigKeeps.dsPop : TrigKeeps (dsPop t s w) :=
  .bind fun _ => .ite .fail (.ite .fail (.ok (.bind_effect .loadEff fun _ he => .ok fun _ _ h => (he _ _ h).modCtx)))

theorem TrigKeeps.rsDrop : TrigKeeps (rsDrop t w) := .bind fun _ => .pureEff fun _ _ h => h.modCtx

theorem TrigKeeps.rsPush : TrigKeeps (rsPush t s w) := .ite .fail (.rsPushEff fun _ _ h => h)

theorem TrigKeeps.mqSend {sun} : TrigKeeps (mqSend t w sun) := by
  refine .bind fun _ => .ite .fail ?_
  dsimp only
  split
  · exact .error
  · exact .ok (.ite .error (.ok fun _ _ h => .ite h.deliver h.deliver.takeMsg))

theorem TrigKeeps.mqRecv : TrigKeeps (mqRecv t s w) :=
  .bind fun _ => .ite (.pureEff fun _ _ h => h.deliver) (.ok (.slotEff fun _ _ h => h.deliver.startOp))

theorem TrigKeeps.rtGo : TrigKeeps (rtGo t s w) :=
  .ite .fail (.ite .fail (.bind fun _ => .ite (.ok (.routineEff fun _ _ h => h.startRoutine)) (.ite (.pureEff fun _ _ h => h.deliver) .error)))

theorem TrigKeeps.rptCount : TrigKeeps (rptCount t w) := .ite .fail (.ite .fail (.pureEff fun _ _ h => h.modCtx))

theorem TrigKeeps.rptStop : TrigKeeps (rptStop t) := .pureEff fun _ _ h => h.modCtx

theorem ChkKeeps.prefetchEff {va walk} : ChkKeeps (prefetchEff t s va walk) := by
  have hdrop : ChkKeeps (.ok { run := fun s => modCtx s t.e.c fun x => countDrop x t.e.priv }) := .ok fun _ _ h => h.modCtx
  unfold Machine.prefetchEff
  dsimp only
  split
  · exact .error
  · exact hdrop
  · exact .ite hdrop (.ite (.ok fun _ _ h => h.serveEvicted) (.slotEff fun _ _ h => h.startOp.askFill))

theorem TrigKeeps.stDrop : TrigKeeps (stDrop t) := .pureEff fun _ _ h => h.modCtx

theorem TrigKeeps.stPf : TrigKeeps (stPf t s w) := by
  unfold Machine.stPf
  split
  · exact .ok .prefetchEff
  · exact .stDrop

theorem TrigKeeps.stWalk : TrigKeeps (stWalk t s w) := .ite .fail (.ite (.ok .prefetchEff) .stDrop)

theorem TrigKeeps.stHalt : TrigKeeps (stHalt t) := .pureEff fun _ _ h => h.modCtx

theorem TrigKeeps.syGate : TrigKeeps (syGate t s w) := by
  refine .ite .fail (.ite .error (.bind fun w0 => .bind fun w1 => .ite .error (.ite .error (.ite .error (.ite .error ?_)))))
  split
  · exact .error
  · split
    · exact .error
    · refine .ite ?_ (.ite .error (.ite .error (.ok (.bind fun _ => .bind fun _ => .bind fun _ => .ok fun _ _ h => h.pushStore))))
      split
      · exact .error
      · refine .ok ?_
        split
        · exact .error
        · exact .ok fun _ _ h => h.enterNow

theorem TrigKeeps.syEret : TrigKeeps (syEret t s) := by
  refine .ok (.ite .error (.bind fun ws => .ite .error (.ite .error (.ite .error ?_))))
  dsimp only
  split
  · exact .error
  · exact .error
  · exact .ite .error (.ok fun _ _ h => h.modCtx.onEret)

theorem TrigKeeps.syCrrd : TrigKeeps (syCrrd t s) :=
  .bind fun _ => .ite .fail (.ite (.ok .error) (.pureEff fun _ _ h => h.crReadEffect.deliver))

theorem TrigKeeps.syCrwr : TrigKeeps (syCrwr t s w) := by
  refine .bind fun n => .ite .fail (.ite .fail ?_)
  split
  · exact .ite .error .error
  · exact .ite (.ite (.pureEff fun _ _ h => h) .error) (.ite (.ok .error) (.pureEff fun _ _ h => h.crWriteEffect))

theorem TrigKeeps.syTlbi : TrigKeeps (syTlbi t w) :=
  .ite .fail (.ite .fail (.ok (.ite .error (.ok fun _ _ h => h.issueInval))))

theorem TrigKeeps.syTlbsync : TrigKeeps (syTlbsync t) := .pureEff fun _ _ h => h.modCtx

theorem TrigKeeps.syUdrain : TrigKeeps (syUdrain t) := .pureEff fun _ _ h => h.modCtx

theorem TrigKeeps.syTbrd : TrigKeeps (syTbrd t) := .pureEff fun _ _ h => h.deliver

theorem TrigKeeps.byOrder {r : Chk (Chk Effect)} (h : TrigKeeps r) : TrigKeeps (byOrder r) := by
  unfold Machine.byOrder
  split
  · exact .error
  · exact .error
  · exact .error
  · exact .error
  · exact .ok .error
  · exact .ok .error
  · exact .ok .error
  · exact .ok .error
  · exact h

theorem TrigKeeps.trigger : TrigKeeps (trigger t s w) := by
  unfold Machine.trigger
  split
  · exact .alTrig
  · exact .alTrig
  · exact .alTrig
  · exact .alTrig
  · exact .alTrig
  · exact .alTrig
  · exact .alTrig
  · exact .alTrig
  · exact .alTrig
  · exact .gaTrig
  · exact .gaTrig
  · exact .gaTrig
  · exact .gaTrig
  · exact .fmTrig
  · exact .tgTrig
  · exact .tgTrig
  · exact .tgTrig
  · exact .lsLd
  · exact .lsSt
  · exact .lsCar
  · exact .lsCar
  · exact .lsLdf
  · exact .lsStf
  · exact .auNew
  · exact .auCons
  · exact .pcJmp
  · exact .pcJmp
  · exact .pcCall
  · exact .pcRet
  · exact .pcTdsp
  · exact .dsPush
  · exact .dsPop
  · exact .mqSend
  · exact .mqRecv
  · exact .rptCount
  · exact .rptStop
  · exact .stPf
  · exact .lsCas
  · exact .gaTrig
  · exact .gaTrig
  · exact .gaTrig
  · exact .gaTrig
  · exact .gaTrig
  · exact .fmTrig
  · exact .tgTrig
  · exact .tgTrig
  · exact .tgTrig
  · exact .lsLd
  · exact .lsFence
  · exact .rsDrop
  · exact .rsPush
  · exact .mqSend
  · exact .rtGo
  · exact .stWalk
  · exact .stHalt
  · exact .syGate
  · exact .syEret
  · exact .syCrrd
  · exact .syCrwr
  · exact .syTlbi
  · exact .syTlbsync
  · exact .syUdrain
  · exact .syTbrd

/-- Where the checks of a move let an effect pass, it keeps what every command keeps. -/
def MoveKeeps (r : Chk (Word × Option (Chk Effect))) : Prop := ∀ v q, r = .ok (v, some q) → ChkKeeps q

theorem MoveKeeps.error {st : Stop} : MoveKeeps (.error st) := fun _ _ h => nomatch h

theorem MoveKeeps.none : MoveKeeps (.ok (w, .none)) := fun _ _ h => nomatch h

theorem MoveKeeps.some {q : Chk Effect} (hq : ChkKeeps q) : MoveKeeps (.ok (w, .some q)) := by
  rintro v q ⟨⟩
  exact hq

theorem MoveKeeps.bind {x : Chk α} {f : α → Chk (Word × Option (Chk Effect))} (hf : ∀ a, MoveKeeps (f a)) : MoveKeeps (x >>= f) := by
  cases x with
  | error st => exact .error
  | ok a => exact hf a

theorem MoveKeeps.bind_trigger {x : Chk (Chk Effect)} {f : Chk Effect → Chk (Word × Option (Chk Effect))} (hx : TrigKeeps x)
    (hf : ∀ q, ChkKeeps q → MoveKeeps (f q)) : MoveKeeps (x >>= f) := by
  cases x with
  | error st => exact .error
  | ok q => exact hf q (hx q rfl)

theorem MoveKeeps.ite {c : Prop} [Decidable c] {x y : Chk (Word × Option (Chk Effect))} (hx : MoveKeeps x) (hy : MoveKeeps y) :
    MoveKeeps (if c then x else y) := by
  split
  · exact hx
  · exact hy

theorem MoveKeeps.examineMove {e : Env} {lm : LiveMove} : MoveKeeps (examineMove s e lm) := by
  unfold Machine.examineMove
  extract_lets m none' p finish
  have hfinish (u : Unit) : MoveKeeps (finish u) := by
    refine .bind fun _ => ?_
    split
    · exact .bind fun _ => .bind fun _ => .some .error
    · exact .error
    · exact .error
    · exact .error
    · refine .ite .error ?_
      split
      · exact .ite .error (.ite .error .error)
      · exact .bind fun _ => .bind fun _ => .ite .error
          (.ite (.bind_trigger (.byOrder .trigger) fun _ hq => .some hq) .none)
  refine .bind fun _ => .ite .none ?_
  split
  · exact .bind hfinish
  · exact .bind hfinish
  · exact .bind hfinish

theorem keeps_examineAll {e : Env} {lms : List LiveMove} {rs : List (Word × Option (Chk Effect))} (h : examineAll s e lms = .ok rs) :
    ∀ q ∈ rs.filterMap Prod.snd, ChkKeeps q := by
  induction lms generalizing rs with
  | nil =>
    cases h
    simp
  | cons lm lms ih =>
    rcases hm : examineMove s e lm with st | ⟨v, o⟩
    · simp [examineAll, hm, bind, Except.bind] at h
    rcases ha : examineAll s e lms with st | rs'
    · simp [examineAll, hm, ha, bind, Except.bind] at h
    simp [examineAll, hm, ha, bind, Except.bind] at h
    subst h
    cases o with
    | none => simpa using ih ha
    | some q =>
      simp only [List.filterMap_cons, List.mem_cons, forall_eq_or_imp]
      exact ⟨MoveKeeps.examineMove v q hm, ih ha⟩

theorem keeps_collectEffects {qs : List (Chk Effect)} {ws : List WalkReq} {es fs : List Effect} (hq : ∀ q ∈ qs, ChkKeeps q)
    (he : ∀ e ∈ es, EffKeeps e) (h : collectEffects qs ws es = .ok fs) : ∀ f ∈ fs, EffKeeps f := by
  fun_induction collectEffects qs ws es with
  | case1 es =>
    cases h
    simpa using he
  | case2 ws es => nomatch h
  | case3 ef rest ws es ih =>
    simp only [List.mem_cons, forall_eq_or_imp] at hq
    obtain ⟨hef, hrest⟩ := hq
    refine ih hrest ?_ h
    simp only [List.mem_cons, forall_eq_or_imp]
    exact ⟨hef ef rfl, he⟩
  | case4 w rest ws es ih => exact ih (fun q hm => hq q (List.mem_cons_of_mem _ hm)) he h
  | case5 st rest es => nomatch h
  | case6 st rest ws es => nomatch h

/-- The effects of a packet that its examination lets pass keep what every command keeps. -/
def ReadyKeeps (x : Chk Ready) : Prop := ∀ r, x = .ok r → ∀ f ∈ r.effs, EffKeeps f

theorem ReadyKeeps.error {st : Stop} : ReadyKeeps (.error st) := fun _ h => nomatch h

theorem ReadyKeeps.bind {x : Chk α} {f : α → Chk Ready} (hf : ∀ a, x = .ok a → ReadyKeeps (f a)) : ReadyKeeps (x >>= f) := by
  cases x with
  | error st => exact .error
  | ok a => exact hf a rfl

theorem ReadyKeeps.ite {c : Prop} [Decidable c] {x y : Chk Ready} (hx : ReadyKeeps x) (hy : ReadyKeeps y) : ReadyKeeps (if c then x else y) := by
  split
  · exact hx
  · exact hy

theorem packetRoom_eq {c : Nat} {es fs : List Effect} (h : packetRoom s c es = .ok fs) : fs = es := by
  unfold packetRoom at h
  split at h
  · cases h
  · split at h
    · cases h
    · cases h
      rfl

theorem ReadyKeeps.examine {c : Nat} : ReadyKeeps (examine s c w) := by
  refine .ite .error (.ite .error ?_)
  split
  · exact .error
  · extract_lets moves
    split
    · exact .error
    · refine .ite .error ?_
      split
      · exact .error
      · refine .bind fun rs hrs => .bind fun effs heffs => .bind fun effs' hroom => ?_
        rintro r ⟨⟩
        rw [packetRoom_eq hroom]
        exact keeps_collectEffects (keeps_examineAll hrs) (by simp) heffs

end
end Sys2Proof.Machine

namespace Sys2Proof.Machine
open Sys2Proof

section
variable {s0 : Origin} {s : State}

/-! ### Fabric -/

protected theorem Keeps.storeFailed {c seq st va} (h : Keeps s0 s) : Keeps s0 (storeFailed s c seq st va) := Keeps.ite h.modCtx h.report

protected theorem Keeps.collAnswered {r st w} (h : Keeps s0 s) : Keeps s0 (collAnswered s r st w) := by
  unfold collAnswered
  split
  · exact h.abortCycle
  · split
    · exact Keeps.ite h.healTraced h
    · split
      · rename_i he
        exact (h.traceWord.of_fst he)
      · rename_i he
        exact (h.traceWord.of_fst he).abortCycle
      · rename_i he
        exact (h.traceWord.of_fst he).askScan
    · exact h.modColl
    · exact h

protected theorem Keeps.remoteDone {r st w0} (h : Keeps s0 s) : Keeps s0 (remoteDone s r st w0) := by
  unfold remoteDone
  dsimp only
  split
  · exact h.frame.setResult
  · exact Keeps.ite h.frame h.frame.storeFailed
  · split
    · exact Keeps.ite h.frame.routineFailed h.frame
    · split
      · exact h.frame
      · split
        · exact h.frame.modEngine
        · exact h.frame.modEngine
        · exact h.frame
  · exact h.frame.collAnswered
  · exact h.frame.collAnswered
  · exact h.frame.collAnswered
  · exact Keeps.ite h.frame h.frame.report
  · exact h.frame

protected theorem Keeps.modFlow {k f} (h : Keeps s0 s) : Keeps s0 (modFlow s k f) := h.frame

protected theorem Keeps.flowRefused {f c} (h : Keeps s0 s) : Keeps s0 (flowRefused s f c) := h.report

protected theorem Keeps.freeCondition (h : Keeps s0 s) : Keeps s0 (freeCondition s).2 := by
  unfold freeCondition
  dsimp only
  exact h.drawNat

protected theorem Keeps.holdVcore (h : Keeps s0 s) : Keeps s0 (holdVcore s) := by
  unfold holdVcore
  dsimp only
  exact h.frame

protected theorem Keeps.grantFlow {k} (h : Keeps s0 s) : Keeps s0 (grantFlow s k) := by
  unfold grantFlow
  dsimp only
  exact Keeps.ite h.holdVcore.modFlow.modQ h.holdVcore.modFlow

protected theorem Keeps.tryFlow {k} (h : Keeps s0 s) : Keeps s0 (tryFlow s k) := by
  unfold tryFlow
  dsimp only
  split
  · exact h
  · split
    · exact h.freeCondition.flowRefused
    · split
      · split
        · exact h.flowRefused
        · split
          · exact h.flowRefused
          · exact h.grantFlow
      · split
        · exact h.flowRefused
        · exact h.sendCtrl

protected theorem Keeps.tryFlows {which} (h : Keeps s0 s) : Keeps s0 (tryFlows s which) := Keeps.foldl (fun _ _ h => h.tryFlow) h

protected theorem Keeps.enterRecords {rs} (h : Keeps s0 s) : Keeps s0 (enterRecords s rs) := by
  unfold enterRecords
  dsimp only
  exact Keeps.foldl (fun _ _ hs => hs.frame) h

protected theorem Keeps.enterFlows {p} (h : Keeps s0 s) : Keeps s0 (enterFlows s p) := h.enterRecords

protected theorem Keeps.lowerSunres {queue burst} (h : Keeps s0 s) : Keeps s0 (lowerSunres s queue burst) := h.modQ

protected theorem Keeps.endReservation {k} (h : Keeps s0 s) : Keeps s0 (endReservation s k) := by
  unfold endReservation
  dsimp only
  exact Keeps.ite h.modFlow.lowerSunres h.modFlow

protected theorem Keeps.refuseOutbox {which st} (h : Keeps s0 s) : Keeps s0 (refuseOutbox s which st) := by
  unfold refuseOutbox
  dsimp only
  exact Keeps.foldl (fun _ _ hs => hs.refuseMsg) h.frame

protected theorem Keeps.failFlow {k} (h : Keeps s0 s) : Keeps s0 (failFlow s k) := by
  unfold failFlow
  dsimp only
  exact Keeps.ite h h.endReservation.refuseOutbox.ringDoorbell

protected theorem Keeps.settleWithdraw (h : Keeps s0 s) : Keeps s0 (settleWithdraw s) := by
  unfold settleWithdraw
  dsimp only
  exact Keeps.foldl (fun _ _ hs => hs.sendCtrl) ((Keeps.foldl (fun _ _ hs => hs.sendCtrl) h.frame).frame)

protected theorem Keeps.sendWithdraw {kind p dev ix} (h : Keeps s0 s) : Keeps s0 (sendWithdraw s kind p dev ix) := h.frame.settleWithdraw

protected theorem Keeps.withdrawFlow {k} (h : Keeps s0 s) : Keeps s0 (withdrawFlow s k) := by
  unfold withdrawFlow
  dsimp only
  exact Keeps.ite h (Keeps.ite h.endReservation h.endReservation.sendWithdraw)

protected theorem Keeps.dropFlows {p} (h : Keeps s0 s) : Keeps s0 (dropFlows s p) := by
  unfold dropFlows
  dsimp only
  exact (Keeps.foldl (fun _ _ h => h.withdrawFlow) h).frame

protected theorem Keeps.addInFlow {f} (h : Keeps s0 s) : Keeps s0 (addInFlow s f) := by
  unfold addInFlow
  dsimp only
  exact h.holdVcore.frame.modQ

protected theorem Keeps.endInFlows {which} (h : Keeps s0 s) : Keeps s0 (endInFlows s which) := by
  unfold endInFlows
  dsimp only
  exact Keeps.foldl (fun _ _ hs => hs.lowerSunres) h.frame

protected theorem Keeps.recheckLink {dev} (h : Keeps s0 s) : Keeps s0 (recheckLink s dev) := by
  unfold recheckLink
  dsimp only
  exact Keeps.foldl (fun _ _ hs => hs.failFlow) h

protected theorem Keeps.setRoute {p dev port} (h : Keeps s0 s) : Keeps s0 (setRoute s p dev port) := h.frame

protected theorem Keeps.dropRoute {p dev} (h : Keeps s0 s) : Keeps s0 (dropRoute s p dev) := h.frame

protected theorem Keeps.askRoute {p dev via} (h : Keeps s0 s) : Keeps s0 (askRoute s p dev via) := h.sendCtrl

protected theorem Keeps.tellForward {src r} (h : Keeps s0 s) : Keeps s0 (tellForward s src r) := h.sendCtrl

protected theorem Keeps.openRoutes {dev} (h : Keeps s0 s) : Keeps s0 (openRoutes s dev) := by
  unfold openRoutes
  dsimp only
  exact Keeps.foldl (fun _ _ hs => Keeps.ite (Keeps.foldl (fun _ _ hs => hs.tellForward) hs) (Keeps.ite hs.tellForward hs)) (Keeps.foldl (fun _ _ hs => hs.askRoute) h)

protected theorem Keeps.detour {dev} (h : Keeps s0 s) : Keeps s0 (detour s dev) := by
  unfold detour
  refine Keeps.foldl (fun _ _ hs => ?_) h
  split
  · exact hs.askRoute
  · exact hs

protected theorem Keeps.withdrawRoute {r} (h : Keeps s0 s) : Keeps s0 (withdrawRoute s r) := by
  unfold withdrawRoute
  dsimp only
  exact Keeps.ite h.dropRoute.sendWithdraw h.dropRoute.sendWithdraw.sendWithdraw

protected theorem Keeps.withdrawRoutes {p} (h : Keeps s0 s) : Keeps s0 (withdrawRoutes s p) := Keeps.foldl (fun _ _ h => h.withdrawRoute) h

protected theorem Keeps.resync (h : Keeps s0 s) : Keeps s0 (resync s) := by
  unfold resync
  dsimp only
  exact Keeps.ite h.frame h.frame

protected theorem Keeps.chargeLane {port lane} (h : Keeps s0 s) : Keeps s0 (chargeLane s port lane) := h.modPort.report

protected theorem Keeps.startTraining {port} (h : Keeps s0 s) : Keeps s0 (startTraining s port) := h.modPort

protected theorem Keeps.holdPort {port reason} (h : Keeps s0 s) : Keeps s0 (holdPort s port reason) := by
  unfold holdPort
  dsimp only
  exact h.modPort.report

protected theorem Keeps.reflReturn {p} (h : Keeps s0 s) : Keeps s0 (reflReturn s p) := by
  unfold reflReturn
  dsimp only
  split
  · exact h
  · split
    · exact Keeps.foldl (fun _ _ hs => hs.sendFlit) h.frame
    · exact h.frame

protected theorem Keeps.dropTwoHop {dev} (h : Keeps s0 s) : Keeps s0 (dropTwoHop s dev) := by
  unfold dropTwoHop
  dsimp only
  exact Keeps.foldl (fun _ _ hs => Keeps.foldl (fun _ _ hs =>
      Keeps.ite (Keeps.foldl (fun _ _ hs => hs.sendWithdraw) hs) (hs.when fun hs => hs.sendWithdraw)) hs)
      (Keeps.foldl (fun _ _ hs => hs.sendWithdraw) (Keeps.foldl (fun _ _ hs => hs.dropRoute.sendWithdraw) h).frame)

protected theorem Keeps.dropTraffic {port} (h : Keeps s0 s) : Keeps s0 (dropTraffic s port) := by
  unfold dropTraffic
  dsimp only
  exact Keeps.ite h ((Keeps.foldl (fun _ _ hs => hs.remoteDone) ((Keeps.foldl (fun _ _ hs => hs.failFlow) h).endInFlows)).refuseOutbox.dropTwoHop)

protected theorem Keeps.linkFail {port cause} (h : Keeps s0 s) : Keeps s0 (linkFail s port cause) := by
  unfold linkFail
  extract_lets p dev s5 q ctrl late lane s6 relay s7 s8
  have h6 : Keeps s0 s6 := h.report.dropTraffic.startTraining.modPort.reflReturn
  have h7 : Keeps s0 s7 := h6.either (fun h => (Keeps.foldl (fun _ _ hs => hs.sendFlit) h).detour) fun h => h.frame
  have hcharge : ∀ o : Option Nat, Keeps s0 (match o with | some l => chargeLane s7 port l | none => s7)
    | some _ => h7.chargeLane
    | none => h7
  have h8 : Keeps s0 s8 := hcharge lane
  exact Keeps.ite h (h8.when fun h => h.modPort.holdPort).resync.settleWithdraw

protected theorem Keeps.syncBoard (h : Keeps s0 s) : Keeps s0 (syncBoard s) := by
  unfold syncBoard
  dsimp only
  exact Keeps.ite (Keeps.foldl (fun _ _ hs => hs.linkFail) h.resync) h.resync

protected theorem Keeps.notePresent {dev} (h : Keeps s0 s) : Keeps s0 (notePresent s dev) := by
  unfold notePresent
  dsimp only
  exact Keeps.ite h.frame.syncBoard h

protected theorem Keeps.countViolation {port kind} (h : Keeps s0 s) : Keeps s0 (countViolation s port kind) := by
  unfold countViolation
  dsimp only
  exact Keeps.ite h.modPort.report.linkFail h.modPort.report

protected theorem Keeps.oddViolation {port} (h : Keeps s0 s) : Keeps s0 (oddViolation s port) := by
  unfold oddViolation
  dsimp only
  exact h.drawNat.countViolation

protected theorem Keeps.retrainPort {port out} (h : Keeps s0 s) : Keeps s0 (retrainPort s port out) := by
  unfold retrainPort
  dsimp only
  exact h.modPort

protected theorem Keeps.retireLane {port lane} (h : Keeps s0 s) : Keeps s0 (retireLane s port lane) := by
  unfold retireLane
  dsimp only
  exact Keeps.ite h.modPort.frame.report.linkFail.dropTraffic.holdPort (Keeps.ite h.modPort.frame.report.retrainPort h.modPort.frame.report)

protected theorem Keeps.rxFlit {port vc n} (h : Keeps s0 s) : Keeps s0 (rxFlit s port vc n) := h.modPort

protected theorem Keeps.rxItem {port typ vc x} (h : Keeps s0 s) : Keeps s0 (rxItem s port typ vc x) := Keeps.ite h.modPort h.rxFlit.modPort

protected theorem Keeps.takeMarkReq {p} (h : Keeps s0 s) : Keeps s0 (takeMarkReq s p).1 := by
  unfold takeMarkReq
  split
  · split
    · exact h
    · split
      · exact h
      · split
        · exact h.withdrawEnd.pair
        · exact (Keeps.foldl (fun _ _ hs => hs.markLogged) h).pair
  · exact h

protected theorem Keeps.judgePeer {p port} (h : Keeps s0 s) : Keeps s0 (judgePeer s p port) := by
  unfold judgePeer
  dsimp only
  split
  · exact (Keeps.ite h.takeMarkReq.countViolation h.takeMarkReq).sendAck
  · split
    · exact h.countViolation.sendAck
    · split
      · exact h.sendAck.linkFail
      · split
        · exact h.sendAck
        · split
          · exact h.sealedRefused.sendAck
          · split
            · exact h.placeMsg.sendAck
            · exact (Keeps.ite h.countViolation h).sendAck

protected theorem Keeps.forwardMsg {p from'} (h : Keeps s0 s) : Keeps s0 (forwardMsg s p from') := by
  unfold forwardMsg
  dsimp only
  split
  · exact h.countViolation.sendAck
  · split
    · exact h.sendMsgFlits
    · exact h.sendAck

protected theorem Keeps.wakeQueue {q} (h : Keeps s0 s) : Keeps s0 (wakeQueue s q) := h.clusterBack

protected theorem Keeps.messageArrival {src m} (h : Keeps s0 s) : Keeps s0 (messageArrival s src m) := by
  unfold messageArrival
  dsimp only
  split
  · exact (h.when fun h => h.wakeQueue).either (fun h => h) fun h => h.rxFlit.either (fun h => h.countViolation) fun h =>
      h.either (fun h => h.oddViolation) fun h => h.either (fun h => h.judgePeer) fun h => h.forwardMsg
  · exact h
  · split
    · exact Keeps.ite h.wakeQueue.frame.judgeLocal h.wakeQueue
    · exact h

/-! ### Afterglow -/

protected theorem Keeps.withAlert {s' : State} (h : Keeps s0 s) : Keeps s0 (withAlert s' s) := Keeps.ite h.signalMsix h

protected theorem Keeps.sealItem {i} (h : Keeps s0 s) : Keeps s0 (sealItem s i).2 := by
  unfold sealItem
  dsimp only
  split
  · exact h.frame.pair_snd
  · exact h

protected theorem Keeps.shipItem {i} (h : Keeps s0 s) : Keeps s0 (shipItem s i) := by
  unfold shipItem
  dsimp only
  exact h.sealItem.frame

protected theorem Keeps.modGlow {f} (h : Keeps s0 s) : Keeps s0 (modGlow s f) := h.frame

protected theorem Keeps.putBank {r seq} (h : Keeps s0 s) : Keeps s0 (putBank s r seq) := by
  unfold putBank
  dsimp only
  exact Keeps.ite h.modGlow.shipItem h.modGlow

protected theorem Keeps.takeSeq (h : Keeps s0 s) : Keeps s0 (takeSeq s).2 := by
  unfold takeSeq
  dsimp only
  exact h.modGlow

protected theorem Keeps.writeOne {r} (h : Keeps s0 s) : Keeps s0 (writeOne s r) := by
  unfold writeOne
  dsimp only
  split
  · exact (((h.takeSeq.when fun h => h.modGlow).when fun h => h.modGlow).when fun h => h.putBank).when fun h => h.shipItem
  · exact ((h.takeSeq.when fun h => h.modGlow).when fun h => h.modGlow).when fun h => h.putBank

protected theorem Keeps.writeNext {r} (h : Keeps s0 s) : Keeps s0 (writeNext s r) := by
  unfold writeNext
  dsimp only
  exact Keeps.ite h.writeOne.writeOne h.writeOne

protected theorem Keeps.writeRec {r} (h : Keeps s0 s) : Keeps s0 (writeRec s r) := by
  unfold writeRec
  dsimp only
  exact (Keeps.ite h.writeNext h).writeNext.withAlert

protected theorem Keeps.writeSupp {code} (h : Keeps s0 s) : Keeps s0 (writeSupp s code) := by
  unfold writeSupp
  split
  · exact h
  · exact h.modGlow.writeRec

protected theorem Keeps.limited {r time subj} (h : Keeps s0 s) : Keeps s0 (limited s r time subj) := by
  unfold limited
  dsimp only
  exact Keeps.ite h.modGlow.writeSupp.writeRec h.modGlow

protected theorem Keeps.closeAgg {ix token} (h : Keeps s0 s) : Keeps s0 (closeAgg s ix token) := by
  unfold closeAgg
  dsimp only
  split
  · exact h
  · exact Keeps.ite h.modGlow (Keeps.ite h.modGlow.limited h.modGlow.writeRec)

protected theorem Keeps.aggregate {code subj wit t} (h : Keeps s0 s) : Keeps s0 (aggregate s code subj wit t).2 := by
  unfold aggregate
  extract_lets s1
  have h1 : Keeps s0 s1 := by
    unfold s1
    split
    · exact h.closeAgg
    · exact h
  clear_value s1
  split
  · exact h1.modGlow.pair_snd
  · split
    · exact h1.modGlow.pair_snd
    · exact h1.modGlow.pair_snd

protected theorem Keeps.modLife {f} (h : Keeps s0 s) : Keeps s0 (modLife s f) := h.frame

protected theorem Keeps.ringScratch {cl} (h : Keeps s0 s) : Keeps s0 (ringScratch s cl) := by
  unfold ringScratch
  dsimp only
  exact Keeps.foldl (fun _ _ hs => hs.ringDoorbell) h

protected theorem Keeps.loseScratch {cl way} (h : Keeps s0 s) : Keeps s0 (loseScratch s cl way) := h.clearScratch.ringScratch

protected theorem Keeps.giveBackWay {cl} (h : Keeps s0 s) : Keeps s0 (giveBackWay s cl) := by
  unfold giveBackWay
  dsimp only
  split
  · exact h
  · split
    · exact h.flushWay.modCluster
    · split
      · exact h.loseScratch.modCluster
      · exact h

protected theorem Keeps.retireWay {unit kind way} (h : Keeps s0 s) : Keeps s0 (retireWay s unit kind way) := by
  unfold retireWay
  dsimp only
  split
  · exact (Keeps.ite h.loseScratch h.flushWay).modCluster.giveBackWay.modLife
  · exact (Keeps.foldl (fun _ _ hs => hs.flushLine) h).modCore.modLife
  · exact h.modCore.modLife

protected theorem Keeps.retire {cls subj} (h : Keeps s0 s) : Keeps s0 (retire s cls subj) := by
  unfold retire
  dsimp only
  split
  · exact Keeps.ite h.drawBool.modLife.report.modLife h.drawBool.report
  · exact h.retireWay.report.modLife
  · exact h.retireWay.report.modLife
  · exact h.retireWay.report.modLife
  · exact h.retireLane.modLife
  · exact h.modEngine.modLife.report.modLife
  · exact h

protected theorem Keeps.refreshPen (h : Keeps s0 s) : Keeps s0 (refreshPen s) := by
  unfold refreshPen
  dsimp only
  exact h.frame

protected theorem Keeps.setPen {f} (h : Keeps s0 s) : Keeps s0 (setPen s f) := h.modGlow.refreshPen

protected theorem Keeps.charge {cls full subj t} (h : Keeps s0 s) : Keeps s0 (charge s cls full subj t) := by
  unfold charge
  dsimp only
  split
  · exact Keeps.ite ((Keeps.ite h.setPen h).setPen.retire) ((Keeps.ite h.setPen h).setPen)
  · split
    · split
      · exact (Keeps.ite h.setPen h).retire
      · split
        · exact (Keeps.ite h.setPen h).setPen
        · split
          · exact Keeps.ite h.setPen h
          · exact (Keeps.ite h.setPen h).modGlow.setPen.limited
    · split
      · exact (Keeps.ite h.setPen h).retire
      · split
        · exact (Keeps.ite h.setPen h).setPen
        · split
          · exact Keeps.ite h.setPen h
          · exact (Keeps.ite h.setPen h).modGlow.setPen.limited

protected theorem Keeps.recordReport {r} (h : Keeps s0 s) : Keeps s0 (recordReport s r) := by
  unfold recordReport
  dsimp only
  split
  · exact h
  · split
    · split
      · exact h.aggregate
      · refine Keeps.limited ?_
        split
        · exact h.aggregate.charge
        · exact h.aggregate
    · split
      · exact h
      · refine Keeps.limited ?_
        split
        · exact h.charge
        · exact h

protected theorem Keeps.tellLost (h : Keeps s0 s) : Keeps s0 (tellLost s) := by
  unfold tellLost
  dsimp only
  exact Keeps.ite h h.modGlow.limited

protected theorem Keeps.ringFailed {addr} (h : Keeps s0 s) : Keeps s0 (ringFailed s addr) := by
  unfold ringFailed
  dsimp only
  exact Keeps.ite h h.modGlow.limited.withAlert

protected theorem Keeps.poisonMem {source pa n} (h : Keeps s0 s) : Keeps s0 (poisonMem s source pa n) := Keeps.foldl (fun _ _ hs => hs.writeWord) h

protected theorem Keeps.unitError {r} (h : Keeps s0 s) : Keeps s0 (unitError s r) := by
  have hboot : Keeps s0 { s with trust := { s.trust with bootBad := true } } := h.change rfl (.inl rfl) rfl rfl id (.refl _)
  unfold unitError
  dsimp only
  split
  · exact h.poisonMem
  · exact h.poisonMem
  · split
    · exact h.setCore
    · exact h
  · exact Keeps.ite h.poisonMem h.modCluster
  · exact h.engineError
  · exact h.frame
  · exact hboot
  · exact hboot
  · exact h

protected theorem Keeps.afterglowReport {a} (h : Keeps s0 s) : Keeps s0 (afterglowReport s a) := by
  unfold afterglowReport
  split
  · exact Keeps.ite h.ringFailed (Keeps.ite h (Keeps.ite h h.unitError.enterReport))
  · split
    · exact h
    · exact h.frame.recordReport.tellLost

protected theorem Keeps.aggEntryClose {ix} (h : Keeps s0 s) : Keeps s0 (aggEntryClose s ix) := by
  unfold aggEntryClose
  split
  · exact Keeps.ite h.closeAgg h
  · exact h

protected theorem Keeps.suppTimeout {code} (h : Keeps s0 s) : Keeps s0 (suppTimeout s code) := by
  unfold suppTimeout
  split
  · exact Keeps.ite h.writeSupp h
  · exact h

protected theorem Keeps.drainGap (h : Keeps s0 s) : Keeps s0 (drainGap s) := by
  unfold drainGap
  dsimp only
  exact Keeps.ite h h.modGlow.limited

protected theorem Keeps.drainStep {n} (h : Keeps s0 s) : Keeps s0 (drainStep s n) := by
  induction n generalizing s with
  | zero => exact h
  | succ n ih =>
    unfold drainStep
    exact Keeps.ite h (Keeps.ite (ih h.modGlow) h.modGlow.sendHw)

protected theorem Keeps.afterglowDrain (h : Keeps s0 s) : Keeps s0 (afterglowDrain s) := Keeps.ite h h.drainGap.drainStep

protected theorem Keeps.drainRetry (h : Keeps s0 s) : Keeps s0 (drainRetry s) := by
  unfold drainRetry
  split
  · exact Keeps.ite h.modGlow.drainGap.drainStep h
  · exact h

protected theorem Keeps.ringScrub {bad} (h : Keeps s0 s) : Keeps s0 (ringScrub s bad) := by
  unfold ringScrub
  dsimp only
  split
  · exact h
  · exact h.modGlow.ringFailed

protected theorem Keeps.penExpiry {ix} (h : Keeps s0 s) : Keeps s0 (penExpiry s ix) := by
  unfold penExpiry
  split
  · exact Keeps.ite h.setPen h
  · exact h

protected theorem Keeps.closeAll {token} (h : Keeps s0 s) : Keeps s0 (closeAll s token) := Keeps.foldl (fun _ _ hs => hs.closeAgg) h

protected theorem Keeps.agClearFb (h : Keeps s0 s) : Keeps s0 (agClearFb s) := h.modGlow

protected theorem Keeps.agcmdWrite {v} (h : Keeps s0 s) : Keeps s0 (agcmdWrite s v) := by
  unfold agcmdWrite
  split
  · exact h
  · exact h.agClearFb
  · exact h.closeAll
  · exact h.report

protected theorem Keeps.flushAfterglow (h : Keeps s0 s) : Keeps s0 (flushAfterglow s) := by
  unfold flushAfterglow
  dsimp only
  exact Keeps.foldl (fun _ _ h => h.writeSupp) h.modGlow.closeAll

/-! ### Lifetime -/

protected theorem Keeps.addHist {typ svn id} (h : Keeps s0 s) : Keeps s0 (addHist s typ svn id) := by
  unfold addHist
  dsimp only
  exact Keeps.ite h h.modLife

protected theorem Keeps.restoreLife (h : Keeps s0 s) : Keeps s0 (restoreLife s) := by
  unfold restoreLife
  split
  · exact Keeps.ite h h.modLife.report
  · exact Keeps.ite h h.modLife.report

protected theorem Keeps.lifetimePageWrite (h : Keeps s0 s) : Keeps s0 (lifetimePageWrite s) := by
  unfold lifetimePageWrite
  dsimp only
  exact Keeps.ite h (Keeps.ite h.drawBool.frame.modLife.modLife.report h.drawBool.frame.modLife.modLife.report)

protected theorem Keeps.ltcmdSave (h : Keeps s0 s) : Keeps s0 (ltcmdSave s) := h.modLife

protected theorem Keeps.modCal {f} (h : Keeps s0 s) : Keeps s0 (modCal s f) := h.frame

protected theorem Keeps.armAlarm (h : Keeps s0 s) : Keeps s0 (armAlarm s) := by
  unfold armAlarm
  dsimp only
  exact h.modCal

protected theorem Keeps.calsecWrite {w} (h : Keeps s0 s) : Keeps s0 (calsecWrite s w) := by
  unfold calsecWrite
  dsimp only
  exact Keeps.ite h h.modCal.report.armAlarm

protected theorem Keeps.caltrimWrite {w} (h : Keeps s0 s) : Keeps s0 (caltrimWrite s w) := Keeps.ite h h.modCal.armAlarm

protected theorem Keeps.calalmWrite {v} (h : Keeps s0 s) : Keeps s0 (calalmWrite s v) := h.modCal.armAlarm

protected theorem Keeps.calOscFail (h : Keeps s0 s) : Keeps s0 (calOscFail s) := Keeps.ite h h.modCal.report

protected theorem Keeps.execVbakLoss (h : Keeps s0 s) : GoesOn s0 (execVbakLoss s) := by
  unfold execVbakLoss
  dsimp only
  exact h.frame.armAlarm.next

/-! ### Reset -/

protected theorem Keeps.zeroFill {lo n} (h : Keeps s0 s) : Keeps s0 (zeroFill s lo n) := by
  have hdiscard {lines : List Nat} : Keeps s0 (lines.foldl discardLine s) := .foldl (fun _ _ hs => hs.discardLine) h
  exact hdiscard.change rfl (.inl rfl) rfl rfl (wf_filter _) (.refl _)

protected theorem Keeps.zeroGrants {gs} (h : Keeps s0 s) : Keeps s0 (zeroGrants s gs) := Keeps.foldl (fun _ _ hs => hs.zeroFill) h

/-- The trust state changes by a function that lets no minimum version fall. -/
protected theorem Keeps.modTrust {f} (h : Keeps s0 s) (hf : ∀ u, FusesLe u (f u) := by exact fun u => FusesLe.refl u) : Keeps s0 (modTrust s f) :=
  h.change rfl (.inl rfl) rfl rfl id (hf _)

protected theorem Keeps.mapSealed {gs} (h : Keeps s0 s) : Keeps s0 (mapSealed s gs) := by
  refine h.modTrust fun u => ?_
  dsimp only
  split
  · exact .refl u
  · exact .refl u

protected theorem Keeps.startSealed {p} (h : Keeps s0 s) : Keeps s0 (startSealed s p) := by
  unfold startSealed
  dsimp only
  exact Keeps.ite h h.zeroGrants.modTrust.mapSealed

protected theorem Keeps.stopSealed {p} (h : Keeps s0 s) : Keeps s0 (stopSealed s p) := by
  unfold stopSealed
  dsimp only
  exact Keeps.ite h.zeroGrants.modTrust h

protected theorem Keeps.loadQueue {p r} (h : Keeps s0 s) : Keeps s0 (loadQueue s p r) := by
  unfold loadQueue
  dsimp only
  exact Keeps.ite h.modQ.modQ h.modQ

protected theorem Keeps.loadOwner {m} (h : Keeps s0 s) : Keeps s0 (loadOwner s m) := h.frame

protected theorem Keeps.loadDefaults {m} (h : Keeps s0 s) : Keeps s0 (loadDefaults s m) := Keeps.foldl (fun _ _ hs => hs.modCtx) h

protected theorem Keeps.loadPart {m} (h : Keeps s0 s) : Keeps s0 (loadPart s m) := by
  unfold loadPart
  dsimp only
  exact Keeps.foldl (fun _ _ hs => hs.loadQueue) h.setPart.loadOwner.loadDefaults

protected theorem Keeps.dropTlbs {p} (h : Keeps s0 s) : Keeps s0 (dropTlbs s p) := by
  unfold dropTlbs
  dsimp only
  exact h.frame

protected theorem Keeps.dropEngineWork {p} (h : Keeps s0 s) : Keeps s0 (dropEngineWork s p) := by
  unfold dropEngineWork
  dsimp only
  exact h.dropJobs.frame

protected theorem Keeps.partitionReset {p} (h : Keeps s0 s) : Keeps s0 (partitionReset s p) := by
  unfold partitionReset
  dsimp only
  split
  · exact h
  · exact (Keeps.foldl (fun _ _ hs => hs.contextReset.modCtx) (Keeps.foldl (fun _ _ h => h.flushQ)
      h.stopSealed.dropEngineWork.dropFlows)).dropTlbs.loadPart.startSealed.enterFlows.tryFlows

/-- A reset programs the fuses that wait for it. -/
protected theorem Keeps.resetCore {warm} (h : Keeps s0 s) : Keeps s0 (resetCore s warm) :=
  h.change rfl (.inl rfl) rfl rfl id (fusesLe_blows s.trust s.trust.blows)

protected theorem Keeps.warmReset (h : Keeps s0 s) (hr : s0.samples) : Keeps s0 (warmReset s) :=
  h.flushAfterglow.resetCore.change rfl (.inr ⟨hr, rfl⟩) rfl rfl id (.refl _)

protected theorem Keeps.warmWriteback (h : Keeps s0 s) : Keeps s0 (warmWriteback s) := by
  have hflush {lines : List Nat} : Keeps s0 (lines.foldl flushLine s) := .foldl (fun _ _ hs => hs.flushLine) h
  exact hflush.change rfl (.inl rfl) rfl rfl (wf_filter _) (.refl _)

protected theorem Keeps.coldReset (h : Keeps s0 s) : Keeps s0 (coldReset s) := by
  unfold coldReset
  dsimp only
  exact (Keeps.ite h.flushAfterglow h).resetCore.frame

protected theorem Keeps.execColdReset (h : Keeps s0 s) (hr : s0.samples) : GoesOn s0 (execColdReset s) := by
  refine Keeps.next (h.coldReset.change rfl (.inr ⟨hr, ?_⟩) rfl rfl id (.refl _))
  exact (Keeps.refl s (p := True)).coldReset.boardSlot.symm

protected theorem Keeps.refclkLoss (h : Keeps s0 s) : Keeps s0 (refclkLoss s) := by
  unfold refclkLoss
  dsimp only
  exact Keeps.ite h h.frame.recordReport.withAlert.coldReset.frame

protected theorem Keeps.execRefclkReturn (h : Keeps s0 s) : GoesOn s0 (execRefclkReturn s) := by
  unfold execRefclkReturn
  dsimp only
  split
  · exact h.frame.next
  · exact h.next

protected theorem Keeps.execRailLoss {rail} (h : Keeps s0 s) : GoesOn s0 (execRailLoss rail s) := by
  unfold execRailLoss
  dsimp only
  split
  · exact h.next
  · exact h.coldReset.frame.next

protected theorem Keeps.execRailReturn (h : Keeps s0 s) : GoesOn s0 (execRailReturn s) := by
  unfold execRailReturn
  dsimp only
  exact h.frame.next

protected theorem Keeps.execVaonLoss (h : Keeps s0 s) : GoesOn s0 (execVaonLoss s) := by
  unfold execVaonLoss
  have hr : Keeps s0 (coldReset { s with power := { s.power with vaon := false } }) := Keeps.coldReset h.frame
  exact Keeps.next (hr.change rfl (.inl rfl) rfl rfl id (.refl _))

/-! ### Boot -/

protected theorem Keeps.enterStage {n} (h : Keeps s0 s) : Keeps s0 (enterStage s n) := h.modTrust.report.withAlert

protected theorem Keeps.stageFailed {n subj} (h : Keeps s0 s) : Keeps s0 (stageFailed s n subj) := h.frame.report

protected theorem Keeps.serviceMode (h : Keeps s0 s) : Keeps s0 (serviceMode s) := h.modGlow

protected theorem Keeps.releaseNoImage (h : Keeps s0 s) : Keeps s0 (releaseNoImage s) := h.enterStage.serviceMode.resync

protected theorem Keeps.ringAtReset (h : Keeps s0 s) : Keeps s0 (ringAtReset s) := by
  unfold ringAtReset
  dsimp only
  exact Keeps.ite h (Keeps.ite h.drawBool.modTrust.modGlow.writeRec h.drawBool.modTrust.modGlow)

protected theorem Keeps.lanternStage (h : Keeps s0 s) : Keeps s0 (lanternStage s) := by
  unfold lanternStage
  dsimp only
  exact (h.restoreLife.modLife.ringAtReset.armAlarm.when fun h => h.report).either (fun h => h.stageFailed.enterStage) fun h =>
      (h.either (fun h => h) fun h => h.frame.report).modTrust.enterStage

protected theorem Keeps.acceptSlot {n} (h : Keeps s0 s) : Keeps s0 (acceptSlot s n) := by
  unfold acceptSlot
  dsimp only
  exact h.modTrust.addHist.enterStage

protected theorem Keeps.rejectSlot {n check} (h : Keeps s0 s) : Keeps s0 (rejectSlot s n check) := h.report

protected theorem Keeps.verifyStage (h : Keeps s0 s) : Keeps s0 (verifyStage s) := by
  unfold verifyStage
  dsimp only
  split
  · exact h.acceptSlot
  · split
    · exact h.rejectSlot.acceptSlot
    · exact h.rejectSlot.rejectSlot.stageFailed.enterStage

protected theorem Keeps.applyRetired (h : Keeps s0 s) : Keeps s0 (applyRetired s) := by
  unfold applyRetired
  dsimp only
  exact (Keeps.foldl (fun _ _ hs => hs.modPort) (Keeps.foldl (fun _ _ hs => hs.modEngine) (Keeps.foldl (fun _ _ hs => hs.modCore)
      (Keeps.foldl (fun _ _ hs => hs.modCluster) h)))).modLife

protected theorem Keeps.firmwareStage (h : Keeps s0 s) : Keeps s0 (firmwareStage s) := by
  unfold firmwareStage
  split
  · exact h.releaseNoImage
  · extract_lets s1 s2
    have h1 : Keeps s0 { s1 with mem := [] } := h.applyRetired.change rfl (.inl rfl) rfl rfl (fun _ => wf_nil) (.refl _)
    have h2 : Keeps s0 s2 := Keeps.ite h.applyRetired h1.modTrust
    exact Keeps.enterStage h2.frame

protected theorem Keeps.scrubStage (h : Keeps s0 s) : Keeps s0 (scrubStage s) := by
  unfold scrubStage
  dsimp only
  exact Keeps.ite h.releaseNoImage ((Keeps.ite h.zeroFill h.zeroGrants).modTrust.enterStage)

protected theorem Keeps.takeCapsule {off len} (h : Keeps s0 s) : Keeps s0 (takeCapsule s off len) := by
  unfold takeCapsule
  dsimp only
  exact Keeps.ite h.report (Keeps.ite h.report (Keeps.ite h.report (Keeps.ite h.report (Keeps.ite h.report (Keeps.ite h.report
      (Keeps.ite h.report (Keeps.ite h.report h.modTrust.addHist.report)))))))

protected theorem Keeps.capsuleStage (h : Keeps s0 s) : Keeps s0 (capsuleStage s) := by
  unfold capsuleStage
  dsimp only
  exact (Keeps.foldl (fun _ _ hs => hs.takeCapsule) h.modTrust).enterStage

protected theorem Keeps.loadCluster {c} (h : Keeps s0 s) : Keeps s0 (loadCluster s c) := by
  unfold loadCluster
  dsimp only
  exact h.modCluster

protected theorem Keeps.loadPorts (h : Keeps s0 s) : Keeps s0 (loadPorts s) := by
  unfold loadPorts
  dsimp only
  exact Keeps.foldl (fun _ _ hs => Keeps.ite hs.holdPort hs.startTraining) (Keeps.ite (Keeps.foldl (fun _ _ hs => hs.holdPort) h)
      (Keeps.foldl (fun _ _ hs => Keeps.ite hs.holdPort hs.startTraining) h))

protected theorem Keeps.loadImage {m} (h : Keeps s0 s) : Keeps s0 (loadImage s m) := by
  unfold loadImage
  dsimp only
  exact (Keeps.foldl (fun _ _ h => h.loadPart) (Keeps.foldl (fun _ _ h => h.loadCluster) h.frame)).frame.loadPorts.enterRecords.tryFlows.resync

protected theorem Keeps.imageStage (h : Keeps s0 s) : Keeps s0 (imageStage s) := by
  unfold imageStage
  dsimp only
  split
  · exact h.report.releaseNoImage
  · exact h.loadImage.report.addHist.enterStage

protected theorem Keeps.startBoot {m} (h : Keeps s0 s) : Keeps s0 (startBoot s m) := by
  unfold startBoot
  dsimp only
  exact Keeps.ite h h.startContext

protected theorem Keeps.startPair (h : Keeps s0 s) : Keeps s0 (startPair s) := by
  unfold startPair
  dsimp only
  split
  · exact Keeps.ite h.frame h
  · exact h

protected theorem Keeps.keysStage (h : Keeps s0 s) : Keeps s0 (keysStage s) := by
  unfold keysStage
  dsimp only
  exact (Keeps.foldl (fun _ _ h => h.startBoot) ((Keeps.foldl (fun _ _ h => h.startSealed) (Keeps.ite h.modTrust h.frame.report)).enterStage.serviceMode)).startPair

protected theorem Keeps.bootStageComplete (h : Keeps s0 s) : Keeps s0 (bootStageComplete s) := by
  unfold bootStageComplete
  split
  · exact h
  · split
    · exact h.warmWriteback.modTrust.enterStage
    · split
      · exact h.enterStage
      · exact h.lanternStage
      · exact h.verifyStage
      · exact h.firmwareStage
      · exact h.scrubStage
      · exact h.capsuleStage
      · exact h.imageStage
      · exact h.keysStage
      · exact h

protected theorem Keeps.execRngHealthFail (h : Keeps s0 s) : GoesOn s0 (execRngHealthFail s) := by
  unfold execRngHealthFail
  dsimp only
  split
  · exact h.modTrust.frame.report.next
  · exact h.next

/-! ### Issue -/

protected theorem Keeps.l1iInstall {core va line data} (h : Keeps s0 s) : Keeps s0 (l1iInstall s core va line data) := by
  unfold l1iInstall
  dsimp only
  split
  · exact h.setCore
  · split
    · exact h.drawNat.setCore
    · exact h.drawNat

protected theorem Keeps.fetchAt {c pc pa} (h : Keeps s0 s) : Keeps s0 (fetchAt s c pc pa).1 := by
  unfold fetchAt
  dsimp only
  split
  · exact h
  · split
    · split
      · exact h.reclaimWb.askFill.pair
      · exact (Keeps.ite (Keeps.ite h.reclaimWb.settleLost.mergeL1 h.reclaimWb) ((Keeps.ite h.reclaimWb.settleLost.mergeL1 h.reclaimWb).touchL2)).modCore.l1iInstall.pair
    · exact (Keeps.ite (Keeps.ite h.settleLost.mergeL1 h) ((Keeps.ite h.settleLost.mergeL1 h).touchL2)).modCore.l1iInstall.pair

protected theorem Keeps.fetchStep {c} (h : Keeps s0 s) : Keeps s0 (fetchStep s c) := by
  unfold fetchStep
  dsimp only
  split
  · exact h
  · split
    · exact h
    · exact h.modCtx
    · split
      · rename_i he
        exact (h.fetchAt.of_fst he).modCtx
      · rename_i he
        exact (h.fetchAt.of_fst he)

protected theorem Keeps.noteIdle {cl} (h : Keeps s0 s) : Keeps s0 (noteIdle s cl) := by
  unfold noteIdle
  dsimp only
  exact h.modCluster

protected theorem Keeps.countStep {core} (h : Keeps s0 s) : Keeps s0 (countStep s core) := h.modCore.noteIdle

protected theorem Keeps.issuedBy {core c} (h : Keeps s0 s) : Keeps s0 (issuedBy s core c) := by
  unfold issuedBy
  dsimp only
  exact h.modCluster.modCore.modCtx

protected theorem Keeps.countAhead {c} (h : Keeps s0 s) : Keeps s0 (countAhead s c) := by
  unfold countAhead
  dsimp only
  split
  · exact Keeps.ite h h.modCore
  · exact h

protected theorem Keeps.commit {c r} (hr : ∀ f ∈ r.effs, EffKeeps f) (h : Keeps s0 s) : Keeps s0 (commit s c r) := by
  have hrun (p : Effect → Bool) {t : State} (ht : Keeps s0 t) : Keeps s0 ((r.effs.filter p).foldl (fun s f => f.run s) t) :=
    List.foldlRecOn (motive := Keeps s0) _ _ ht fun _ hs f hf => hr f (List.mem_of_mem_filter hf) s0 _ hs
  have hwrites {t : State} (ht : Keeps s0 t) : Keeps s0 (r.writes.foldl (fun s e =>
      if (portAt e.1.dest).kind = .greg then writeG s c (e.1.dest - 0x40) e.2 else s) t) := .foldl (fun _ _ hs => .ite hs.writeG hs) ht
  unfold commit
  dsimp only
  exact Keeps.ite (hrun _ (hrun _ (hwrites h.lostFails.setCtx)).countAhead.modCtx).contextReset
    (hrun _ (hrun _ (hwrites h.lostFails.setCtx)).countAhead.modCtx)

protected theorem Keeps.takeSlot {c kind result} (h : Keeps s0 s) : Keeps s0 (takeSlot s c kind result) := by
  unfold takeSlot
  dsimp only
  exact Keeps.ite h.modCtx.yieldPrefetch.freshOp.modCtx h.modCtx.onPark

protected theorem Keeps.stopPacket {c a} (h : Keeps s0 s) : Keeps s0 (stopPacket s c a) := by
  unfold stopPacket
  dsimp only
  split
  · exact h.tellSealed.modCtx.faultEntry
  · exact h.tellSealed.modCtx.faultEntry
  · exact h.tellSealed.modCtx.faultEntry
  · exact h.modCtx.onPark
  · exact h.modCtx.faultEntry
  · split
    · exact h.modCtx.walkBegin
    · exact h.modCtx.onPark
  · exact h.takeSlot
  · exact h.takeSlot

protected theorem Keeps.issueCtx {c} (h : Keeps s0 s) : Keeps s0 (issueCtx s c) := by
  unfold issueCtx
  dsimp only
  split
  · exact h.modCtx.stopPacket
  · split
    · exact h.modCtx.stopPacket
    · split
      · exact h.modCtx.setCtx
      · split
        · exact h.modCtx.stopPacket
        · split
          · rename_i he
            exact h.modCtx.commit (ReadyKeeps.examine _ he)
          · exact h.modCtx.stopPacket

protected theorem Keeps.parityLoss {core a} (h : Keeps s0 s) : Keeps s0 (parityLoss s core a) := by
  unfold parityLoss
  dsimp only
  split
  · exact h.modCore.report
  · exact h.frame.modCluster.report
  · exact h.modCore.report
  · exact h.modEngine.report
  · exact h.modCluster.report
  · exact h.modCtx
  · exact h.modCore.report

protected theorem Keeps.packetIssue {core loss} (h : Keeps s0 s) : Keeps s0 (packetIssue s core loss) := by
  unfold packetIssue
  dsimp only
  split
  · split
    · exact h.parityLoss.countStep
    · split
      · exact h.parityLoss.countStep
      · exact Keeps.ite h.parityLoss h.parityLoss.issuedBy.issueCtx
  · split
    · exact h.countStep
    · split
      · exact h.countStep
      · exact Keeps.ite h h.issuedBy.issueCtx

protected theorem Keeps.interruptTaken {core} (h : Keeps s0 s) : Keeps s0 (interruptTaken s core) := by
  unfold interruptTaken
  split
  · exact h
  · split
    · exact h
    · exact Keeps.ite h.issuedBy.modCtx.interruptEntry h

protected theorem Keeps.asyncEntry {c f} (h : Keeps s0 s) : Keeps s0 (asyncEntry s c f) := by
  unfold asyncEntry
  dsimp only
  exact h.enterNow

protected theorem Keeps.deferredStoreFault {c} (h : Keeps s0 s) : Keeps s0 (deferredStoreFault s c) := by
  unfold deferredStoreFault
  dsimp only
  split
  · exact h
  · exact Keeps.ite h.setCtx.asyncEntry h

protected theorem Keeps.nurserySuspend {c} (h : Keeps s0 s) : Keeps s0 (nurserySuspend s c) := by
  unfold nurserySuspend
  dsimp only
  split
  · exact h
  · exact Keeps.ite h.setCtx.asyncEntry h

protected theorem Keeps.receiveWithdraw {c} (h : Keeps s0 s) : Keeps s0 (receiveWithdraw s c) := by
  unfold receiveWithdraw
  dsimp only
  split
  · exact h
  · split
    · split
      · split
        · exact h.setCtx.removeWaiter.settleSlot.touchPending
        · exact h.setCtx.removeWaiter.settleSlot.touchPending
        · exact h.setCtx.removeWaiter.settleSlot
      · exact h.setCtx
    · exact h.setCtx

protected theorem Keeps.beginWaiting {core} (h : Keeps s0 s) : Keeps s0 (beginWaiting s core) := by
  unfold beginWaiting
  dsimp only
  split
  · exact h.walkBegin
  · exact h

protected theorem Keeps.tlbWalkComplete {c} (h : Keeps s0 s) : Keeps s0 (tlbWalkComplete s c) := by
  unfold tlbWalkComplete
  dsimp only
  split
  · split
    · exact h.walkBegin
    · split
      · rename_i he
        exact (h.walkFor.of_fst he)
      · rename_i he
        split
        · exact (h.walkFor.of_fst he).modCtx.walkBegin
        · exact (h.walkFor.of_fst he).modCtx.beginWaiting
  · exact h

protected theorem Keeps.fenceEnd {c} (h : Keeps s0 s) : Keeps s0 (fenceEnd s c) := by
  unfold fenceEnd
  dsimp only
  split
  · exact Keeps.ite h (Keeps.ite h.flushLog (Keeps.ite h h.setCtx))
  · exact h

protected theorem Keeps.udrainEnd {c} (h : Keeps s0 s) : Keeps s0 (udrainEnd s c) := by
  unfold udrainEnd
  dsimp only
  exact Keeps.ite h.lostFails.setCtx h

protected theorem Keeps.removeEntries {v a} (h : Keeps s0 s) : Keeps s0 (removeEntries s v a) := by
  unfold removeEntries
  dsimp only
  split
  · exact Keeps.foldl (fun _ _ hs => Keeps.ite hs hs.setCtx) h.modCore
  · exact h.modCluster
  · exact h.modCluster

protected theorem Keeps.tlbiReceive {u} (h : Keeps s0 s) : Keeps s0 (tlbiReceive s u) := by
  unfold tlbiReceive
  dsimp only
  split
  · exact h
  · exact h.removeEntries.frame

protected theorem Keeps.tlbiAck {u} (h : Keeps s0 s) : Keeps s0 (tlbiAck s u) := by
  unfold tlbiAck
  dsimp only
  split
  · exact h
  · exact Keeps.ite h.frame.modCtx h.frame

/-! ### Power -/

protected theorem Keeps.modPower {f} (h : Keeps s0 s) : Keeps s0 (modPower s f) := h.frame

protected theorem Keeps.setDomLast {n} (h : Keeps s0 s) : Keeps s0 (setDomLast s n) := h.modPower

protected theorem Keeps.domainBusy {d} (h : Keeps s0 s) : Keeps s0 (domainBusy s d) := h.setDomLast.report

protected theorem Keeps.setClState {cl p} (h : Keeps s0 s) : Keeps s0 (setClState s cl p) := h.modCluster

protected theorem Keeps.setClLast {n} (h : Keeps s0 s) : Keeps s0 (setClLast s n) := h.modPower

protected theorem Keeps.clusterOff {cl} (h : Keeps s0 s) : Keeps s0 (clusterOff s cl) :=
    Keeps.ite h.setClLast (Keeps.ite h.setClLast (Keeps.ite h.setClState.setClLast h.setClLast.domainBusy))

protected theorem Keeps.drainCluster {cl} (h : Keeps s0 s) : Keeps s0 (drainCluster s cl) := by
  unfold drainCluster
  dsimp only
  exact (Keeps.foldl (fun _ _ h => h.flushLine) h).modCluster

protected theorem Keeps.loseCluster {cl} (h : Keeps s0 s) : Keeps s0 (loseCluster s cl) := by
  unfold loseCluster
  dsimp only
  exact h.frame.setCluster

protected theorem Keeps.drainDone {cl} (h : Keeps s0 s) : Keeps s0 (drainDone s cl) :=
    Keeps.ite h (Keeps.ite h.drainCluster.loseCluster.setClLast h.drainCluster.setClState.setClLast.domainBusy)

protected theorem Keeps.clusterOn {cl} (h : Keeps s0 s) : Keeps s0 (clusterOn s cl) := Keeps.ite h.setClLast h.clusterBack.setClLast

protected theorem Keeps.clcmdWrite {v} (h : Keeps s0 s) : Keeps s0 (clcmdWrite s v) := by
  unfold clcmdWrite
  split
  · exact h
  · exact h.clusterOff
  · exact h.clusterOn
  · exact h.setClLast

protected theorem Keeps.retainEntry {cl} (h : Keeps s0 s) : Keeps s0 (retainEntry s cl) := by
  unfold retainEntry
  dsimp only
  split
  · exact Keeps.ite h.setClState h
  · exact h

protected theorem Keeps.clusterWake {cl} (h : Keeps s0 s) : Keeps s0 (clusterWake s cl) := Keeps.ite h.setClState.modPower h

protected theorem Keeps.stackSleep {st} (h : Keeps s0 s) : Keeps s0 (stackSleep s st) := Keeps.ite h h.modPower

protected theorem Keeps.domainOff {d} (h : Keeps s0 s) : Keeps s0 (domainOff s d) := by
  unfold domainOff
  dsimp only
  have hd : Keeps s0 (Machine.setDomLast s 0) := h.setDomLast
  exact Keeps.ite hd.clusterOff (Keeps.ite (Keeps.ite hd (Keeps.ite hd.modPower hd.domainBusy)) (Keeps.ite (Keeps.ite hd hd.domainBusy)
        (Keeps.ite (Keeps.ite hd (Keeps.ite hd.modPort.modPower hd.domainBusy)) (Keeps.ite (Keeps.ite hd.domainBusy hd.modPower)
          (Keeps.ite (Keeps.ite hd.domainBusy hd.modPower.modTrust) hd)))))

protected theorem Keeps.domainWake {d} (h : Keeps s0 s) : Keeps s0 (domainWake s d) :=
    Keeps.ite h (Keeps.ite h.clusterBack (Keeps.ite h.modPower (Keeps.ite h.stackBack (Keeps.ite h.modPower h))))

protected theorem Keeps.throttleSome (h : Keeps s0 s) : Keeps s0 (throttleSome s) := by
  unfold throttleSome
  dsimp only
  exact Keeps.foldl (fun _ _ hs => hs.drawBool.drawNat.modCluster) h

protected theorem Keeps.throttleAll {k} (h : Keeps s0 s) : Keeps s0 (throttleAll s k) := Keeps.foldl (fun _ _ hs => hs.modCluster) h

protected theorem Keeps.vcoreAdjust {busy watts cap} (h : Keeps s0 s) : Keeps s0 (vcoreAdjust s busy watts cap) := by
  unfold vcoreAdjust
  dsimp only
  exact Keeps.ite h (Keeps.ite h.drawBool.modPower.throttleAll (Keeps.ite h.drawBool.modPower.throttleSome h.drawBool.modPower.throttleAll))

protected theorem Keeps.vrqAlert {low} (h : Keeps s0 s) : Keeps s0 (vrqAlert s low) := h.modPower.throttleAll

protected theorem Keeps.withdrawHot (h : Keeps s0 s) : Keeps s0 (withdrawHot s) := by
  unfold withdrawHot
  dsimp only
  exact Keeps.foldl (fun _ _ h => h.failFlow) (Keeps.foldl (fun _ _ hs => hs.linkFail) h)

protected theorem Keeps.thermalChange {tj} (h : Keeps s0 s) : Keeps s0 (thermalChange s tj) := by
  unfold thermalChange
  dsimp only
  exact Keeps.ite ((Keeps.ite h.modPower.modPower h.modPower).withdrawHot) (Keeps.ite h.modPower.modPower h.modPower)

protected theorem Keeps.thermalExcursion (h : Keeps s0 s) : Keeps s0 (thermalExcursion s) := by
  unfold thermalExcursion
  split
  · exact Keeps.ite h.modPower.modLife.report h
  · exact h

protected theorem Keeps.thermalReadmit (h : Keeps s0 s) : Keeps s0 (thermalReadmit s) := by
  unfold thermalReadmit
  split
  · exact Keeps.ite h.modPower.tryFlows h
  · exact h

protected theorem Keeps.thermtrip (h : Keeps s0 s) : Keeps s0 (thermtrip s) := by
  unfold thermtrip
  dsimp only
  exact Keeps.ite h (Keeps.foldl (fun _ _ hs => hs.modPort) ((Keeps.foldl (fun _ _ h => h.loseCluster) h.modPower.modLife.recordReport.withAlert).frame))

protected theorem Keeps.setTimerPend {c} (h : Keeps s0 s) : Keeps s0 (setTimerPend s c) := by
  unfold setTimerPend
  dsimp only
  exact h.modCtx

protected theorem Keeps.timerExpiry {c} (h : Keeps s0 s) : Keeps s0 (timerExpiry s c) := by
  unfold timerExpiry
  split
  · exact Keeps.ite h.setTimerPend.modCtx h
  · exact h

protected theorem Keeps.setTmLast {p n} (h : Keeps s0 s) : Keeps s0 (setTmLast s p n) := h.modPart

protected theorem Keeps.tmdlWrite {p w} (h : Keeps s0 s) : Keeps s0 (tmdlWrite s p w) := by
  unfold tmdlWrite
  dsimp only
  split
  · exact h
  · split
    · exact h.setTmLast
    · split
      · exact h.modCtx.setTmLast
      · split
        · exact Keeps.ite h.setTmLast.setTimerPend.modCtx h.setTmLast.modCtx
        · split
          · exact Keeps.ite h.setTmLast.setTimerPend.modCtx h.setTmLast.modCtx
          · exact h.setTmLast

protected theorem Keeps.tmctxWrite {p w} (h : Keeps s0 s) : Keeps s0 (tmctxWrite s p w) := by
  unfold tmctxWrite
  dsimp only
  exact Keeps.ite h (Keeps.ite h.modPart h.setTmLast)

protected theorem Keeps.wdRestart (h : Keeps s0 s) : Keeps s0 (wdRestart s) := h.modPower

protected theorem Keeps.wdctlWrite {w} (h : Keeps s0 s) : Keeps s0 (wdctlWrite s w) := by
  unfold wdctlWrite
  dsimp only
  exact Keeps.ite h (Keeps.ite h.modPower.wdRestart h.modPower)

protected theorem Keeps.watchdogFire (h : Keeps s0 s) (hr : s0.samples) : Keeps s0 (watchdogFire s) := by
  unfold watchdogFire
  dsimp only
  exact Keeps.ite (Keeps.ite (h.modPower.withAlert.warmReset hr) h.modPower.withAlert) h

protected theorem Keeps.alarmFire (h : Keeps s0 s) : Keeps s0 (alarmFire s) := by
  unfold alarmFire
  dsimp only
  exact Keeps.ite h.frame.withAlert.signalMsix h

protected theorem Keeps.pwrctlWrite {v} (h : Keeps s0 s) : Keeps s0 (pwrctlWrite s v) := by
  unfold pwrctlWrite
  dsimp only
  exact h.modPower

/-! ### Sealing -/

protected theorem Keeps.setSlLast {p n} (h : Keeps s0 s) : Keeps s0 (setSlLast s p n) := h.modPart

protected theorem Keeps.fillLine {line} (h : Keeps s0 s) : Keeps s0 (fillLine s line) := by
  unfold fillLine
  dsimp only
  exact h.discardLine.drawBool.writeWords

protected theorem Keeps.fillLines {lo n} (h : Keeps s0 s) : Keeps s0 (fillLines s lo n) := Keeps.foldl (fun _ _ hs => hs.fillLine) h

protected theorem Keeps.slwinlWrite {p w} (h : Keeps s0 s) : Keeps s0 (slwinlWrite s p w) := by
  unfold slwinlWrite
  dsimp only
  exact Keeps.ite h.setSlLast (Keeps.ite h.setSlLast (Keeps.ite h.setSlLast (Keeps.ite h.setSlLast h.fillLines.fillLines.modPart)))

protected theorem Keeps.windowFillDone {p} (h : Keeps s0 s) : Keeps s0 (windowFillDone s p) := by
  unfold windowFillDone
  split
  · exact h.zeroFill.zeroFill.modPart
  · exact h

protected theorem Keeps.settleStale {line} (h : Keeps s0 s) : Keeps s0 (settleStale s line) := by
  unfold settleStale
  dsimp only
  split
  · exact h
  · exact h.drawBool.writeWords.modTrust

protected theorem Keeps.takeSlcmd {p cmd words total} (h : Keeps s0 s) : Keeps s0 (takeSlcmd s p cmd words total) := by
  unfold takeSlcmd
  dsimp only
  exact Keeps.ite h.setSlLast (Keeps.ite h.setSlLast (Keeps.ite h.setSlLast h.modPart))

protected theorem Keeps.putWords {a ws} (h : Keeps s0 s) : Keeps s0 (putWords s a ws) := Keeps.foldl (fun _ _ hs => hs.homeWrite) h

protected theorem Keeps.sealingDone {p} (h : Keeps s0 s) : Keeps s0 (sealingDone s p) := by
  unfold sealingDone
  dsimp only
  split
  · exact h.putWords.modPart
  · exact h.modPart.modPart
  · exact h

protected theorem Keeps.slcmdWrite {p v} (h : Keeps s0 s) : Keeps s0 (slcmdWrite s p v) := by
  unfold slcmdWrite
  split
  · exact h
  · exact h.takeSlcmd
  · exact h.takeSlcmd
  · exact h.setSlLast

protected theorem Keeps.sealingWrite {p off w} (h : Keeps s0 s) : Keeps s0 (sealingWrite s p off w) := by
  unfold sealingWrite
  split
  · exact h.slwinlWrite
  · split
    · exact h
    · split
      · exact h.setSlLast
      · split
        · exact h.modPart
        · exact h.modPart
        · exact h.slcmdWrite

/-! ### Broif -/

protected theorem Keeps.orderRetrain {port} (h : Keeps s0 s) : Keeps s0 (orderRetrain s port) := by
  unfold orderRetrain
  dsimp only
  split
  · exact h.retrainPort
  · exact h.retrainPort
  · exact Keeps.ite h.startTraining h
  · exact h

protected theorem Keeps.attemptFailed {port} (h : Keeps s0 s) : Keeps s0 (attemptFailed s port) := by
  unfold attemptFailed
  dsimp only
  exact Keeps.ite h.dropTraffic.modPort.holdPort h.dropTraffic.modPort.startTraining

protected theorem Keeps.portUp {dev} (h : Keeps s0 s) : Keeps s0 (portUp s dev) := by
  unfold portUp
  dsimp only
  exact Keeps.ite h.syncBoard.openRoutes.recheckLink.tryFlows h.syncBoard.openRoutes.recheckLink

protected theorem Keeps.chargeMissing {port want lanes} (h : Keeps s0 s) : Keeps s0 (chargeMissing s port want lanes) := Keeps.foldl (fun _ _ hs => hs.chargeLane) h

protected theorem Keeps.trainStep {port n} (h : Keeps s0 s) : Keeps s0 (trainStep s port n) := h.modPort

protected theorem Keeps.trainChecks {port} (h : Keeps s0 s) : Keeps s0 (trainChecks s port) := by
  unfold trainChecks
  dsimp only
  exact Keeps.ite h.holdPort (Keeps.ite h.holdPort h.trainStep)

protected theorem Keeps.trainUp {port} (h : Keeps s0 s) : Keeps s0 (trainUp s port) := by
  unfold trainUp
  dsimp only
  exact Keeps.ite h.modPort h.modPort.portUp

protected theorem Keeps.trainHear {port v tSend} (h : Keeps s0 s) : Keeps s0 (trainHear s port v tSend) := h.modPort

protected theorem Keeps.trainFlit {port v tSend tEcho tTurn} (h : Keeps s0 s) : Keeps s0 (trainFlit s port v tSend tEcho tTurn) := by
  unfold trainFlit
  dsimp only
  split
  · exact Keeps.ite h h.countViolation
  · split
    · exact h
    · split
      · exact h.trainHear
      · exact h.trainHear.modPort
      · exact h.trainHear
      · exact h

protected theorem Keeps.portTraining {port lanes v tSend tEcho tTurn} (h : Keeps s0 s) : Keeps s0 (portTraining s port lanes v tSend tEcho tTurn) := by
  unfold portTraining
  dsimp only
  split
  · exact h
  · split
    · exact h.chargeMissing.modPort.trainStep
    · exact Keeps.ite h.chargeMissing.modPort.attemptFailed h.chargeMissing.modPort.trainStep
    · exact Keeps.ite h.trainFlit.trainChecks h
    · exact h.trainUp

protected theorem Keeps.trainTimeout {port} (h : Keeps s0 s) : Keeps s0 (trainTimeout s port) := by
  unfold trainTimeout
  dsimp only
  exact Keeps.ite ((Keeps.ite h.chargeMissing (Keeps.ite h.chargeMissing h)).attemptFailed) h

protected theorem Keeps.linkAck {port seq} (h : Keeps s0 s) : Keeps s0 (linkAck s port seq) := by
  unfold linkAck
  dsimp only
  split
  · exact h
  · split
    · exact h.modPort.settleWithdraw
    · exact h.oddViolation

protected theorem Keeps.linkReplay {port seq} (h : Keeps s0 s) : Keeps s0 (linkReplay s port seq) := by
  unfold linkReplay
  dsimp only
  split
  · exact h
  · split
    · exact Keeps.ite h.modPort.linkFail h.modPort
    · exact h.oddViolation

protected theorem Keeps.linkCredit {port vc n} (h : Keeps s0 s) : Keeps s0 (linkCredit s port vc n) := Keeps.ite h (Keeps.ite h.countViolation h.modPort)

protected theorem Keeps.linkRetrain {port lane} (h : Keeps s0 s) : Keeps s0 (linkRetrain s port lane) := Keeps.ite h ((Keeps.ite h.chargeLane h).retrainPort)

protected theorem Keeps.linkAckSend {port} (h : Keeps s0 s) : Keeps s0 (linkAckSend s port) := by
  unfold linkAckSend
  dsimp only
  exact Keeps.ite h h.modPort.sendFlit

protected theorem Keeps.flitError {port lane} (h : Keeps s0 s) : Keeps s0 (flitError s port lane) := by
  unfold flitError
  dsimp only
  exact Keeps.ite h h.modPort.sendFlit

protected theorem Keeps.unackTimeout {port} (h : Keeps s0 s) : Keeps s0 (unackTimeout s port) := by
  unfold unackTimeout
  dsimp only
  exact Keeps.ite h.linkFail h

protected theorem Keeps.nextItem (h : Keeps s0 s) : ∀ i t, nextItem s = some (i, t) → Keeps s0 t := by
  intro i t ht
  unfold nextItem at ht
  split at ht
  · cases ht
    exact h.frame
  · split at ht
    · cases ht
    · dsimp only at ht
      split at ht
      · cases ht
        exact h.sealItem.frame
      · cases ht

protected theorem Keeps.streamWords {port room n ws} (h : Keeps s0 s) : Keeps s0 (streamWords s port room n ws).2 := by
  induction n generalizing s ws with
  | zero => exact h
  | succ n ih =>
    unfold streamWords
    dsimp only
    split
    · exact h
    · split
      · exact ih h.modPort
      · split
        · rename_i he
          exact ih (h.nextItem _ _ he).modPort
        · exact h

protected theorem Keeps.streamFlit {port} (h : Keeps s0 s) : ∀ f t, streamFlit s port = some (f, t) → Keeps s0 t := by
  intro f t ht
  unfold streamFlit at ht
  dsimp only at ht
  split at ht
  · cases ht
  · split at ht
    · cases ht
    · rename_i he
      cases ht
      exact (h.streamWords.of_snd he).modPort

protected theorem Keeps.trainSlot {port} (h : Keeps s0 s) : Keeps s0 (trainSlot s port) := by
  unfold trainSlot
  dsimp only
  exact Keeps.ite h.modPort h.modPort

protected theorem Keeps.resendSlot {port f rest} (h : Keeps s0 s) : Keeps s0 (resendSlot s port f rest) := by
  unfold resendSlot
  dsimp only
  exact Keeps.ite h.modPort (Keeps.ite h.modPort h.modPort)

protected theorem Keeps.newSlot {port} (h : Keeps s0 s) : Keeps s0 (newSlot s port) := by
  unfold newSlot
  dsimp only
  split
  · split
    · exact h.modPort
    · rename_i he
      exact (h.streamFlit _ _ he).modPort
  · exact Keeps.ite (Keeps.ite h.modPort.frame h.modPort.frame) h.modPort

protected theorem Keeps.flitSlot {port} (h : Keeps s0 s) : Keeps s0 (flitSlot s port) := by
  unfold flitSlot
  dsimp only
  split
  · exact h.modPort
  · split
    · exact h.trainSlot
    · exact h.modPort
    · split
      · exact h.modPort
      · split
        · exact h.resendSlot
        · exact Keeps.ite h.modPort h.newSlot
    · split
      · exact h.modPort
      · split
        · exact h.resendSlot
        · exact Keeps.ite h.modPort h.newSlot
    · exact h

protected theorem Keeps.remAnswer {port x req st w} (h : Keeps s0 s) : Keeps s0 (remAnswer s port x req st w) := h.sendFlit

protected theorem Keeps.remRefuse {port x req st} (h : Keeps s0 s) : Keeps s0 (remRefuse s port x req st) := by
  unfold remRefuse
  dsimp only
  exact h.drawWord.remAnswer

protected theorem Keeps.flitViolation {port kind x rtag} (h : Keeps s0 s) : Keeps s0 (flitViolation s port kind x rtag) := by
  unfold flitViolation
  dsimp only
  split
  · exact h
  · split
    · exact h.oddViolation
    · split
      · exact h
      · split
        · exact Keeps.ite h.modPort.countViolation.remRefuse (Keeps.ite h.modPort.countViolation.remRefuse h.modPort.countViolation)
        · exact h.modPort.countViolation

protected theorem Keeps.wakeHome {x a} (h : Keeps s0 s) : Keeps s0 (wakeHome s x a) := Keeps.ite h.wakeLine h

protected theorem Keeps.remServe {port x req op data run} (h : Keeps s0 s) (hrun : ∀ s a, Keeps s0 s → Keeps s0 (run s a).1) :
    Keeps s0 (remServe s port x req op data run) := by
  unfold remServe
  extract_lets typ vc s1 f
  have h1 : Keeps s0 s1 := h.rxItem.wakeHome
  clear_value s1
  refine Keeps.ite h (Keeps.ite (Keeps.ite h1 h1.countViolation).remRefuse (Keeps.ite (Keeps.ite h1.countViolation.remRefuse ?_) ?_))
  · split
    · exact h1.sendFlit
    · exact h1.remRefuse
  · split
    · exact Keeps.ite (hrun _ _ h1).remAnswer (hrun _ _ h1).remRefuse
    · exact h1.countViolation.remRefuse
    · exact h1.countViolation.remRefuse
    · exact (Keeps.ite h1.sealedRefused h1).remRefuse

protected theorem Keeps.execRemoteReadRequest {port x req} (h : Keeps s0 s) : GoesOn s0 (execRemoteReadRequest port x req s) := by
  unfold execRemoteReadRequest
  dsimp only
  exact (h.remServe (fun _ _ hs => hs.homeRead.pair)).next

protected theorem Keeps.resolveNamed {g first free va} (h : Keeps s0 s) : Keeps s0 (resolveNamed s g first free va).1 := by
  unfold resolveNamed
  dsimp only
  refine Keeps.resolve ?_
  refine Keeps.markCode ?_
  split
  · exact h.regionEntry.agLook
  · exact h.regionEntry.pair

protected theorem Keeps.resolveFor {part req a} (h : Keeps s0 s) : ∀ r, resolveFor s part req a = some r → Keeps s0 r.1 := by
  intro r hr
  unfold resolveFor at hr
  dsimp only at hr
  split at hr
  · cases hr
  · split at hr
    · cases hr
      exact h.drawWord
    · split at hr
      · cases hr
        exact h.drawWord
      · split at hr
        · rename_i he
          cases hr
          exact h.drawWord.resolveNamed.of_fst he
        · rename_i he
          cases hr
          exact h.drawWord.resolveNamed.of_fst he
        · cases hr

protected theorem Keeps.execRemoteResolveRequest {port x req} (h : Keeps s0 s) : GoesOn s0 (execRemoteResolveRequest port x req s) := by
  unfold execRemoteResolveRequest
  split
  · exact (Keeps.ite h (h.remServe fun _ _ hs => hs)).next
  · refine (h.remServe fun s a hs => ?_).next
    cases hr : resolveFor s x.part req a with
    | none => exact hs
    | some r => exact hs.resolveFor r hr

protected theorem Keeps.writeBar {p a w va} (h : Keeps s0 s) : Keeps s0 (writeBar s p a w va).1 := by
  unfold writeBar
  extract_lets q addr old m write g
  have hwrite {t : State} {card} (ht : Keeps s0 t) : Keeps s0 (write t card).1 := ht.homeWrite.storeMarks.pair
  clear_value write
  split
  · exact hwrite h
  · split
    · rename_i he
      exact h.agXlate.of_fst he
    · rename_i he
      have h1 := h.agXlate.of_fst he
      split
      · split
        · exact hwrite h1
        · split
          · rename_i he2
            exact hwrite (h1.agXlate.of_fst he2)
          · rename_i he2
            exact h1.agXlate.of_fst he2
      · split
        · exact hwrite h1
        · split
          · rename_i he2
            exact hwrite (h1.agXlate.of_fst he2)
          · rename_i he2
            exact h1.agXlate.of_fst he2

protected theorem Keeps.farCas {p a cmp new} (h : Keeps s0 s) : Keeps s0 (farCas s p a cmp new).1 := by
  unfold farCas
  dsimp only
  split
  · exact h.homeCas.pair
  · exact h.writeBar.pair

protected theorem Keeps.remoteResponse {port x resp w} (h : Keeps s0 s) : Keeps s0 (remoteResponse s port x resp w) := by
  unfold remoteResponse
  dsimp only
  split
  · exact h
  · split
    · exact Keeps.ite h.rxItem h.rxItem.countViolation
    · split
      · split
        · exact Keeps.ite h.rxItem.sendFlit h.rxItem
        · exact h.rxItem
      · split
        · exact h.rxItem.countViolation
        · exact (Keeps.ite h.rxItem.countViolation (Keeps.ite h.rxItem.countViolation h.rxItem)).remoteDone.settleWithdraw

protected theorem Keeps.remoteTimeout {rtag} (h : Keeps s0 s) : Keeps s0 (remoteTimeout s rtag) := by
  unfold remoteTimeout
  split
  · exact Keeps.ite h.chargeLane.remoteDone.settleWithdraw h
  · exact h

protected theorem Keeps.ctrlIn {port op h' args run} (h : Keeps s0 s) (hrun : ∀ x0, Keeps s0 x0 → Keeps s0 (run x0)) : Keeps s0 (ctrlIn s port op h' args run) := by
  unfold ctrlIn
  dsimp only
  split
  · exact h
  · split
    · exact hrun _ h.rxFlit.notePresent
    · split
      · exact h.rxFlit.notePresent.sendFlit
      · exact h.rxFlit.notePresent

protected theorem Keeps.digestMismatch {p dev} (h : Keeps s0 s) : Keeps s0 (digestMismatch s p dev) := h.dropRoute.report

protected theorem Keeps.routeOpen {h' digest via} (h : Keeps s0 s) : Keeps s0 (routeOpen h' digest via s) := by
  unfold routeOpen
  dsimp only
  exact Keeps.ite h.sendCtrl (Keeps.ite h.sendCtrl (Keeps.ite h.sendCtrl (Keeps.ite h.digestMismatch.sendCtrl h.setRoute.sendCtrl)))

protected theorem Keeps.routePass {h' via} (h : Keeps s0 s) : Keeps s0 (routePass s h' via) := Keeps.ite h h.frame

protected theorem Keeps.execCtrlRouteOpen {port h' digest via} (h : Keeps s0 s) : GoesOn s0 (execCtrlRouteOpen port h' digest via s) := by
  unfold execCtrlRouteOpen
  dsimp only
  exact (Keeps.ite ((h.ctrlIn (fun _ hs => hs.routeOpen)).routePass) (h.ctrlIn (fun _ hs => hs.routeOpen))).next

protected theorem Keeps.routeReply {port h' status digest} (h : Keeps s0 s) : Keeps s0 (routeReply port h' status digest s) := by
  unfold routeReply
  split
  · exact h.countViolation
  · split
    · exact Keeps.ite h.setRoute h.digestMismatch
    · exact h.digestMismatch
    · exact h

protected theorem Keeps.dropFar {p origin far} (h : Keeps s0 s) : Keeps s0 (dropFar s p origin far) := h.frame

protected theorem Keeps.withdrawIn {port h' kind ix} (h : Keeps s0 s) : Keeps s0 (withdrawIn port h' kind ix s) := by
  unfold withdrawIn
  dsimp only
  split
  · exact (Keeps.ite h.dropRoute h.dropFar).frame.settleWithdraw
  · exact h.endInFlows.frame.settleWithdraw
  · exact h.frame.settleWithdraw
  · exact h.countViolation

protected theorem Keeps.withdrawAck {h' kind ix} (h : Keeps s0 s) : Keeps s0 (withdrawAck h' kind ix s) := h.frame

protected theorem Keeps.flowRequest {h' rec flowix} (h : Keeps s0 s) : Keeps s0 (flowRequest h' rec flowix s) := by
  unfold flowRequest
  dsimp only
  split
  · exact h.sendCtrl
  · split
    · exact h.sendCtrl
    · split
      · exact h.freeCondition.sendCtrl
      · split
        · exact h.sendCtrl
        · exact h.addInFlow.sendCtrl

protected theorem Keeps.flowReply {port h' result flowix} (h : Keeps s0 s) : Keeps s0 (flowReply port h' result flowix s) := by
  unfold flowReply
  split
  · exact h.countViolation
  · split
    · exact h.flowRefused
    · split
      · exact h.flowRefused.sendWithdraw
      · exact h.grantFlow

protected theorem Keeps.forwardDeclare {h' mask dst} (h : Keeps s0 s) : Keeps s0 (forwardDeclare h' mask dst s) := by
  unfold forwardDeclare
  dsimp only
  exact Keeps.foldl (fun _ _ hs => Keeps.foldl (fun _ _ hs => hs.askRoute) hs) h.frame

protected theorem Keeps.collectIn {port h' v} (h : Keeps s0 s) : Keeps s0 (collectIn port h' v s) := Keeps.ite h.countViolation h.collCommand

protected theorem Keeps.phaseEndIn {port h' phase cycle} (h : Keeps s0 s) : Keeps s0 (phaseEndIn port h' phase cycle s) := Keeps.ite h.countViolation h.modColl

protected theorem Keeps.ackOne {port i m outcome} (h : Keeps s0 s) : Keeps s0 (ackOne s port i m outcome) := by
  unfold ackOne
  dsimp only
  split
  · split
    · exact h.frame
    · exact h.frame.settleFlush
    · exact h.frame.modColl
    · exact h.frame
  · exact Keeps.ite h.frame.refuseMsg.linkFail h.frame.refuseMsg
  · exact h.frame.refuseMsg

protected theorem Keeps.ackMany {port n outcome} {match' : State → OutEnt → Bool} (h : Keeps s0 s) : Keeps s0 (ackMany s port match' outcome n) := by
  induction n generalizing s with
  | zero => exact h
  | succ n ih =>
    unfold ackMany
    split
    · exact ih h.ackOne
    · exact h

protected theorem Keeps.msgAck {port x v} (h : Keeps s0 s) : Keeps s0 (msgAck s port x v) := by
  unfold msgAck
  extract_lets sun vc s1 outcome n cl qid ix fits
  have h1 : Keeps s0 s1 := h.rxItem
  clear_value s1
  refine Keeps.ite h (Keeps.ite (Keeps.ite h1 h1.countViolation) (Keeps.ite (Keeps.ite h1.countViolation ?_)
      (Keeps.ite h1.oddViolation (Keeps.ite ?_ h1.ackMany.settleWithdraw))))
  · split
    · exact h1.sendFlit
    · exact h1
  · split
    · exact Keeps.foldl (fun _ _ hs => hs.returnCredit) h1
    · exact h1

protected theorem Keeps.notePeerLock {port v} (h : Keeps s0 s) : Keeps s0 (notePeerLock s port v) := by
  unfold notePeerLock
  dsimp only
  exact Keeps.ite h.modPort.linkFail (Keeps.ite h.modPort.syncBoard h.modPort)

protected theorem Keeps.timeRequest {port v t1} (h : Keeps s0 s) : Keeps s0 (timeRequest s port v t1) := by
  unfold timeRequest
  dsimp only
  exact Keeps.ite h (Keeps.ite h.rxFlit.oddViolation (Keeps.ite h.rxFlit.notePeerLock h.rxFlit.notePeerLock.sendFlit))

protected theorem Keeps.loseLock (h : Keeps s0 s) : Keeps s0 (loseLock s) := by
  unfold loseLock
  dsimp only
  exact Keeps.ite h (Keeps.foldl (fun _ _ hs => hs.linkFail) h.frame)

protected theorem Keeps.gainLock (h : Keeps s0 s) : Keeps s0 (gainLock s) := by
  unfold gainLock
  dsimp only
  exact Keeps.ite h h.frame.tryFlows

protected theorem Keeps.timeOffset {offset} (h : Keeps s0 s) : Keeps s0 (timeOffset s offset) := by
  unfold timeOffset
  dsimp only
  exact Keeps.ite h.frame.report (Keeps.ite h.frame.loseLock (Keeps.ite h.frame.gainLock h.frame))

protected theorem Keeps.timeResponse {port v t1 t2 t3} (h : Keeps s0 s) : Keeps s0 (timeResponse s port v t1 t2 t3) := by
  unfold timeResponse
  dsimp only
  exact h.either (fun h => h) fun h => h.rxFlit.notePeerLock.either (fun h => h.oddViolation) fun h =>
      Keeps.ite (h.when fun h => h.frame) (Keeps.ite h h.modPort.timeOffset)

protected theorem Keeps.askTime {port} (h : Keeps s0 s) : Keeps s0 (askTime s port) := h.sendFlit

protected theorem Keeps.timeExchange (h : Keeps s0 s) : Keeps s0 (timeExchange s) := by
  unfold timeExchange
  dsimp only
  split
  · exact (Keeps.ite h h.askTime).askTime
  · exact Keeps.ite h h.askTime

protected theorem Keeps.lockTimeout (h : Keeps s0 s) : Keeps s0 (lockTimeout s) := Keeps.ite h.loseLock h

protected theorem Keeps.bpviolWrite {port v} (h : Keeps s0 s) : Keeps s0 (bpviolWrite s port v) := h.modPort

/-! ### Reflect -/

protected theorem Keeps.modRefl {f} (h : Keeps s0 s) : Keeps s0 (modRefl s f) := h.frame

protected theorem Keeps.setRefl {n} (h : Keeps s0 s) : Keeps s0 (setRefl s n) := Keeps.ite h h.modRefl.report

protected theorem Keeps.sendItem4 {port i} (h : Keeps s0 s) : Keeps s0 (sendItem4 s port i) := by
  unfold sendItem4
  dsimp only
  exact h.sealItem.sendFlit

protected theorem Keeps.patternEdge (h : Keeps s0 s) : Keeps s0 (patternEdge s) := by
  unfold patternEdge
  dsimp only
  exact Keeps.ite h h.modRefl

protected theorem Keeps.releaseOut {o} (h : Keeps s0 s) : Keeps s0 (releaseOut s o) := by
  unfold releaseOut
  dsimp only
  split
  · exact h.departMsg
  · exact h.signalMsix
  · exact h.frame

protected theorem Keeps.releaseOuts {out} (h : Keeps s0 s) : Keeps s0 (releaseOuts s out) := by
  unfold releaseOuts
  dsimp only
  exact Keeps.foldl (fun _ _ hs => hs.releaseOut) h.modRefl

protected theorem Keeps.startMirrored (h : Keeps s0 s) : Keeps s0 (startMirrored s) := by
  unfold startMirrored
  dsimp only
  exact Keeps.ite h ((Keeps.foldl (fun _ _ hs => Keeps.ite hs hs.startContext) h).modRefl)

protected theorem Keeps.refuseForm {twin why} (h : Keeps s0 s) : Keeps s0 (refuseForm s twin why) := by
  unfold refuseForm
  dsimp only
  exact (h.modRefl.report.when fun h => h.report).either (fun h => h.setRefl) fun h => h.when fun h => h.setRefl

protected theorem Keeps.formRefusal {twin dev} (h : Keeps s0 s) : Keeps s0 (formRefusal s twin dev).2 := by
  unfold formRefusal
  dsimp only
  exact h.drawBool.drawBool.drawBool.drawBool

protected theorem Keeps.formPair {twin dev} (h : Keeps s0 s) : Keeps s0 (formPair s twin dev) := by
  unfold formPair
  dsimp only
  exact Keeps.ite h.drawNat.drawNat.modRefl.setRefl h.drawNat.drawNat.modRefl.startMirrored.setRefl.modRefl

protected theorem Keeps.heartbeat {d} (h : Keeps s0 s) : Keeps s0 (heartbeat s d) := by
  unfold heartbeat
  dsimp only
  exact h.modRefl.either (fun h => h) fun h => Keeps.ite (Keeps.ite h h.refuseForm) (Keeps.ite
      (h.formRefusal.either (fun h => h.formPair) fun h => h.refuseForm) (h.when fun h => h.setRefl))

protected theorem Keeps.admitFit {k} (h : Keeps s0 s) : Keeps s0 (admitFit s k) := by
  unfold admitFit
  dsimp only
  exact Keeps.ite h.frame.tryFlow h.frame

protected theorem Keeps.retryLate (h : Keeps s0 s) : Keeps s0 (retryLate s) := Keeps.foldl (fun _ _ h => h.admitFit) h

protected theorem Keeps.heartbeatOut (h : Keeps s0 s) : Keeps s0 (heartbeatOut s) := by
  unfold heartbeatOut
  dsimp only
  exact Keeps.ite h (Keeps.foldl (fun _ _ hs => hs.sendItem4) h.modRefl.retryLate)

protected theorem Keeps.formTimeout (h : Keeps s0 s) : Keeps s0 (formTimeout s) := by
  unfold formTimeout
  split
  · exact Keeps.ite h.startMirrored.setRefl h
  · exact h

protected theorem Keeps.holdMirrored (h : Keeps s0 s) : Keeps s0 (holdMirrored s) := Keeps.foldl (fun _ _ h => h.suspendAtEntry) h

protected theorem Keeps.epochEnd (h : Keeps s0 s) : Keeps s0 (epochEnd s) := by
  unfold epochEnd
  dsimp only
  exact Keeps.ite h.modRefl.holdMirrored h

protected theorem Keeps.epochCapture (h : Keeps s0 s) : Keeps s0 (epochCapture s) := by
  unfold epochCapture
  dsimp only
  exact Keeps.ite h ((Keeps.foldl (fun _ _ h => h.shipItem) (Keeps.foldl (fun _ _ h => h.cleanLine) (Keeps.foldl (fun _ _ hs => hs.modCtx) h))).modRefl)

protected theorem Keeps.epochAck {n} (h : Keeps s0 s) : Keeps s0 (epochAck s n) := by
  unfold epochAck
  dsimp only
  split
  · exact h
  · split
    · exact Keeps.ite h.modRefl.releaseOuts.setRefl h.modRefl.releaseOuts
    · exact h.modRefl.releaseOuts

protected theorem Keeps.applyLine {i} (h : Keeps s0 s) : Keeps s0 (applyLine s i) := h.writeWords

protected theorem Keeps.commitEpoch {port} (h : Keeps s0 s) : Keeps s0 (commitEpoch s port) := by
  unfold commitEpoch
  dsimp only
  split
  · exact h
  · exact h.modRefl.sendItem4

protected theorem Keeps.journal {port i} (h : Keeps s0 s) : Keeps s0 (journal s port i) := Keeps.ite h (Keeps.ite h.applyLine (Keeps.ite h h.modRefl.commitEpoch))

protected theorem Keeps.actItem {port i} (h : Keeps s0 s) : Keeps s0 (actItem s port i) := by
  unfold actItem
  split
  · exact h.epochAck
  · exact h.heartbeat
  · exact h.journal

protected theorem Keeps.itemIn {port d ws} (h : Keeps s0 s) : Keeps s0 (itemIn s port d ws) := by
  unfold itemIn
  dsimp only
  exact Keeps.ite h (Keeps.ite h (Keeps.ite h.rxFlit.oddViolation (Keeps.ite h.rxFlit.modRefl h.rxFlit.actItem)))

protected theorem Keeps.gcmTagIn {port d ws} (h : Keeps s0 s) : Keeps s0 (gcmTagIn s port d ws) := by
  unfold gcmTagIn
  dsimp only
  exact Keeps.ite h (Keeps.ite h.rxFlit.oddViolation (Keeps.ite (Keeps.foldl (fun _ _ hs => hs.actItem) h.rxFlit.modRefl) h.rxFlit.modRefl.drawNat.linkFail))

protected theorem Keeps.rekey (h : Keeps s0 s) : Keeps s0 (rekey s) := by
  unfold rekey
  dsimp only
  exact Keeps.ite (Keeps.ite (Keeps.foldl (fun _ _ hs => hs.linkFail) h.drawNat.drawBool) h.drawNat.drawBool.modRefl) h

protected theorem Keeps.restoreCtx {i} (h : Keeps s0 s) : Keeps s0 (restoreCtx s i) := by
  unfold restoreCtx
  dsimp only
  exact h.freshOp.freshOp.drawNat.drawNat.drawBool.setCtx

protected theorem Keeps.restorePart {i} (h : Keeps s0 s) : Keeps s0 (restorePart s i) := by
  unfold restorePart
  dsimp only
  exact Keeps.ite h.modPart h.modPart.abortCycle

protected theorem Keeps.restoreQueue {i} (h : Keeps s0 s) : Keeps s0 (restoreQueue s i) := by
  unfold restoreQueue
  dsimp only
  exact h.modQ

protected theorem Keeps.beginTakeover (h : Keeps s0 s) : Keeps s0 (beginTakeover s) := h.modRefl.setRefl

protected theorem Keeps.takeOver (h : Keeps s0 s) : Keeps s0 (takeOver s) := by
  unfold takeOver
  dsimp only
  exact (Keeps.foldl (fun _ _ hs => Keeps.foldl (fun _ _ h => h.admitFit) hs.enterFlows)
      (Keeps.foldl (fun _ _ hs => hs.when fun hs => Keeps.foldl (fun _ _ hs => hs.askRoute) hs) (Keeps.foldl (fun _ _ h => h.restoreQueue)
        (Keeps.foldl (fun _ _ h => h.restorePart) (Keeps.foldl (fun _ _ h => h.restoreCtx)
          (Keeps.foldl (fun _ _ hs => hs.dropEngineWork.dropFlows) h)))))).modRefl.setRefl.report.frame.signalMsix

protected theorem Keeps.applyDone (h : Keeps s0 s) : Keeps s0 (applyDone s) := by
  unfold applyDone
  dsimp only
  exact Keeps.ite ((Keeps.foldl (fun _ _ h => h.applyLine) h).modRefl.takeOver) ((Keeps.foldl (fun _ _ h => h.applyLine) h).modRefl)

protected theorem Keeps.fence (h : Keeps s0 s) : Keeps s0 (fence s) := by
  unfold fence
  dsimp only
  exact (Keeps.foldl (fun _ _ h => h.partitionReset) h).modRefl.setRefl

protected theorem Keeps.goSolo (h : Keeps s0 s) : Keeps s0 (goSolo s) := h.releaseOuts.modRefl.setRefl

protected theorem Keeps.relinquish (h : Keeps s0 s) : Keeps s0 (relinquish s) := h.modRefl.setRefl

protected theorem Keeps.primaryActs (h : Keeps s0 s) : Keeps s0 (primaryActs s) := by
  unfold primaryActs
  split
  · exact h.setRefl
  · exact h.fence
  · exact h.goSolo

protected theorem Keeps.twinActs (h : Keeps s0 s) : Keeps s0 (twinActs s) := by
  unfold twinActs
  dsimp only
  split
  · exact h.beginTakeover
  · exact h.relinquish
  · exact h.drawNat.report.relinquish

protected theorem Keeps.reflLoss (h : Keeps s0 s) : Keeps s0 (reflLoss s) := by
  unfold reflLoss
  dsimp only
  exact Keeps.ite h (Keeps.ite h.primaryActs (Keeps.ite h.modRefl.setRefl (Keeps.ite h.beginTakeover h.modRefl.setRefl)))

protected theorem Keeps.settleEnd (h : Keeps s0 s) : Keeps s0 (settleEnd s) := by
  unfold settleEnd
  split
  · exact Keeps.ite h.twinActs h
  · exact h

protected theorem Keeps.classify {n} (h : Keeps s0 s) : Keeps s0 (classify s n) := by
  unfold classify
  dsimp only
  exact Keeps.ite h (Keeps.ite h.modRefl.primaryActs (Keeps.ite h.modRefl.beginTakeover h.modRefl))

protected theorem Keeps.aliveEdge (h : Keeps s0 s) : Keeps s0 (aliveEdge s) := by
  unfold aliveEdge
  dsimp only
  split
  · exact h.modRefl
  · exact Keeps.ite h.modRefl.classify (Keeps.ite h.modRefl.classify (Keeps.ite h.modRefl.classify h.modRefl.report))

protected theorem Keeps.aliveSilent (h : Keeps s0 s) : Keeps s0 (aliveSilent s) := by
  unfold aliveSilent
  split
  · exact Keeps.ite h.classify h
  · exact h.classify

protected theorem Keeps.rfDiscard {cmd} (h : Keeps s0 s) : Keeps s0 (rfDiscard s cmd) := h.report

protected theorem Keeps.rfcmd {cmd} (h : Keeps s0 s) : Keeps s0 (rfcmd s cmd) := by
  unfold rfcmd
  dsimp only
  split
  · exact h
  · exact Keeps.ite h.modRefl.setRefl h.rfDiscard
  · exact Keeps.ite h.fence h.rfDiscard
  · exact Keeps.ite h.relinquish h.rfDiscard
  · exact h.rfDiscard

/-! ### HostPort -/

protected theorem Keeps.modHost {f} (h : Keeps s0 s) : Keeps s0 (modHost s f) := h.frame

protected theorem Keeps.refusedReq {fn off} (h : Keeps s0 s) : Keeps s0 (refusedReq s fn off) := by
  unfold refusedReq
  dsimp only
  exact h.drawWord.report

protected theorem Keeps.pcieLinkEvent {ev} (h : Keeps s0 s) : Keeps s0 (pcieLinkEvent s ev) := h.report

protected theorem Keeps.countBad {fn} (h : Keeps s0 s) : Keeps s0 (countBad s fn) := by
  unfold countBad
  dsimp only
  exact Keeps.ite h.modHost.modHost.pcieLinkEvent h.modHost

protected theorem Keeps.complete {mirrored c} (h : Keeps s0 s) : Keeps s0 (complete s mirrored c) := Keeps.ite h.holdOut h.modHost

protected theorem Keeps.answerUr {fn off read} (h : Keeps s0 s) : Keeps s0 (answerUr s fn off read) := by
  unfold answerUr
  dsimp only
  exact Keeps.ite h.refusedReq.countBad.complete h.refusedReq.countBad

protected theorem Keeps.hqhead {fn q w} (h : Keeps s0 s) : Keeps s0 (hqhead s fn q w) := by
  unfold hqhead
  dsimp only
  exact Keeps.ite h.answerUr (Keeps.ite h.refusedReq (Keeps.ite h.sealedRefused.answerUr (Keeps.ite h.refusedReq (Keeps.foldl (fun _ _ hs => hs.dequeue) h))))

protected theorem Keeps.hscmd {p w} (h : Keeps s0 s) : Keeps s0 (hscmd s p w) := by
  unfold hscmd
  dsimp only
  exact Keeps.ite h.refusedReq (Keeps.ite h.sealedRefused.answerUr (Keeps.ite h.modHost (Keeps.ite h.modHost h.frame.modHost)))

protected theorem Keeps.queueFlash {op who} (h : Keeps s0 s) : Keeps s0 (queueFlash s op who) := by
  unfold queueFlash
  dsimp only
  exact h.frame

protected theorem Keeps.flashDone (h : Keeps s0 s) : Keeps s0 (flashDone s) := by
  unfold flashDone
  split
  · exact h
  · exact h.frame
  · exact h.frame

protected theorem Keeps.endCmd {last detail} (h : Keeps s0 s) : Keeps s0 (endCmd s last detail) := h.modHost

protected theorem Keeps.hmcmd {cmd arg} (h : Keeps s0 s) : Keeps s0 (hmcmd s cmd arg) := by
  unfold hmcmd
  extract_lets host a len s1 bs off run
  have hrun : Keeps s0 (run s) := h.modHost
  clear_value run
  refine Keeps.ite (Keeps.ite h.modHost (Keeps.ite h.modHost.report h.modHost))
    (Keeps.ite h (Keeps.ite h.endCmd (Keeps.ite h.endCmd (Keeps.ite h.endCmd ?_))))
  split
  · exact Keeps.ite hrun.queueFlash h.endCmd
  · exact Keeps.ite hrun.queueFlash h.endCmd
  · exact hrun

protected theorem Keeps.ownerCmd {cmd typ svn bl} (h : Keeps s0 s) : Keeps s0 (ownerCmd s cmd typ svn bl) := by
  unfold ownerCmd
  dsimp only
  exact h.modTrust.report.addHist.endCmd

protected theorem Keeps.ownerSigned {bs run} (h : Keeps s0 s) (hrun : ∀ x0, Keeps s0 (run x0)) : Keeps s0 (ownerSigned s bs run) := by
  unfold ownerSigned
  split
  · exact h.endCmd
  · split
    · exact Keeps.ite (hrun _) h.endCmd
    · exact h.endCmd

protected theorem Keeps.enrol {bs} (h : Keeps s0 s) : Keeps s0 (enrol s bs) := Keeps.ite h.ownerCmd h.endCmd

protected theorem Keeps.transfer {bs} (h : Keeps s0 s) : Keeps s0 (transfer s bs) := by
  unfold transfer
  refine h.ownerSigned (fun _  => ?_)
  split
  · exact h.ownerCmd
  · exact h.endCmd

protected theorem Keeps.revoke {bs} (h : Keeps s0 s) : Keeps s0 (revoke s bs) := h.ownerSigned (fun _  => h.ownerCmd)

protected theorem Keeps.svnRaise {bs} (h : Keeps s0 s) : Keeps s0 (svnRaise s bs) := by
  unfold svnRaise
  dsimp only
  split
  · exact Keeps.ite (Keeps.ite h.ownerCmd h.report.endCmd) h.endCmd
  · exact Keeps.ite (Keeps.ite h.ownerCmd h.report.endCmd) h.endCmd
  · exact h.ownerSigned (fun _  => Keeps.ite h.ownerCmd h.report.endCmd)
  · exact h.endCmd

protected theorem Keeps.hostPartReset {p} (h : Keeps s0 s) : Keeps s0 (hostPartReset s p) := by
  unfold hostPartReset
  split
  · exact Keeps.ite h.modHost h.partitionReset
  · exact h.partitionReset

protected theorem Keeps.withdrawReform {p} (h : Keeps s0 s) : Keeps s0 (withdrawReform s p) := by
  unfold withdrawReform
  dsimp only
  exact (Keeps.foldl (fun _ _ hs => hs.qcmd) (Keeps.foldl (fun _ _ h => h.withdrawFlow) h.withdrawRoutes)).stopSealed

protected theorem Keeps.applyReform {p m} (h : Keeps s0 s) : Keeps s0 (applyReform s p m) := by
  unfold applyReform
  extract_lets old s1 s2 s3
  have h3 : Keeps s0 s3 := Keeps.foldl (fun _ _ hs => hs.modQ) (Keeps.foldl (fun _ _ hs => hs.l2cfgWrite.modCluster) h.frame)
  split
  · exact h3
  · refine Keeps.startBoot (Keeps.tryFlows (Keeps.enterFlows ?_))
    refine h3.loadPart.modPart.startSealed.when fun h4 => Keeps.foldl (fun _ _ hs => ?_) (Keeps.foldl (fun _ _ hs => hs.askRoute) h4)
    split
    · exact hs.askRoute
    · exact hs

protected theorem Keeps.heldStarts {applied} (h : Keeps s0 s) : Keeps s0 (heldStarts s applied) := Keeps.foldl (fun _ _ hs => Keeps.ite hs.modRegs hs.xcmdWrite) h.modHost

protected theorem Keeps.heldResets (h : Keeps s0 s) : Keeps s0 (heldResets s) := Keeps.foldl (fun _ _ h => h.partitionReset) h.modHost

protected theorem Keeps.endReform {p n detail} (h : Keeps s0 s) : Keeps s0 (endReform s p n detail) := by
  unfold endReform
  dsimp only
  split
  · exact h.report.endCmd.modHost.heldStarts.heldResets
  · exact h.report.endCmd.modHost.heldStarts.heldResets.modHost

protected theorem Keeps.reform {p bs} (h : Keeps s0 s) : Keeps s0 (reform s p bs) := by
  unfold reform
  dsimp only
  split
  · exact h.drawNat.endReform
  · split
    · exact h.endReform
    · split
      · exact h.endReform
      · split
        · exact h.report.endReform
        · exact h.modHost.withdrawReform

protected theorem Keeps.reformStep {p bs} (h : Keeps s0 s) : Keeps s0 (reformStep s p bs) := by
  unfold reformStep
  split
  · exact h.reform
  · exact Keeps.ite h.applyReform.addHist.endReform h

protected theorem Keeps.hostDone (h : Keeps s0 s) (hr : s0.samples) : Keeps s0 (hostDone s) := by
  unfold hostDone
  split
  · exact h
  · split
    · exact Keeps.ite h.putWords.endCmd h.endCmd
    · exact h.enrol
    · exact h.transfer
    · exact h.revoke
    · exact h.svnRaise
    · exact h.reformStep
    · exact Keeps.ite h.partitionReset.endCmd h.endCmd
    · exact h.endCmd.warmReset hr
    · exact Keeps.ite h h.endCmd

protected theorem Keeps.hmstatWrite {v} (h : Keeps s0 s) : Keeps s0 (hmstatWrite s v) := h.modHost

/-! ### Dcs -/

protected theorem Keeps.glowWrite {o w} (h : Keeps s0 s) : Keeps s0 (glowWrite s o w) := by
  unfold glowWrite
  split
  · exact h
  · split
    · exact h.modGlow
    · exact h.modGlow
    · exact h.agcmdWrite
    · exact h.calsecWrite
    · exact h.caltrimWrite
    · exact h.modCal
    · exact Keeps.ite h.ltcmdSave h
    · exact h.calalmWrite
    · exact h

protected theorem Keeps.powerWrite {o w} (h : Keeps s0 s) : Keeps s0 (powerWrite s o w) := by
  unfold powerWrite
  split
  · exact h
  · split
    · exact h.pwrctlWrite
    · exact h.clcmdWrite
    · exact h.wdctlWrite
    · exact h

protected theorem Keeps.timerWrite {p o w} (h : Keeps s0 s) : Keeps s0 (timerWrite s p o w) := by
  unfold timerWrite
  split
  · exact h.tmctxWrite
  · exact h.tmdlWrite
  · exact h

protected theorem Keeps.sendBlockWrite {p o w} (h : Keeps s0 s) : Keeps s0 (sendBlockWrite s p o w) := Keeps.ite h.modHost (Keeps.ite h.hscmd h)

protected theorem Keeps.dcsPoke {fn a w} (h : Keeps s0 s) : Keeps s0 (dcsPoke s fn a w) := by
  unfold dcsPoke
  dsimp only
  exact Keeps.ite h.hmcmd (Keeps.ite h.modHost (Keeps.ite h.hmstatWrite (Keeps.ite (Keeps.ite h.bpviolWrite h) (Keeps.ite h.rfcmd
      (Keeps.ite h.glowWrite (Keeps.ite h.powerWrite (Keeps.ite h.hqhead (Keeps.ite h.sendBlockWrite (Keeps.ite h.frame h)))))))))

protected theorem Keeps.dcsWrite {who a w} (h : Keeps s0 s) : Keeps s0 (dcsWrite s who a w) := by
  unfold dcsWrite
  dsimp only
  split
  · exact h
  · split
    · exact Keeps.ite h.sealingWrite (Keeps.ite h.timerWrite h)
    · exact h.dcsPoke

protected theorem Keeps.execDcsRegisterWrite {who addr w} (h : Keeps s0 s) : GoesOn s0 (execDcsRegisterWrite who addr w s) := by
  unfold execDcsRegisterWrite
  refine Keeps.next ?_
  split
  · exact Keeps.ite h.dcsWrite h
  · exact h.dcsWrite

/-! ### Pcie -/

protected theorem Keeps.readPlace {pl} (h : Keeps s0 s) : Keeps s0 (readPlace s pl).1 := by
  unfold readPlace
  dsimp only
  split
  · exact h
  · exact h.settleStale.homeRead.pair
  · exact h
  · exact h
  · exact h
  · exact h
  · exact h

protected theorem Keeps.readPlaces {fn bar ns} (h : Keeps s0 s) : Keeps s0 (readPlaces s fn bar ns).1 := by
  induction ns generalizing s with
  | nil => exact h
  | cons n ns ih => exact ih h.readPlace

protected theorem Keeps.refusePlace {fn off read pl} (h : Keeps s0 s) : Keeps s0 (refusePlace s fn off read pl) := by
  unfold refusePlace
  split
  · exact h.sealedRefused.answerUr
  · exact h.answerUr

protected theorem Keeps.pcieRead {fn bar off len} (h : Keeps s0 s) : Keeps s0 (pcieRead s fn bar off len) := by
  unfold pcieRead
  dsimp only
  split
  · exact h
  · split
    · exact h.answerUr
    · split
      · exact h.refusePlace
      · exact h.readPlaces.complete

protected theorem Keeps.msixWrite {fn v bs} (h : Keeps s0 s) : Keeps s0 (msixWrite s fn v bs) := by
  unfold msixWrite
  dsimp only
  exact Keeps.ite h.modHost.modHost.signalMsix h.modHost

protected theorem Keeps.writePlace {fn pl bs} (h : Keeps s0 s) : Keeps s0 (writePlace s fn pl bs) := by
  unfold writePlace
  dsimp only
  split
  · exact h
  · split
    · exact h.dcsPoke
    · exact h.settleStale.homeWrite
    · exact h.hqhead
    · exact h.sendBlockWrite
    · exact h.msixWrite
    · exact h

protected theorem Keeps.pcieWrite {fn bar off ep bytes} (h : Keeps s0 s) : Keeps s0 (pcieWrite s fn bar off ep bytes) := by
  unfold pcieWrite
  dsimp only
  split
  · exact h
  · split
    · exact h.answerUr
    · split
      · exact h.refusedReq
      · split
        · exact h.refusePlace
        · exact Keeps.ite h.refusedReq (Keeps.foldl (fun _ _ hs => hs.writePlace) h)

protected theorem Keeps.flushMsix (h : Keeps s0 s) : Keeps s0 (flushMsix s) := by
  unfold flushMsix
  dsimp only
  exact Keeps.foldl (fun _ _ hs => hs.signalMsix) h.modHost

protected theorem Keeps.cfgWriteReg {fn reg v} (h : Keeps s0 s) : Keeps s0 (cfgWriteReg s fn reg v) := by
  unfold cfgWriteReg
  dsimp only
  exact h.modHost.either (fun h => h.when fun h => h.modHost) fun h => h.either (fun h => h.modHost) fun h =>
      h.either (fun h => h.modHost.flushMsix) fun h => h.when fun h => h.modHost.flushMsix

protected theorem Keeps.pcieConfig {fn reg write v} (h : Keeps s0 s) : Keeps s0 (pcieConfig s fn reg write v) := by
  unfold pcieConfig
  dsimp only
  exact Keeps.ite h (Keeps.ite h.complete (Keeps.ite h.answerUr (Keeps.ite h.cfgWriteReg.complete h.complete)))

protected theorem Keeps.pcieFlr {fn} (h : Keeps s0 s) : Keeps s0 (pcieFlr s fn) := by
  unfold pcieFlr
  dsimp only
  exact Keeps.ite h h.hostPartReset.modHost

protected theorem Keeps.pcieUnsupported {fn kind} (h : Keeps s0 s) : Keeps s0 (pcieUnsupported s fn kind) := Keeps.ite h (Keeps.ite h.answerUr (Keeps.ite h.answerUr h))

protected theorem Keeps.pcieMalformed {fn rule} (h : Keeps s0 s) : Keeps s0 (pcieMalformed s fn rule) := by
  unfold pcieMalformed
  dsimp only
  split
  · exact h
  · split
    · exact h.report.countBad
    · exact h.report

protected theorem Keeps.linkDown (h : Keeps s0 s) : Keeps s0 (linkDown s) := Keeps.ite h.modHost.pcieLinkEvent h

protected theorem Keeps.linkUp {rate width} (h : Keeps s0 s) : Keeps s0 (linkUp s rate width) := by
  unfold linkUp
  dsimp only
  exact Keeps.ite h (Keeps.ite h.frame.modHost h.frame.modHost.pcieLinkEvent)

/-! ### Smbus -/

protected theorem Keeps.modSmb {f} (h : Keeps s0 s) : Keeps s0 (modSmb s f) := h.frame

protected theorem Keeps.smbEnd {status out} (h : Keeps s0 s) : Keeps s0 (smbEnd s status out) := h.modSmb

protected theorem Keeps.freeBytes {n} (h : Keeps s0 s) : Keeps s0 (freeBytes s n).2 := by
  unfold freeBytes
  dsimp only
  exact h.drawNat

protected theorem Keeps.smbStatus (h : Keeps s0 s) : Keeps s0 (smbStatus s) := by
  unfold smbStatus
  dsimp only
  exact h.smbEnd

protected theorem Keeps.smbLast (h : Keeps s0 s) : Keeps s0 (smbLast s) := h.modSmb

protected theorem Keeps.smbSetAddr {bytes} (h : Keeps s0 s) : Keeps s0 (smbSetAddr s bytes) := by
  unfold smbSetAddr
  dsimp only
  exact Keeps.ite h.smbEnd (Keeps.ite h.smbEnd h.modSmb.smbEnd)

protected theorem Keeps.smbAdvance (h : Keeps s0 s) : Keeps s0 (smbAdvance s) := h.modSmb

protected theorem Keeps.smbAnswer {status w} (h : Keeps s0 s) : Keeps s0 (smbAnswer s status w) := h.smbEnd

protected theorem Keeps.smbReadWord (h : Keeps s0 s) : Keeps s0 (smbReadWord s) := by
  unfold smbReadWord
  dsimp only
  split
  · exact h.drawWord.smbAnswer
  · split
    · exact h.smbAdvance.sealedRefused.smbAnswer
    · split
      · exact h.smbAdvance.drawWord.smbAnswer
      · refine Keeps.smbAnswer ?_
        split
        · exact h.smbAdvance.settleStale.homeRead
        · exact h.smbAdvance.pair_snd

protected theorem Keeps.smbWriteWord {bytes} (h : Keeps s0 s) : Keeps s0 (smbWriteWord s bytes) := by
  unfold smbWriteWord
  dsimp only
  split
  · exact h.smbEnd
  · split
    · exact h.smbAdvance.sealedRefused.smbEnd
    · exact Keeps.ite h.smbAdvance.smbEnd (Keeps.ite h.smbAdvance.settleStale.homeWrite.smbEnd h.smbAdvance.dcsWrite.smbEnd)

protected theorem Keeps.smbWriteCmd {badPec lenOk run} (h : Keeps s0 s) (hrun : Keeps s0 run) :
    Keeps s0 (smbWriteCmd s badPec lenOk run) := Keeps.ite h (Keeps.ite h.smbEnd (Keeps.ite hrun h))

protected theorem Keeps.smbReset {bytes} (h : Keeps s0 s) (hr : s0.samples) : Keeps s0 (smbReset s bytes) :=
  Keeps.ite h.smbEnd (h.smbEnd.warmReset hr)

protected theorem Keeps.smbFlashAddr {bytes} (h : Keeps s0 s) : Keeps s0 (smbFlashAddr s bytes) := Keeps.ite h.modSmb.smbEnd h.smbEnd

protected theorem Keeps.smbFlashRead (h : Keeps s0 s) : Keeps s0 (smbFlashRead s) := by
  unfold smbFlashRead
  dsimp only
  exact Keeps.ite h.freeBytes.smbEnd (Keeps.ite h.freeBytes.smbEnd (Keeps.ite h.modSmb.freeBytes.smbEnd h.modSmb.smbEnd))

protected theorem Keeps.smbFlashOp {ok op} (h : Keeps s0 s) : Keeps s0 (smbFlashOp s ok op) :=
    Keeps.ite h.smbEnd (Keeps.ite h.smbEnd (Keeps.ite h.queueFlash.smbEnd h.smbEnd))

protected theorem Keeps.smbFlashWrite {bytes} (h : Keeps s0 s) : Keeps s0 (smbFlashWrite s bytes) := h.smbFlashOp

protected theorem Keeps.smbFlashErase {bytes} (h : Keeps s0 s) : Keeps s0 (smbFlashErase s bytes) := Keeps.ite h.smbEnd h.smbFlashOp

protected theorem Keeps.smbAlert (h : Keeps s0 s) : Keeps s0 (smbAlert s) := Keeps.ite h.modSmb h

/-! ### Debug -/

protected theorem Keeps.modDbg {f} (h : Keeps s0 s) : Keeps s0 (modDbg s f) := h.frame

protected theorem Keeps.resetSealed (h : Keeps s0 s) : Keeps s0 (resetSealed s) := Keeps.foldl (fun _ _ h => h.partitionReset) h

protected theorem Keeps.jtagExtest (h : Keeps s0 s) : Keeps s0 (jtagExtest s) := by
  unfold jtagExtest
  dsimp only
  exact Keeps.ite h ((Keeps.foldl (fun _ _ hs => hs.linkFail) h.resetSealed).linkDown.modDbg)

protected theorem Keeps.chalCapture (h : Keeps s0 s) : Keeps s0 (chalCapture s) := Keeps.ite h h.modDbg

protected theorem Keeps.dbgTokenIn {bs} (h : Keeps s0 s) : Keeps s0 (dbgTokenIn s bs) := by
  unfold dbgTokenIn
  dsimp only
  exact Keeps.ite h (Keeps.ite ((Keeps.ite h.resetSealed h).modTrust.report) h.modDbg.report)

protected theorem Keeps.dbgRead {w} (h : Keeps s0 s) : Keeps s0 (dbgRead s w).st := by
  unfold dbgRead
  dsimp only
  exact h

protected theorem Keeps.dbgFail {status} (h : Keeps s0 s) : Keeps s0 (dbgFail s status).st := by
  unfold dbgFail
  dsimp only
  exact h

protected theorem Keeps.dbgOp {op ctx addr level hidden run} (h : Keeps s0 s) (hrun : ∀ s, Keeps s0 s → Keeps s0 (run s).st) :
    Keeps s0 (dbgOp s op ctx addr level hidden run) := by
  unfold dbgOp
  dsimp only
  split
  · exact h
  · refine Keeps.modDbg ?_
    split
    · exact h.modDbg.sealedRefused.dbgFail
    · split
      · exact h.modDbg.dbgFail
      · exact hrun _ h.modDbg

protected theorem Keeps.dbgDcs {a} (h : Keeps s0 s) : Keeps s0 (dbgDcs s a).st := by
  unfold dbgDcs
  split
  · exact h.dbgRead
  · exact h.dbgFail

protected theorem Keeps.dbgReadMem {a} (h : Keeps s0 s) : Keeps s0 (dbgReadMem s a).st := by
  unfold dbgReadMem
  dsimp only
  split
  · exact h.settleStale.homeRead.dbgRead
  · exact h.dbgFail

protected theorem Keeps.dbgWriteMem {a w} (h : Keeps s0 s) : Keeps s0 (dbgWriteMem s a w).st := by
  unfold dbgWriteMem
  split
  · exact h.settleStale.homeWrite.res
  · exact h

protected theorem Keeps.dbgReadCtx {c ix} (h : Keeps s0 s) : Keeps s0 (dbgReadCtx s c ix).st := by
  unfold dbgReadCtx
  dsimp only
  split
  · exact h.dbgFail
  · split
    · exact h.dbgRead
    · split
      · split
        · exact h.dbgRead
        · exact h.dbgFail
      · split
        · exact h.dbgRead
        · split
          · exact h.dbgRead
          · exact h.dbgFail

protected theorem Keeps.dbgWriteCr {c n w} (h : Keeps s0 s) : Keeps s0 (dbgWriteCr s c n w).st := by
  unfold dbgWriteCr
  dsimp only
  split
  · exact h.dbgFail
  · split
    · exact h.dbgFail
    · split
      · exact h.dbgFail
      · exact h.crWriteEffect.res

protected theorem Keeps.dbgWriteBank {c a w} (h : Keeps s0 s) : Keeps s0 (dbgWriteBank s c a w).st := by
  unfold dbgWriteBank
  dsimp only
  split
  · split
    · exact h.dbgFail
    · split
      · exact h
      · exact h.modCtx.res
  · split
    · exact h.dbgFail
    · split
      · exact h
      · exact h.modCtx.res

protected theorem Keeps.dbgWriteState {c w} (h : Keeps s0 s) : Keeps s0 (dbgWriteState s c w).st := by
  unfold dbgWriteState
  dsimp only
  split
  · exact h.dbgFail
  · exact h.modCtx.res

protected theorem Keeps.dbgWriteCtx {c ix w} (h : Keeps s0 s) : Keeps s0 (dbgWriteCtx s c ix w).st := by
  unfold dbgWriteCtx
  split
  · exact h.dbgFail
  · split
    · exact h.dbgFail
    · split
      · exact h.writeG.res
      · split
        · exact h.dbgWriteCr
        · split
          · exact h.dbgWriteBank
          · split
            · exact h.dbgWriteState
            · exact h.dbgFail

protected theorem Keeps.execDbgWriteCtx {ctx ix w} (h : Keeps s0 s) : GoesOn s0 (execDbgWriteCtx ctx ix w s) :=
  (h.dbgOp fun _ hs => hs.dbgWriteCtx.res).next

protected theorem Keeps.dbgRun {c f} (h : Keeps s0 s) : Keeps s0 (dbgRun s c f).st := by
  unfold dbgRun
  split
  · exact h.modCtx.res
  · exact h.dbgFail

protected theorem Keeps.execDbgReadMatch {cluster engine ix} (h : Keeps s0 s) : GoesOn s0 (execDbgReadMatch cluster engine ix s) := by
  unfold execDbgReadMatch
  refine Keeps.next ?_
  refine h.dbgOp (fun _ hs => ?_)
  split
  · exact hs
  · exact hs.dbgFail

protected theorem Keeps.execDbgReadPatch {cluster engine ix part} (h : Keeps s0 s) : GoesOn s0 (execDbgReadPatch cluster engine ix part s) := by
  unfold execDbgReadPatch
  refine Keeps.next ?_
  refine h.dbgOp (fun _ hs => ?_)
  split
  · exact hs
  · exact hs.dbgFail

protected theorem Keeps.execDbgReadRom {ix part} (h : Keeps s0 s) : GoesOn s0 (execDbgReadRom ix part s) := by
  unfold execDbgReadRom
  refine Keeps.next ?_
  refine h.dbgOp (fun _ hs => ?_)
  split
  · exact hs
  · exact hs.dbgFail

protected theorem Keeps.traceCtl {die v} (h : Keeps s0 s) : Keeps s0 (traceCtl s die v).st := by
  unfold traceCtl
  dsimp only
  split
  · exact h
  · split
    · exact h
    · exact h.modDbg.res

protected theorem Keeps.traceRead {die ix} (h : Keeps s0 s) : Keeps s0 (traceRead s die ix).st := by
  unfold traceRead
  dsimp only
  split
  · exact h.dbgFail
  · split
    · exact h
    · split
      · exact h.dbgFail
      · exact h

/-! ### Arrival -/

protected theorem Keeps.landWords {c id dsts ws} (h : Keeps s0 s) : Keeps s0 (landWords s c id dsts ws) := h.modCtx

protected theorem Keeps.landFault {c id dsts f} (h : Keeps s0 s) : Keeps s0 (landFault s c id dsts f) := h.modCtx

protected theorem Keeps.landPoll {c m ws} (h : Keeps s0 s) : Keeps s0 (landPoll s c m ws) := by
  unfold landPoll
  dsimp only
  split
  · exact h
  · exact Keeps.ite (Keeps.foldl (fun _ _ hs => hs.writeG) h) h.setCtx

protected theorem Keeps.finishOp {c m r} (h : Keeps s0 s) : Keeps s0 (finishOp s c m r) := by
  unfold finishOp
  split
  · exact h.landFault.freeSlot
  · split
    · exact h.landPoll.landWords.freeSlot
    · exact h.landWords.freeSlot

protected theorem Keeps.setOp {c m} (h : Keeps s0 s) : Keeps s0 (setOp s c m) := h.modCtx

protected theorem Keeps.ctxResolve {c id va w weak} (h : Keeps s0 s) : Keeps s0 (ctxResolve s c id va w weak).1 := by
  unfold ctxResolve
  dsimp only
  split
  · exact h
  · split
    · rename_i he
      exact (h.farTarget.of_fst he).resolve
    · rename_i he
      split
      · exact (h.farTarget.of_fst he).pair
      · split
        · exact (h.farTarget.of_fst he).pair
        · split
          · exact (h.farTarget.of_fst he).pair
          · exact (h.farTarget.of_fst he).sendRemote.pair

protected theorem Keeps.takeWord {c m pa va weak w} (h : Keeps s0 s) : Keeps s0 (takeWord s c m pa va weak w) := by
  unfold takeWord
  split
  · rename_i he
    exact Keeps.ite ((h.ctxResolve.of_fst he).setOp) ((h.ctxResolve.of_fst he).healSlot.finishOp)
  · rename_i he
    exact (h.ctxResolve.of_fst he).finishOp
  · rename_i he
    exact (h.ctxResolve.of_fst he).setOp

protected theorem Keeps.askAgain {c pa va why} (h : Keeps s0 s) : Keeps s0 (askAgain s c pa va why) := h.askFill

protected theorem Keeps.deviceArrives {c m pa va} (h : Keeps s0 s) : Keeps s0 (deviceArrives s c m pa va) := Keeps.ite h h.takeWord

protected theorem Keeps.walkCell {c va priv} (h : Keeps s0 s) : Keeps s0 (walkCell s c va priv).1 := by
  unfold walkCell
  dsimp only
  split
  · exact h
  · exact h
  · split
    · exact h.walkInstall.pair
    · exact h.walkInstall.pair

protected theorem Keeps.prefetchArrives {c m pa left} (h : Keeps s0 s) : Keeps s0 (prefetchArrives s c m pa left) := by
  unfold prefetchArrives
  dsimp only
  split
  · exact h.freeSlot
  · split
    · exact h.modCtx.freeSlot
    · split
      · rename_i he
        exact (h.walkCell.of_fst he).modCtx.freeSlot
      · rename_i he
        exact Keeps.ite ((h.walkCell.of_fst he).setOp.serveEvicted) ((h.walkCell.of_fst he).setOp.askAgain)

protected theorem Keeps.evacArrives {c w gen} (h : Keeps s0 s) : Keeps s0 (evacArrives s c w gen) := by
  unfold evacArrives
  dsimp only
  split
  · exact h.freeSlot
  · split
    · rename_i he
      exact (h.evacuate.of_fst he)
    · rename_i he
      exact (h.evacuate.of_fst he).freeSlot

protected theorem Keeps.derefArrives {c m pa va w} (h : Keeps s0 s) : Keeps s0 (derefArrives s c m pa va w) := by
  unfold derefArrives
  dsimp only
  split
  · exact h.modCtx.freeSlot
  · split
    · exact h
    · split
      · exact h.modCtx.freeSlot
      · exact h.sendRemote

protected theorem Keeps.casStep {c m a typ cmp new card w h'} (h : Keeps s0 s) : Keeps s0 (casStep s c m a typ cmp new card w h') := by
  unfold casStep
  extract_lets core put
  have hput (v : Word) : Keeps s0 (put v) := by
    refine Keeps.ite h.homeWrite (Keeps.ite h.writeHeld ?_)
    split
    · rename_i he
      exact (h.takeOwn _ he).writeHeld
    · exact h.homeWrite
  exact Keeps.ite (hput _).storeMarks.finishOp (Keeps.ite h (hput _)).finishOp

protected theorem Keeps.casHere {c m pa va typ cmp new card} (h : Keeps s0 s) : Keeps s0 (casHere s c m pa va typ cmp new card) := by
  unfold casHere
  dsimp only
  split
  · exact h
  · split
    · exact h.finishOp
    · exact Keeps.ite ((Keeps.ite h.flushLine h).casStep) h.setOp
    · split
      · rename_i he
        exact Keeps.ite (((Keeps.ite h.flushLine h).ctxResolve.of_fst he).casStep) (((Keeps.ite h.flushLine h).ctxResolve.of_fst he))
      · rename_i he
        exact ((Keeps.ite h.flushLine h).ctxResolve.of_fst he).finishOp
      · rename_i he
        exact ((Keeps.ite h.flushLine h).ctxResolve.of_fst he)

protected theorem Keeps.sendCas {c m pa va sent new} (h : Keeps s0 s) : Keeps s0 (sendCas s c m pa va sent new) := by
  unfold sendCas
  split
  · exact h.finishOp
  · exact h.setOp.askRemote

protected theorem Keeps.casFarStep {c m pa va cmp new w h'} (h : Keeps s0 s) : Keeps s0 (casFarStep s c m pa va cmp new w h') :=
    Keeps.ite (Keeps.ite h.sendCas h.sendCas) (Keeps.ite h h.healSlot.finishOp)

protected theorem Keeps.casFar {c m pa va cmp new} (h : Keeps s0 s) : Keeps s0 (casFar s c m pa va cmp new) := by
  unfold casFar
  dsimp only
  split
  · exact h.finishOp
  · exact h.casFarStep
  · split
    · split
      · exact h.finishOp
      · split
        · rename_i he
          exact (h.ctxResolve.of_fst he).casFarStep
        · rename_i he
          exact (h.ctxResolve.of_fst he).finishOp
        · rename_i he
          exact (h.ctxResolve.of_fst he).setOp
    · split
      · exact h.sendCas
      · split
        · rename_i he
          exact (h.ctxResolve.of_fst he).casFarStep
        · rename_i he
          exact (h.ctxResolve.of_fst he).finishOp
        · rename_i he
          exact (h.ctxResolve.of_fst he).setOp
  · exact Keeps.ite h h.sendCas

protected theorem Keeps.valueArrival {c} (h : Keeps s0 s) : Keeps s0 (valueArrival s c) := by
  unfold valueArrival
  dsimp only
  split
  · exact h
  · split
    · exact h
    · split
      · exact Keeps.ite h.casFar h.casHere
      · exact h.evacArrives
      · exact h.freeSlot
      · exact h.derefArrives
      · exact h.finishOp
      · exact Keeps.ite h.serveEvicted.takeWord h.askAgain
      · exact Keeps.ite h.prefetchArrives h.askAgain
      · exact h.deviceArrives
      · exact h.takeWord
      · exact Keeps.ite h h.healSlot.finishOp
      · exact h.takeWord
      · exact h.takeWord
      · exact h.finishOp
      · exact h.finishOp
      · exact h

protected theorem Keeps.popStore {core} (h : Keeps s0 s) : Keeps s0 (popStore s core) := h.modCore

protected theorem Keeps.drainFar {core e} (h : Keeps s0 s) : Keeps s0 (drainFar s core e) := by
  unfold drainFar
  dsimp only
  split
  · exact h.popStore.storeFailed
  · exact Keeps.ite h h.popStore.askRemote

protected theorem Keeps.askWrite {core e line} (h : Keeps s0 s) : Keeps s0 (askWrite s core e line) := by
  unfold askWrite
  dsimp only
  exact Keeps.ite h (Keeps.ite h (Keeps.ite h.modCore.modCluster h.modCore))

protected theorem Keeps.storeDrain {core} (h : Keeps s0 s) : Keeps s0 (storeDrain s core) := by
  unfold storeDrain
  dsimp only
  split
  · exact h
  · exact Keeps.ite h (Keeps.ite h.drainFar (Keeps.ite h.popStore.dcsWrite (Keeps.ite h (Keeps.ite (Keeps.ite h h.popStore.askHome)
      (Keeps.ite h.popStore.writeHeld.storeMarks h.askWrite)))))

/-! ### Time -/

protected theorem Keeps.tickTime (h : Keeps s0 s) : Keeps s0 (tickTime s) := by
  unfold tickTime
  dsimp only
  exact Keeps.ite h.frame (Keeps.ite h.frame (Keeps.ite h.frame h.frame))

protected theorem Keeps.tickLife {n} (h : Keeps s0 s) : Keeps s0 (tickLife n s) := by
  unfold tickLife
  dsimp only
  exact h.frame

protected theorem Keeps.tickIdle (h : Keeps s0 s) : Keeps s0 (tickIdle s) := by
  unfold tickIdle
  dsimp only
  exact Keeps.foldl (fun _ _ hs => (Keeps.ite hs.noteIdle hs).frame) h

protected theorem Keeps.tick (h : Keeps s0 s) : Keeps s0 (tick s) := by
  unfold tick
  dsimp only
  exact Keeps.ite h.frame (Keeps.ite h.frame.tickTime h.frame.tickTime.tickLife.tickIdle)

end
end Sys2Proof.Machine

namespace Sys2Proof.Machine
open Sys2Proof

section
variable {s0 : Origin} {s : State}

/-- Every command goes on, and keeps what every command keeps. -/
protected theorem Keeps.exec (c : Instr) (h : Keeps s0 s) (hr : s0.samples) : GoesOn s0 (exec c s) := by
  cases c with
  | fetchPacket _ => exact h.fetchStep.next
  | packetIssue _ _ => exact h.packetIssue.next
  | interruptTaken _ => exact h.interruptTaken.next
  | receiveWaitWithdraw _ => exact h.receiveWithdraw.next
  | deferredStoreFaultEntry _ => exact h.deferredStoreFault.next
  | nurserySuspendEntry _ => exact h.nurserySuspend.next
  | valueArrival _ => exact h.valueArrival.next
  | tlbWalkComplete _ => exact h.tlbWalkComplete.next
  | storeDrain _ => exact h.storeDrain.next
  | fenceWaitEnd _ => exact h.fenceEnd.next
  | udrainWaitEnd _ => exact h.udrainEnd.next
  | tlbiReceive _ => exact h.tlbiReceive.next
  | tlbiAck _ => exact h.tlbiAck.next
  | routineRequestTaken _ _ => exact h.routineTake.next
  | routineSegment _ _ => exact h.routineSegment.next
  | routineYieldComplete _ => exact h.yieldComplete.next
  | collectorPhaseAdvance _ => exact (Keeps.ite h h.phaseAdvance).next
  | collectorMarkWork _ => exact h.execCollectorMarkWork
  | weakBoxVisit _ => exact (h.collRound (fun _ hs => hs.weakVisit)).next
  | collectorEvacuation _ => exact (h.collRound (fun _ hs => hs.evacStep)).next
  | rangeOperationRun _ => exact h.rangeRun.next
  | rangeCompletionRetry _ => exact h.rangeRetry.next
  | l1dFill _ _ => exact h.l1dFill.next
  | l1dEvictionWrite _ => exact h.writeEvict.next
  | homeRead _ _ => exact h.homeReadReq.next
  | homeReadForOwnership _ _ => exact h.homeOwnReq.next
  | homeUpgrade _ _ => exact h.homeUpgradeReq.next
  | homeClaim _ _ => exact h.homeClaimReq.next
  | homeWriteback _ _ => exact (Keeps.ite h h.homeWritebackReq).next
  | homeCleanEviction _ _ => exact h.homeCleanReq.next
  | homeUncachedRead _ => exact h.execHomeUncachedRead
  | homeUncachedWrite _ => exact h.execHomeUncachedWrite
  | keepNotice _ _ => exact h.keepNoticeReq.next
  | clusterRecall _ _ _ => exact h.clusterRecallReq.next
  | queueReceiveRequest _ => exact h.receiveRequest.next
  | messageRelease _ => exact h.messageRelease.next
  | queueMessageArrival _ _ => exact h.messageArrival.next
  | slwinlWrite _ _ => exact h.slwinlWrite.next
  | windowFillDone _ => exact h.windowFillDone.next
  | slcmdAttest _ => exact h.takeSlcmd.next
  | slcmdExtend _ => exact h.takeSlcmd.next
  | sealingCommandDone _ => exact h.sealingDone.next
  | tmdlWrite _ _ => exact h.tmdlWrite.next
  | contextTimerExpiry _ => exact h.timerExpiry.next
  | wdctlKick => exact h.wdRestart.next
  | wdctlEnable _ => exact h.wdctlWrite.next
  | watchdogExpiry => exact (h.watchdogFire hr).next
  | calalmExpiry => exact h.alarmFire.next
  | calsecWrite _ => exact h.calsecWrite.next
  | caltrimWrite _ => exact h.caltrimWrite.next
  | calOscFail => exact h.calOscFail.next
  | clcmdOff _ => exact h.clusterOff.next
  | clusterDrainDone _ => exact h.drainDone.next
  | clcmdOn _ => exact h.clusterOn.next
  | clusterRetainEntry _ => exact h.retainEntry.next
  | clusterWake _ => exact h.clusterWake.next
  | stackSelfRefresh _ => exact h.stackSleep.next
  | powerDomainOffRequest _ => exact h.domainOff.next
  | vcoreAdjust _ _ _ => exact h.vcoreAdjust.next
  | thermalLimitChange _ => exact h.thermalChange.next
  | thermtrip => exact h.thermtrip.next
  | vrqAlert _ => exact h.vrqAlert.next
  | refclkLoss => exact h.refclkLoss.next
  | refclkReturn => exact h.execRefclkReturn
  | railLoss _ => exact h.execRailLoss
  | coldReset => exact h.execColdReset hr
  | warmReset _ => exact (h.warmReset hr).next
  | afterglowReport _ => exact h.afterglowReport.next
  | aggEntryClose _ => exact h.aggEntryClose.next
  | suppRecordTimeout _ => exact h.suppTimeout.next
  | afterglowDrain => exact h.afterglowDrain.next
  | afterglowDrainRetry => exact h.drainRetry.next
  | ringScrub _ => exact h.ringScrub.next
  | penumbraWindowExpiry _ => exact h.penExpiry.next
  | agcmdClearFb => exact h.agClearFb.next
  | agcmdFlushAgg => exact h.closeAll.next
  | ltcmdSave => exact h.ltcmdSave.next
  | lifetimePageWrite => exact h.lifetimePageWrite.next
  | dcsRegisterWrite _ _ _ => exact h.execDcsRegisterWrite
  | pcieMemoryRead _ _ _ _ => exact h.pcieRead.next
  | pcieMemoryWrite _ _ _ _ _ => exact h.pcieWrite.next
  | pcieConfigRequest _ _ _ _ => exact h.pcieConfig.next
  | pcieFlr _ => exact h.pcieFlr.next
  | pcieUnsupportedRequest _ _ => exact h.pcieUnsupported.next
  | pcieMalformedTlp _ _ => exact h.pcieMalformed.next
  | pciePmeTurnOff => exact (Keeps.ite h h.complete).next
  | pcieLinkDown => exact h.linkDown.next
  | hqheadWrite _ _ _ => exact h.hqhead.next
  | hscmdSend _ _ => exact h.hscmd.next
  | hmcmdAttest _ => exact h.hmcmd.next
  | hmcmdEnrol _ => exact h.hmcmd.next
  | hmcmdTransfer _ => exact h.hmcmd.next
  | hmcmdRevoke _ => exact h.hmcmd.next
  | hmcmdSvnRaise _ => exact h.hmcmd.next
  | hmcmdReform _ => exact h.hmcmd.next
  | hmcmdPartReset _ => exact h.hmcmd.next
  | hmcmdWarmReset _ => exact h.hmcmd.next
  | hmcmdFlashWrite _ => exact h.hmcmd.next
  | hmcmdFlashErase _ => exact h.hmcmd.next
  | hostCommandDone => exact (h.hostDone hr).next
  | flashOperationDone => exact h.flashDone.next
  | rfcmdForm => exact h.rfcmd.next
  | rfcmdStanddown => exact h.rfcmd.next
  | rfcmdRelinquish => exact h.rfcmd.next
  | smbGetStatus => exact (Keeps.ite h.smbStatus h).next
  | smbSetAddr _ _ => exact (h.smbWriteCmd h.smbSetAddr).next
  | smbRead => exact (Keeps.ite h.smbReadWord h).next
  | smbWrite _ _ => exact (h.smbWriteCmd h.smbWriteWord).next
  | smbGetLast => exact (Keeps.ite h.smbLast h).next
  | smbWarmReset _ _ => exact (h.smbWriteCmd (h.smbReset hr)).next
  | smbFlashAddr _ _ => exact (h.smbWriteCmd h.smbFlashAddr).next
  | smbFlashRead => exact (Keeps.ite h.smbFlashRead h).next
  | smbFlashWrite _ _ => exact (h.smbWriteCmd h.smbFlashWrite).next
  | smbFlashErase _ _ => exact (h.smbWriteCmd h.smbFlashErase).next
  | smbAlertResponse => exact (Keeps.ite h.smbAlert h).next
  | jtagExtest => exact h.jtagExtest.next
  | dbgChalCapture => exact h.chalCapture.next
  | dbgToken _ => exact h.dbgTokenIn.next
  | dbgNop => exact (h.dbgOp (fun _ hs => hs)).next
  | dbgReadBoot => exact (h.dbgOp (fun _ hs => hs)).next
  | dbgReadDcs _ => exact (h.dbgOp (fun _ hs => hs.dbgDcs)).next
  | dbgReadMem _ => exact (h.dbgOp (fun _ hs => hs.dbgReadMem)).next
  | dbgWriteMem _ _ => exact (h.dbgOp (fun _ hs => hs.dbgWriteMem)).next
  | dbgReadCtx _ _ => exact (h.dbgOp (fun _ hs => hs.dbgReadCtx)).next
  | dbgWriteCtx _ _ _ => exact h.execDbgWriteCtx
  | dbgHalt _ => exact (h.dbgOp (fun _ hs => hs.dbgRun)).next
  | dbgStep _ => exact (h.dbgOp (fun _ hs => hs.dbgRun)).next
  | dbgResume _ => exact (h.dbgOp (fun _ hs => hs.dbgRun)).next
  | dbgReadMatch _ _ _ => exact h.execDbgReadMatch
  | dbgReadPatch _ _ _ _ => exact h.execDbgReadPatch
  | dbgReadRom _ _ => exact h.execDbgReadRom
  | dbgTraceCtl _ _ => exact (h.dbgOp (fun _ hs => hs.traceCtl)).next
  | dbgTraceRead _ _ => exact (h.dbgOp (fun _ hs => hs.traceRead)).next
  | portTraining _ _ _ _ _ _ => exact h.portTraining.next
  | trainingStepTimeout _ => exact h.trainTimeout.next
  | trainFlit _ _ _ _ _ => exact h.trainFlit.next
  | linkCtrlAck _ _ => exact h.linkAck.next
  | linkCtrlReplay _ _ => exact h.linkReplay.next
  | linkCtrlCredit _ _ _ => exact h.linkCredit.next
  | linkCtrlRetrain _ _ => exact h.linkRetrain.next
  | linkAckSend _ => exact h.linkAckSend.next
  | flitError _ _ => exact h.flitError.next
  | linkUnackTimeout _ => exact h.unackTimeout.next
  | flitViolation _ _ _ _ => exact h.flitViolation.next
  | ctrlRouteOpen _ _ _ _ => exact h.execCtrlRouteOpen
  | ctrlRouteReply _ _ _ _ => exact (h.ctrlIn (fun _ hs => hs.routeReply)).next
  | ctrlWithdraw _ _ _ _ => exact (h.ctrlIn (fun _ hs => hs.withdrawIn)).next
  | ctrlWithdrawAck _ _ _ _ => exact (h.ctrlIn (fun _ hs => hs.withdrawAck)).next
  | ctrlFlowRequest _ _ _ _ => exact (h.ctrlIn (fun _ hs => hs.flowRequest)).next
  | ctrlFlowReply _ _ _ _ => exact (h.ctrlIn (fun _ hs => hs.flowReply)).next
  | ctrlForwardDeclare _ _ _ _ => exact (h.ctrlIn (fun _ hs => hs.forwardDeclare)).next
  | ctrlRetrain _ _ => exact (h.ctrlIn (fun _ hs => hs.orderRetrain)).next
  | ctrlCollect _ _ _ => exact (h.ctrlIn (fun _ hs => hs.collectIn)).next
  | ctrlPhaseEnd _ _ _ _ => exact (h.ctrlIn (fun _ hs => hs.phaseEndIn)).next
  | remoteReadRequest _ _ _ => exact h.execRemoteReadRequest
  | remoteResolveRequest _ _ _ => exact h.execRemoteResolveRequest
  | remoteWriteRequest _ _ _ _ => exact (h.remServe (fun _ _ hs => hs.homeWrite.pair)).next
  | remoteCasRequest _ _ _ _ _ => exact (h.remServe (fun _ _ hs => hs.farCas)).next
  | remoteWriteBarRequest _ _ _ _ _ => exact (h.remServe (fun _ _ hs => hs.writeBar)).next
  | remoteResponse _ _ _ _ => exact h.remoteResponse.next
  | remoteRequestTimeout _ => exact h.remoteTimeout.next
  | msgAckReceive _ _ _ => exact h.msgAck.next
  | timeRequest _ _ _ => exact h.timeRequest.next
  | timeResponse _ _ _ _ _ => exact h.timeResponse.next
  | timeExchangeTick => exact h.timeExchange.next
  | timebaseLockTimeout => exact h.lockTimeout.next
  | linkFailure _ _ => exact (Keeps.ite h.linkFail h).next
  | epochEndTrigger => exact h.epochEnd.next
  | epochCapture => exact h.epochCapture.next
  | reflectLine _ _ _ => exact h.itemIn.next
  | reflectSnap _ _ _ => exact h.itemIn.next
  | reflectPstate _ _ _ => exact h.itemIn.next
  | reflectQdesc _ _ _ => exact h.itemIn.next
  | reflectFailed _ _ _ => exact h.itemIn.next
  | reflectEmslot _ _ _ => exact h.itemIn.next
  | reflectAfterglow _ _ _ => exact h.itemIn.next
  | reflectGcmTag _ _ _ => exact h.gcmTagIn.next
  | reflectEpochEnd _ _ => exact h.itemIn.next
  | journalApplyDone => exact h.applyDone.next
  | reflectEpochAck _ _ => exact h.itemIn.next
  | reflectHeartbeat _ _ => exact h.itemIn.next
  | heartbeatSend => exact h.heartbeatOut.next
  | pairFormationTimeout => exact h.formTimeout.next
  | reflectRekey => exact h.rekey.next
  | reflectLinkLoss => exact h.reflLoss.next
  | twinAliveEdge => exact h.aliveEdge.next
  | twinAliveSilent => exact h.aliveSilent.next
  | twinAlivePatternEdge => exact h.patternEdge.next
  | settleWindowEnd => exact h.settleEnd.next
  | vaonLoss => exact h.execVaonLoss
  | vbakLoss => exact h.execVbakLoss
  | railReturn => exact h.execRailReturn
  | crystalTickReturn => exact h.modCal.next
  | thermalExcursion => exact h.thermalExcursion.next
  | thermalReadmission => exact h.thermalReadmit.next
  | powerDomainWake _ => exact h.domainWake.next
  | pcieLinkUp _ _ => exact h.linkUp.next
  | rngHealthFail => exact h.execRngHealthFail
  | bootStageComplete => exact h.bootStageComplete.next
  | flitSlot _ => exact h.flitSlot.next
  | routineRestartAbandon _ => exact h.restartAbandon.next

theorem Keeps.sameDevice (h : Keeps s0 s) : SameDevice s0.toState s :=
  ⟨h.part, h.dev.imp_right And.right, h.boardSlot, h.pending⟩

/-- Between resets the device keeps its number. -/
theorem Keeps.dev_of_no_reset {t : State} (h : Keeps ⟨s, False⟩ t) : t.dev = s.dev := h.dev.resolve_right And.left

/-- A step goes on; but for the command that it takes from the queue it keeps what every command keeps. -/
theorem goesOn_step (s : State) : ∃ rest, GoesOn ⟨s.withPending rest, True⟩ (step s) := by
  unfold step
  split
  · rename_i hp
    refine ⟨[], Keeps.next ?_⟩
    rw [State.withPending, ← hp]
    exact (Keeps.refl s).tick
  · rename_i c rest hp
    exact ⟨rest, Keeps.exec c (Keeps.refl _) trivial⟩

theorem keeps_of_step {t : State} (h : step s = .next t) : ∃ rest, Keeps ⟨s.withPending rest, True⟩ t := by
  obtain ⟨rest, t', ht, hk⟩ := goesOn_step s
  rw [h] at ht
  cases ht
  exact ⟨rest, hk⟩

end

/-- Settles O5: memory's canonical form is part of what every command, and every tick, keeps. -/
theorem everyStepKeepsInv : Obligations.EveryStepKeepsInv := by
  intro s t hs h
  obtain ⟨rest, hk⟩ := keeps_of_step h
  exact hk.wf hs

/-- Settles O60: only a reset programs fuses, and each programming takes a maximum. -/
theorem fusesNeverFall : Obligations.FusesNeverFall := by
  intro s t h
  obtain ⟨rest, hk⟩ := keeps_of_step h
  exact hk.fuses

/-- Settles O6: no command touches the part, the straps or the queue, and the resets alone write the device number. -/
theorem commandsKeepDevice : Obligations.CommandsKeepDevice := by
  intro c s t h
  obtain ⟨t', ht, hk⟩ := Keeps.exec c (Keeps.refl s) trivial
  rw [h] at ht
  cases ht
  exact hk.sameDevice

/-- Settles O7: every arm of the dispatcher answers a next state. -/
theorem everyCommandCompletes : Obligations.EveryCommandCompletes := by
  intro c s
  obtain ⟨t, ht, hk⟩ := Keeps.exec c (Keeps.refl s) trivial
  exact ⟨t, ht, hk.sameDevice⟩

/-- Settles O8: a step is a tick or a command, and both answer a next state. -/
theorem everyStepIsSafe : Obligations.EveryStepIsSafe := by
  intro s
  obtain ⟨rest, t, ht, -⟩ := goesOn_step s
  exact ⟨t, ht⟩

end Sys2Proof.Machine

namespace Sys2Proof.Machine
open Sys2Proof

/-! ## Home slices take lines back (O33) -/

/-- A line deleted from the directory is UNCACHED. -/
theorem dirOf_tdel_same {s t : State} {line : Nat} (h : t.dir = tdel s.dir line) : dirOf t line = none := by
  have : (tdel s.dir line).find? (fun e => e.1 == line) = none := List.find?_eq_none.mpr fun e he => by
    simpa using (List.mem_filter.mp he).2
  rw [dirOf, h, this, Option.map_none]

/-- A key set in a table is found with its value. -/
theorem find?_tput_same {α : Type} (tab : Tab α) (n : Nat) (v : α) : (tput tab n v).find? (fun e => e.1 == n) = some (n, v) := by
  induction tab with
  | nil => simp [tput]
  | cons e tab ih =>
    simp only [tput]
    split
    · simp
    · split
      · simp
      · next hne _ => rw [List.find?_cons_of_neg (by simpa using Ne.symm hne), ih]

theorem dirOf_setDir_of_ne_nil {cs : List Nat} (s : State) (line : Nat) (h : cs ≠ []) :
    dirOf (setDir s line cs) line = some (.shared cs) := by
  have hempty : cs.isEmpty = false := by simpa using h
  simp only [dirOf, setDir, hempty, Bool.false_eq_true, if_false, find?_tput_same, Option.map_some]

theorem getCluster_setDir (s : State) (line c : Nat) (cs : List Nat) : getCluster (setDir s line cs) c = getCluster s c := rfl

/-- The eviction buffer of a cluster from which the line's entries are taken holds none of them. -/
theorem line_ne_of_mem_filter_wb {ws : List WbEnt} {line : Nat} : ∀ e ∈ ws.filter (fun e => e.line != line), e.line ≠ line :=
  fun _ he => by simpa using (List.mem_filter.mp he).2

/-- Memory takes the victim's words, the directory entry goes, and the eviction buffer's entry with it. -/
theorem homeWritebackReq_of_owned {s : State} {c line : Nat} {w : WbEnt}
    (hw : ((getCluster s c).wb.find? fun e => e.line == line && !e.answered) = some w) (hsent : w.sent = false)
    (hown : dirOf s line = some (.owned c)) : homeWritebackReq s c line =
      modCluster { writeWords s (line * 8) w.data with dir := tdel s.dir line } c
        fun k => { k with wb := k.wb.filter fun e => e.line != line } := by
  simp [homeWritebackReq, hw, hsent, hown]

theorem keepNoticeReq_of_shared {s : State} {c line : Nat} {w : WbEnt} {cs : List Nat}
    (hw : ((getCluster s c).wb.find? fun e => e.line == line && e.answered) = some w)
    (hdir : dirOf s line = some (.shared cs)) (hc : c ∉ cs) : keepNoticeReq s c line =
      setDir (modCluster s c fun k => { k with wb := k.wb.filter fun e => e.line != line }) line (cs ++ [c]) := by
  simp [keepNoticeReq, hw, hdir, hc]

/-- Settles O33: a clause for each of the four requests. -/
theorem homeTakesLinesBack : Obligations.HomeTakesLinesBack := by
  refine ⟨?writeback, ?keepNotice, ?cleanEviction, ?evictionRecall⟩
  case writeback =>
    intro s c line i w hw hsent hlen hown hship hi
    refine ⟨_, by rw [exec, execHomeWriteback, hship, if_neg Bool.false_ne_true, homeWritebackReq_of_owned hw hsent hown], ?_, ?_, ?_, ?_⟩
    · have hread := readWord_writeWords s (line * 8) (line * 8 + i) w.data
      rw [if_pos ⟨by omega, by omega⟩, Nat.add_sub_cancel_left] at hread
      exact hread
    · exact dirOf_tdel_same (s := s) rfl
    · rw [getCluster_modCluster_same]
      exact line_ne_of_mem_filter_wb
    · obtain ⟨m, rf, h⟩ := writeWords_spec s (line * 8) w.data
      rw [modCluster_ctxs, h]
  case keepNotice =>
    intro s c line w cs hw hdir hc
    refine ⟨_, congrArg Host.Outcome.next (keepNoticeReq_of_shared hw hdir hc), dirOf_setDir_of_ne_nil _ _ (by simp), ?_, rfl, rfl⟩
    rw [getCluster_setDir, getCluster_modCluster_same]
    exact line_ne_of_mem_filter_wb
  case cleanEviction =>
    intro s c line cs hst hwb hlost hdir
    have hreq : homeCleanReq s c line = setDir s line (cs.filter (· != c)) := by
      rw [homeCleanReq, hst, hwb, hlost, hdir]
      rfl
    exact congrArg Host.Outcome.next hreq
  case evictionRecall =>
    intro s c line hc
    simp only [exec, execClusterRecall, clusterRecallReq, hc, Bool.not_true, Bool.false_eq_true, if_false, if_true]

end Sys2Proof.Machine

namespace Sys2Proof.Machine
open Sys2Proof

/-! ## What a report leaves unchanged -/

section
variable (s : State) (code : Nat) (subj : Subject) (pay : List W64) (wit : Option Subject)

@[simp] theorem report_mem : (report s code subj pay wit).mem = s.mem := by
  obtain ⟨rs, gl, h⟩ := report_spec s code subj pay wit; rw [h]
@[simp] theorem report_ctxs : (report s code subj pay wit).ctxs = s.ctxs := by
  obtain ⟨rs, gl, h⟩ := report_spec s code subj pay wit; rw [h]
@[simp] theorem report_ports : (report s code subj pay wit).ports = s.ports := by
  obtain ⟨rs, gl, h⟩ := report_spec s code subj pay wit; rw [h]
@[simp] theorem getPort_report (p : Nat) : getPort (report s code subj pay wit) p = getPort s p := by
  rw [getPort, report_ports, getPort]

end

end Sys2Proof.Machine

namespace Sys2Proof.Machine
open Sys2Proof

/-! ## The link layer's control flits, limits and violations (O37) -/

/-- Flits put on ports to be sent: no other field of the device changes, and no replay buffer and no port's state. -/
def OnlySends (s t : State) : Prop :=
  (∃ ps, t = { s with ports := ps }) ∧ ∀ p, (getPort t p).replay = (getPort s p).replay ∧ (getPort t p).st = (getPort s p).st

theorem OnlySends.refl (s : State) : OnlySends s s := ⟨⟨s.ports, rfl⟩, fun _ => ⟨rfl, rfl⟩⟩

theorem OnlySends.trans {s t u : State} (h : OnlySends s t) (h' : OnlySends t u) : OnlySends s u := by
  obtain ⟨⟨ps, rfl⟩, hp⟩ := h
  obtain ⟨⟨ps', rfl⟩, hp'⟩ := h'
  exact ⟨⟨ps', rfl⟩, fun p => ⟨(hp' p).1.trans (hp p).1, (hp' p).2.trans (hp p).2⟩⟩

theorem onlySends_sendFlit (s : State) (port : Nat) (f : Flit) : OnlySends s (sendFlit s port f) := by
  refine ⟨⟨_, rfl⟩, fun p => ?_⟩
  by_cases hp : p = port
  · subst hp; simp [sendFlit]
  · simp [sendFlit, hp]

theorem onlySends_sendCtrl (s : State) (target op part : Nat) (args : List Word) (token : Nat) :
    OnlySends s (sendCtrl s target op part args token) := onlySends_sendFlit ..

theorem onlySends_foldl {α : Type} {f : State → α → State} (hf : ∀ s x, OnlySends s (f s x)) (xs : List α) (s : State) :
    OnlySends s (xs.foldl f s) := by
  induction xs generalizing s with
  | nil => exact .refl s
  | cons x xs ih => exact (hf s x).trans (ih _)

/-- Acknowledging and retrying withdrawals sends control messages and updates the two lists of withdrawals. -/
theorem settleWithdraw_spec (s : State) : ∃ ps wd,
    settleWithdraw s = { s with ports := ps, withdrawn := s.withdrawn.filter (pathBusy s), withdrawing := wd } ∧
    ∀ p, (tget {} ps p).replay = (getPort s p).replay ∧ (tget {} ps p).st = (getPort s p).st := by
  obtain ⟨⟨ps, h⟩, hp⟩ := onlySends_foldl (fun s (e : Withdrawal) =>
    onlySends_sendCtrl s e.dev 4 e.part [Word.fixN e.kind, Word.fixN e.ix] e.token)
    (s.withdrawn.filter fun e => !pathBusy s e) { s with withdrawn := s.withdrawn.filter (pathBusy s) }
  obtain ⟨⟨ps', h'⟩, hp'⟩ := onlySends_foldl (fun s (e : Withdrawal) =>
    onlySends_sendCtrl s e.dev 3 e.part [Word.fixN e.kind, Word.fixN e.ix] 0)
    (s.withdrawing.filter fun e => !e.sent && (e.kind != 1 || !flowBusy s e))
    { s with ports := ps, withdrawn := s.withdrawn.filter (pathBusy s)
             withdrawing := s.withdrawing.map fun e => if !e.sent && (e.kind != 1 || !flowBusy s e) then { e with sent := true } else e }
  refine ⟨ps', _, by rw [settleWithdraw, h]; exact h', fun p => ?_⟩
  rw [h'] at hp'
  rw [h] at hp
  exact ⟨(hp' p).1.trans (hp p).1, (hp' p).2.trans (hp p).2⟩

section
variable {s : State} {port : Nat}

theorem linkReplay_of_first {seq i : Nat} (hrun : linkRuns s port = true)
    (hi : ((List.range (getPort s port).replay.length).find? fun i => ((getPort s port).replay[i]?.map Flit.seq) == some seq) = some i)
    (hn : (getPort s port).replayCount = 0 ∨ (getPort s port).replaySeq ≠ seq) : linkReplay s port seq =
      modPort s port fun q => { q with resend := q.replay.drop i, replaySeq := seq, replayCount := 1 } := by
  have hcount : ¬ ((getPort s port).replaySeq = seq ∧ (getPort s port).replayCount ≠ 0) := by tauto
  simp [linkReplay, hrun, hi, hcount]

theorem linkReplay_of_sixteenth {seq i : Nat} (hrun : linkRuns s port = true)
    (hi : ((List.range (getPort s port).replay.length).find? fun i => ((getPort s port).replay[i]?.map Flit.seq) == some seq) = some i)
    (hn : (getPort s port).replayCount = 15) (hseq : (getPort s port).replaySeq = seq) : linkReplay s port seq =
      linkFail (modPort s port fun q => { q with resend := q.replay.drop i, replaySeq := seq, replayCount := 16 }) port 2 := by
  simp [linkReplay, hrun, hi, hn, hseq]

/-- One violation in an empty window stays below a threshold above one, so the link goes on. -/
theorem countViolation_of_first {kind : Nat} (hempty : (getPort s port).violTimes = []) (hcount : 1 < (threshOf s 6).1) :
    countViolation s port kind = report (modPort s port fun p => { p with
      viol := if p.viol = 0xFFFFFFFF then p.viol else p.viol + 1
      violTimes := (p.violTimes ++ [s.time]).filter fun t => decide (s.time < t + (threshOf s 6).2) })
      0x7002 (.port port) [BitVec.ofNat 64 kind] := by
  have hlen : (([s.time]).filter fun t => decide (s.time < t + (threshOf s 6).2)).length ≤ 1 := List.length_filter_le ..
  rw [countViolation]
  dsimp only
  rw [if_neg]
  rw [getPort_report, getPort_modPort_same, hempty, List.nil_append]
  exact Nat.not_le.mpr (Nat.lt_of_le_of_lt hlen hcount)

end

/-- Settles O37: a clause for each flit, limit and violation, and what settling the withdrawals leaves. -/
theorem linkLayerRuns : Obligations.LinkLayerRuns := by
  refine ⟨⟨?acknowledge, ?credit, ?retrain, ?acknowledgeSend, ?flitInError, ?replayAsked⟩,
    ⟨?unacknowledged, ?notYet, ?failure, ?violation, ?outOfOrder, ?freeKind, ?counted, ?notInUse⟩, ?settle⟩
  case acknowledge =>
    intro s port seq i hrun hi
    refine ⟨⟨_, congrArg Host.Outcome.next (by simp only [linkAck, hrun, hi, Bool.not_true, Bool.false_eq_true, if_false]; rfl), ?_⟩,
      fun hn => congrArg Host.Outcome.next (linkReplay_of_first hrun hi hn),
      fun hn hseq => congrArg Host.Outcome.next (linkReplay_of_sixteenth hrun hi hn hseq)⟩
    refine ⟨by simp, by simp, by simp, fun p hp => by simp [hp], rfl, rfl, rfl, rfl⟩
  case credit =>
    intro s port vc n hrun
    refine ⟨fun hvc => ⟨_, congrArg Host.Outcome.next (by
      simp only [linkCredit, hrun, Nat.not_le.mpr hvc, Bool.not_true, Bool.false_eq_true, if_false]; rfl), ?_⟩, fun hvc => ?_⟩
    · exact ⟨by simp, fun v hv => by simp [hv], fun p hp => by simp [hp], rfl, rfl, rfl⟩
    · exact congrArg Host.Outcome.next (by simp [linkCredit, hrun, hvc])
  case retrain =>
    intro s port lane hrun hlane
    exact ⟨congrArg Host.Outcome.next (by simp [linkRetrain, hrun, hlane]), by simp [retrainPort],
      by simp [retrainPort, countTraining, chargeLane], by simp [retrainPort, countTraining, chargeLane]⟩
  case acknowledgeSend =>
    intro s port hrun hrx
    exact congrArg Host.Outcome.next (by simp [linkAckSend, hrun, hrx])
  case flitInError =>
    intro s port lane hrun h
    have hask : ((getPort s port).discarding && Machine.replayAsked (getPort s port)) = false := by
      simpa [Classical.or_iff_not_imp_left] using h
    refine ⟨_, congrArg Host.Outcome.next (by
      simp only [Machine.flitError, hrun, hask, Bool.not_true, Bool.or_self, Bool.false_eq_true, if_false]; rfl), ?_⟩
    exact ⟨by simp [sendFlit], by simp [sendFlit], fun p hp => by simp [sendFlit, hp], rfl, rfl⟩
  case replayAsked =>
    intro s port lane hrun hdisc hask
    exact congrArg Host.Outcome.next (by simp [Machine.flitError, hdisc, hask])
  case unacknowledged =>
    intro s port hrun hlen htime
    exact congrArg Host.Outcome.next (by simp [unackTimeout, hrun, hlen, htime])
  case notYet =>
    intro s port h
    refine congrArg Host.Outcome.next (if_neg ?_)
    simp only [Bool.and_eq_true, decide_eq_true_eq]
    omega
  case failure =>
    intro s port cause h1 h6
    exact congrArg Host.Outcome.next (if_pos ⟨h1, h6⟩)
  case violation =>
    intro s port kind x hopen hseq h1 h9
    have hkind : kind ≠ 0 := by omega
    exact congrArg Host.Outcome.next (by simp [Machine.flitViolation, hopen, hseq, hkind, Nat.not_lt.mpr h9])
  case outOfOrder =>
    intro s port kind x hopen hseq h1
    have hkind : kind ≠ 0 := by omega
    exact congrArg Host.Outcome.next (by simp [Machine.flitViolation, hopen, hseq, hkind])
  case freeKind =>
    intro s port x hopen
    exact congrArg Host.Outcome.next (by simp [Machine.flitViolation, hopen, oddViolation])
  case counted =>
    intro s port kind hempty hcount
    rw [countViolation_of_first hempty hcount]
    simp only [getPort_report, getPort_modPort_same, and_true]
    exact ite_congr rfl (fun hmax => hmax) fun _ => rfl
  case notInUse =>
    intro s port cause h2 h5
    exact if_pos ⟨h2, h5⟩
  case settle =>
    intro s
    obtain ⟨ps, wd, h, hp⟩ := settleWithdraw_spec s
    rw [h]
    exact ⟨rfl, rfl, rfl, rfl, rfl, hp⟩

end Sys2Proof.Machine

namespace Sys2Proof.Machine
open Sys2Proof

/-! ## What a flit slot sends (O38) -/

section
variable {s : State} {port : Nat}

theorem modPort_frame (s : State) (port : Nat) (g : Link → Link) : (∀ p, p ≠ port → getPort (modPort s port g) p = getPort s p) ∧
    (modPort s port g).mem = s.mem ∧ (modPort s port g).ctxs = s.ctxs := ⟨fun _ hp => getPort_modPort_ne s g hp, rfl, rfl⟩

theorem flitSlot_of_parting {f : Flit} {rest : List Flit} (hpart : (getPort s port).parting = f :: rest) :
    flitSlot s port = modPort s port fun q => { drive q f with parting := rest } := by
  simp only [flitSlot, hpart]

theorem flitSlot_of_training (hpart : (getPort s port).parting = []) (hst : (getPort s port).st = 1)
    (hstep : (getPort s port).step = 3) : flitSlot s port = modPort s port fun q => { q with
      wire := some (trainOut s port (getPort s port)), echoSent := q.echoSent || (getPort s port).offered
      doneSent := q.doneSent || ((getPort s port).echoSent && (getPort s port).echoHeard) } := by
  simp only [flitSlot, hpart, hst, trainSlot, hstep, ne_eq, not_true_eq_false, if_false]

section
variable (hpart : (getPort s port).parting = []) (hst : (getPort s port).st = 2)
include hpart hst

theorem flitSlot_of_control {f : Flit} (hctrl : ((getPort s port).waiting.find? fun f => f.typ == 1) = some f) :
    flitSlot s port = modPort s port fun q => { drive q f with waiting := q.waiting.erase f } := by
  simp only [flitSlot, hpart, hst, hctrl]

variable (hctrl : ((getPort s port).waiting.find? fun f => f.typ == 1) = none)
include hctrl

theorem flitSlot_of_resend {f : Flit} {rest : List Flit} (hre : (getPort s port).resend = f :: rest) :
    flitSlot s port = resendSlot s port f rest := by
  simp only [flitSlot, hpart, hst, hctrl, hre]

theorem flitSlot_of_full (hre : (getPort s port).resend = []) (hfull : 511 ≤ (getPort s port).replay.length) :
    flitSlot s port = modPort s port fun q => drive q { typ := 0 } := by
  simp only [flitSlot, hpart, hst, hctrl, hre, hfull, if_true]

theorem flitSlot_of_new (hre : (getPort s port).resend = []) (hroom : (getPort s port).replay.length < 511) :
    flitSlot s port = newSlot s port := by
  simp only [flitSlot, hpart, hst, hctrl, hre, Nat.not_le.mpr hroom, if_false]

end

/-- A port in use outside the Reflection that has no flit to send sends IDLE. -/
theorem newSlot_of_none (hst : (getPort s port).st = 2) (hnext : nextFlit (getPort s port) = none) :
    newSlot s port = modPort s port fun q => drive q { typ := 0 } := by
  have hstream : streamFlit s port = none := if_pos (.inl (by omega))
  simp only [newSlot, hnext, hstream]

theorem newSlot_of_flit {i : Nat} {f : Flit} (hnext : nextFlit (getPort s port) = some (i, f)) (htyp : f.typ ≠ 4) :
    newSlot s port = modPort s port fun q =>
      { sendSeq s port q { f with seq := (getPort s port).txSeq } with waiting := q.waiting.eraseIdx i } := by
  simp only [newSlot, hnext, stampTime, htyp, ne_eq, not_false_eq_true, if_true, false_and, if_false]

theorem resendSlot_of_paid {f : Flit} {rest : List Flit} (hre : (getPort s port).resend = f :: rest)
    (hpaid : (getPort s port).uncredited ≤ rest.length) :
    resendSlot s port f rest = modPort s port fun q => { drive q f with resend := rest } := by
  have hlt : (getPort s port).uncredited < (f :: rest).length := Nat.lt_succ_of_le hpaid
  simp only [resendSlot, hre, hlt, if_true]

theorem resendSlot_of_unpaid {f : Flit} {rest : List Flit} (hre : (getPort s port).resend = f :: rest)
    (hunpaid : rest.length < (getPort s port).uncredited) (hcredit : tget 0 (getPort s port).credits f.vc ≠ 0) :
    resendSlot s port f rest = modPort s port fun q => { drive q f with
      resend := rest, uncredited := rest.length, credits := tput q.credits f.vc (tget 0 q.credits f.vc - 1) } := by
  have hlt : ¬ (getPort s port).uncredited < (f :: rest).length := by simpa using hunpaid
  simp only [resendSlot, hre, hlt, hcredit, if_false]

end

/-- Settles O38: a clause for each thing that a slot can send, in the order in which they go. -/
theorem flitSlotSends : Obligations.FlitSlotSends := by
  refine ⟨?parting, ?training, fun s port hpart hst => ⟨?control, fun f rest hctrl hre => ⟨?paid, ?unpaid⟩, ?idle, ?new⟩⟩
  case parting =>
    intro s port f rest hpart
    exact ⟨_, congrArg Host.Outcome.next (flitSlot_of_parting hpart), by simp [drive], by simp, by simp [drive], modPort_frame ..⟩
  case training =>
    intro s port hpart hst hstep
    exact ⟨_, congrArg Host.Outcome.next (flitSlot_of_training hpart hst hstep), by simp, by simp, by simp, modPort_frame ..⟩
  case control =>
    intro f hctrl
    exact ⟨_, congrArg Host.Outcome.next (flitSlot_of_control hpart hst hctrl), by simp [drive], by simp, by simp [drive],
      by simp [drive], modPort_frame ..⟩
  case paid =>
    intro hpaid
    have h := (flitSlot_of_resend hpart hst hctrl hre).trans (resendSlot_of_paid hre hpaid)
    exact ⟨_, congrArg Host.Outcome.next h, by simp [drive], by simp, by simp [drive], by simp [drive], by simp [drive], modPort_frame ..⟩
  case unpaid =>
    intro hunpaid hcredit
    have h := (flitSlot_of_resend hpart hst hctrl hre).trans (resendSlot_of_unpaid hre hunpaid hcredit)
    exact ⟨_, congrArg Host.Outcome.next h, by simp [drive], by simp, by simp, by simp, by simp [drive], modPort_frame ..⟩
  case idle =>
    intro hctrl hre hidle
    have h : flitSlot s port = modPort s port fun q => drive q { typ := 0 } := by
      by_cases hfull : 511 ≤ (getPort s port).replay.length
      · exact flitSlot_of_full hpart hst hctrl hre hfull
      · exact (flitSlot_of_new hpart hst hctrl hre (Nat.not_le.mp hfull)).trans (newSlot_of_none hst (hidle.resolve_left hfull))
    exact ⟨_, congrArg Host.Outcome.next h, by simp [drive], by simp [drive], by simp [drive], modPort_frame ..⟩
  case new =>
    intro i f hctrl hre hroom hnext htyp
    have h := (flitSlot_of_new hpart hst hctrl hre hroom).trans (newSlot_of_flit hnext htyp)
    exact ⟨_, congrArg Host.Outcome.next h, by simp [sendSeq], by simp [sendSeq], by simp [sendSeq], by simp, by simp [sendSeq],
      modPort_frame ..⟩

end Sys2Proof.Machine

namespace Sys2Proof.Machine
open Sys2Proof

/-! ## What writing records changes -/

/-- Records written: the recorder, the items for the twin and the event signals change, and nothing else. -/
def RecordsOnly (s t : State) : Prop := ∃ gl rf hi mx, t = { s with glow := gl, refl := rf, hostIf := hi, msix := mx }

section
variable {s t u : State}

theorem RecordsOnly.refl (s : State) : RecordsOnly s s := ⟨s.glow, s.refl, s.hostIf, s.msix, rfl⟩

theorem RecordsOnly.trans (h : RecordsOnly s t) (h' : RecordsOnly t u) : RecordsOnly s u := by
  obtain ⟨_, _, _, _, rfl⟩ := h
  obtain ⟨gl, rf, hi, mx, rfl⟩ := h'
  exact ⟨gl, rf, hi, mx, rfl⟩

theorem RecordsOnly.ite {c : Prop} [Decidable c] (ht : RecordsOnly s t) (hu : RecordsOnly s u) : RecordsOnly s (if c then t else u) := by
  split
  · exact ht
  · exact hu

theorem RecordsOnly.modGlow (h : RecordsOnly s t) (f : Afterglow → Afterglow) : RecordsOnly s (Machine.modGlow t f) :=
  h.trans ⟨f t.glow, t.refl, t.hostIf, t.msix, rfl⟩

theorem RecordsOnly.foldl {α : Type} {f : State → α → State} (hf : ∀ s x, RecordsOnly s (f s x)) (xs : List α)
    (h : RecordsOnly s t) : RecordsOnly s (xs.foldl f t) :=
  List.foldlRecOn (motive := RecordsOnly s) xs f h fun _ ht x _ => ht.trans (hf _ x)

theorem recordsOnly_shipItem (s : State) (i : RefItem) : RecordsOnly s (shipItem s i) := by
  unfold shipItem sealItem
  dsimp only
  split <;> exact ⟨s.glow, _, s.hostIf, s.msix, rfl⟩

theorem recordsOnly_withAlert (h : RecordsOnly s t) (s0 : State) : RecordsOnly s (withAlert s0 t) := by
  obtain ⟨hi, mx, h'⟩ := withAlert_spec s0 t
  exact h.trans ⟨t.glow, t.refl, hi, mx, h'⟩

theorem RecordsOnly.putBank (h : RecordsOnly s t) (r : Rec) (seq : Nat) : RecordsOnly s (Machine.putBank t r seq) := by
  unfold Machine.putBank
  exact .ite ((h.modGlow _).trans (recordsOnly_shipItem ..)) (h.modGlow _)

theorem recordsOnly_writeOne (s : State) (r : Rec) : RecordsOnly s (writeOne s r) := by
  unfold writeOne takeSeq
  dsimp only
  have hseq : RecordsOnly s (modGlow s fun g => { g with nextSeq := (s.glow.nextSeq + 1) % 2 ^ 32 }) := (RecordsOnly.refl s).modGlow _
  have hbank : ∀ {t : State} (seq : Nat), RecordsOnly s t → RecordsOnly s (if toBank s r.code = true then Machine.putBank t r seq else t) :=
    fun seq ht => .ite (ht.putBank r seq) ht
  split
  · exact .ite ((hbank _ (.ite ((RecordsOnly.ite (hseq.modGlow _) hseq).modGlow _) (.ite (hseq.modGlow _) hseq))).trans
      (recordsOnly_shipItem ..)) (hbank _ (.ite ((RecordsOnly.ite (hseq.modGlow _) hseq).modGlow _) (.ite (hseq.modGlow _) hseq)))
  · exact hbank _ (.ite ((RecordsOnly.ite (hseq.modGlow _) hseq).modGlow _) (.ite (hseq.modGlow _) hseq))

theorem recordsOnly_writeNext (s : State) (r : Rec) : RecordsOnly s (writeNext s r) := by
  unfold writeNext
  exact .ite ((recordsOnly_writeOne s r).trans (recordsOnly_writeOne ..)) (recordsOnly_writeOne s r)

theorem recordsOnly_writeRec (s : State) (r : Rec) : RecordsOnly s (writeRec s r) := by
  unfold writeRec
  exact recordsOnly_withAlert ((RecordsOnly.ite (recordsOnly_writeNext ..) (.refl s)).trans (recordsOnly_writeNext ..)) s

theorem recordsOnly_writeSupp (s : State) (code : Nat) : RecordsOnly s (writeSupp s code) := by
  unfold writeSupp
  split
  · exact .refl s
  · exact ((RecordsOnly.refl s).modGlow _).trans (recordsOnly_writeRec ..)

theorem recordsOnly_limited (s : State) (r : Rec) (time : Nat) (subj : W64) : RecordsOnly s (limited s r time subj) := by
  unfold limited
  exact .ite ((((RecordsOnly.refl s).modGlow _).trans (recordsOnly_writeSupp ..)).trans (recordsOnly_writeRec ..))
    ((RecordsOnly.refl s).modGlow _)

theorem recordsOnly_closeAgg (s : State) (ix : Nat) (token : Bool) : RecordsOnly s (closeAgg s ix token) := by
  unfold closeAgg
  have hdel : ∀ f, RecordsOnly s (modGlow s f) := fun f => (RecordsOnly.refl s).modGlow f
  split
  · exact .refl s
  · exact .ite (hdel _) (.ite ((hdel _).trans (recordsOnly_limited ..)) ((hdel _).trans (recordsOnly_writeRec ..)))

theorem recordsOnly_closeAll (s : State) (token : Bool) : RecordsOnly s (closeAll s token) :=
  .foldl (fun s i => recordsOnly_closeAgg s i token) _ (.refl s)

theorem recordsOnly_aggregate (s : State) (code : Nat) (subj wit : W64) (time : Nat) :
    RecordsOnly s (aggregate s code subj wit time).2 := by
  unfold aggregate
  extract_lets s1
  have hclosed : RecordsOnly s s1 := by
    unfold s1
    split
    · exact recordsOnly_closeAgg ..
    · exact .refl s
  clear_value s1
  have hmod : ∀ (b : Bool) f, RecordsOnly s (b, modGlow s1 f).2 := fun _ f => hclosed.modGlow f
  split
  · exact hmod _ _
  · split
    · exact hmod _ _
    · exact hmod _ _

/-- At the start of a reset the recorder writes out what it holds. -/
theorem recordsOnly_flushAfterglow (s : State) : RecordsOnly s (flushAfterglow s) := by
  unfold flushAfterglow
  exact .foldl recordsOnly_writeSupp _ (((RecordsOnly.refl s).modGlow _).trans (recordsOnly_closeAll ..))

/-- A report of a code that no counting class charges is recorded, and retires nothing. -/
theorem recordsOnly_recordReport (s : State) (r : Report) (hclass : codeClass r.code = none) : RecordsOnly s (recordReport s r) := by
  unfold recordReport
  split
  · exact .refl s
  · rw [hclass]
    dsimp only
    by_cases hagg : codeAgg r.code = true
    · rw [if_pos hagg]
      exact .ite (recordsOnly_aggregate ..) ((recordsOnly_aggregate ..).trans (recordsOnly_limited ..))
    · rw [if_neg hagg]
      exact .ite (.refl s) (recordsOnly_limited ..)

end

end Sys2Proof.Machine

namespace Sys2Proof.Machine
open Sys2Proof

/-! ## What the reset levels and lost supplies take away (O45) -/

/-- An entry of a table whose entries a function has rewritten that keeps the default. -/
theorem tget_map {α : Type} (d : α) (f : α → α) (hd : f d = d) (tab : Tab α) (n : Nat) :
    tget d (tab.map fun e => (e.1, f e.2)) n = f (tget d tab n) := by
  induction tab with
  | nil => exact hd.symm
  | cons e tab ih =>
    by_cases h : n = e.1
    · simp [tget, h]
    · simpa [tget, h] using ih

/-- What a warm reset leaves of a core (R506). -/
def keptL1 (k : Core) : Core := { l1d := k.l1d, evict := k.evict, lost := k.lost }

theorem getCore_warmReset (s : State) (k : Nat) : getCore (warmReset s) k = keptL1 (getCore (flushAfterglow s) k) :=
  show tget {} ((flushAfterglow s).cores.map fun e => (e.1, keptL1 e.2)) k = _ from tget_map ({} : Core) keptL1 rfl _ k

/-- Setting the alarm's time changes nothing else. -/
theorem armAlarm_spec (s : State) : ∃ due, armAlarm s = { s with cal := { s.cal with almDue := due } } := by
  unfold armAlarm modCal
  dsimp only
  split
  · exact ⟨none, rfl⟩
  · exact ⟨_, rfl⟩

theorem flushAfterglow_power (s : State) : (flushAfterglow s).power = s.power := by
  obtain ⟨gl, rf, hi, mx, h⟩ := recordsOnly_flushAfterglow s
  rw [h]

theorem flushAfterglow_boardSlot (s : State) : (flushAfterglow s).boardSlot = s.boardSlot := by
  obtain ⟨gl, rf, hi, mx, h⟩ := recordsOnly_flushAfterglow s
  rw [h]

/-- A cold reset of the device keeps what it records of the clock, the rails and a held reset. -/
theorem coldReset_power (s : State) : (coldReset s).power.refLost = s.power.refLost ∧
    (coldReset s).power.refAlert = s.power.refAlert ∧ (coldReset s).power.heldReset = s.power.heldReset := by
  have hflush : (if s.power.vaon then flushAfterglow s else s).power = s.power := by
    split
    · exact flushAfterglow_power s
    · rfl
  unfold coldReset resetCore
  simp only [hflush, and_self]

/-- The record of a lost clock changes nothing of the supplies. -/
theorem lossRecorded_power (s0 s : State) : (withAlert s0 (recordReport s { code := 0x9002, subj := .device, time := s.time })).power = s.power := by
  obtain ⟨gl, rf, hi, mx, h⟩ := recordsOnly_withAlert (recordsOnly_recordReport s { code := 0x9002, subj := .device, time := s.time } rfl) s0
  rw [h]

/-- Settles O45: a clause for each reset level and each supply lost or returned. -/
theorem resetsTakeAway : Obligations.ResetsTakeAway := by
  refine ⟨?warm, ?cold, ?clockLost, ?clockBack, ?railLost, ?railsBack, ?vaonLost, ?vbakLost⟩
  case warm =>
    intro s cause
    refine ⟨warmReset s, rfl, rfl, rfl, rfl, rfl, rfl, rfl, rfl, rfl, rfl, rfl, rfl, rfl, rfl, flushAfterglow_boardSlot s, fun k => ?_⟩
    rw [getCore_warmReset]
    exact ⟨rfl, rfl, rfl⟩
  case cold =>
    intro s
    exact ⟨_, rfl, rfl, rfl, rfl, rfl, rfl, rfl, rfl, rfl, rfl, rfl, rfl, rfl, rfl, rfl, rfl, rfl⟩
  case clockLost =>
    intro s hlost
    refine ⟨refclkLoss s, rfl, ?_⟩
    rw [refclkLoss, hlost, if_neg Bool.false_ne_true]
    obtain ⟨hrefLost, hrefAlert, hheld⟩ := coldReset_power (withAlert s (recordReport
      { s with power := { s.power with refLost := true, refAlert := true, heldReset := true }, tsync := { s.tsync with lock := false } }
      { code := 0x9002, subj := .device, time := s.time }))
    rw [lossRecorded_power] at hrefLost hrefAlert hheld
    exact ⟨hrefLost, hrefAlert, hheld, rfl, rfl, rfl⟩
  case clockBack =>
    intro s hlost hrails
    simp only [exec, execRefclkReturn, hlost, hrails, if_true, List.isEmpty_nil, Bool.not_true]
  case railLost =>
    intro s rail hrail
    refine ⟨_, if_neg (by simpa using hrail), ?_, rfl, rfl, rfl⟩
    exact List.mem_append_right _ (List.mem_singleton_self rail)
  case railsBack => exact fun s => rfl
  case vaonLost =>
    intro s
    exact ⟨_, rfl, rfl, rfl, rfl, rfl, rfl, rfl, rfl, rfl⟩
  case vbakLost =>
    intro s
    refine ⟨_, rfl, ?_⟩
    obtain ⟨due, h⟩ := armAlarm_spec { s with
      cal := { s.cal with sec := 0, sub := 0, trim := 0, valid := false, vbakLoss := true, phase := 0, trimAcc := 0 }
      life := {} }
    rw [h]
    exact ⟨rfl, rfl, rfl, rfl, rfl, rfl, rfl, rfl, rfl, rfl⟩

end Sys2Proof.Machine

namespace Sys2Proof.Machine
open Sys2Proof

/-! ## The host mailbox and the flash operations (O54) -/

/-- The ten mailbox commands run the mailbox with their own numbers. -/
theorem exec_of_mailbox_command {s : State} {arg : W64} {e : Instr × Nat}
    (he : e ∈ [(Instr.hmcmdAttest arg, 1), (.hmcmdEnrol arg, 2), (.hmcmdTransfer arg, 3), (.hmcmdRevoke arg, 4), (.hmcmdSvnRaise arg, 5),
      (.hmcmdReform arg, 6), (.hmcmdPartReset arg, 7), (.hmcmdWarmReset arg, 8), (.hmcmdFlashWrite arg, 9),
      (.hmcmdFlashErase arg, 10)]) : exec e.1 s = .next (hmcmd s e.2 (bits arg 7 0)) ∧ 1 ≤ e.2 ∧ e.2 ≤ 10 := by
  simp only [List.mem_cons, List.not_mem_nil, or_false] at he
  rcases he with rfl | rfl | rfl | rfl | rfl | rfl | rfl | rfl | rfl | rfl <;> exact ⟨rfl, by simp, by simp⟩

section
variable {s : State} {cmd arg : Nat}

/-- While a command runs, any but a second re-forming is BUSY (R472). -/
theorem hmcmd_of_busy {c : HostCmd} (hbusy : s.hostIf.busy = some c) (hother : cmd ≠ 6 ∨ c.cmd ≠ 6) :
    hmcmd s cmd arg = { s with hostIf := { s.hostIf with last := 1 } } := by
  have hcase : ¬ (cmd = 6 ∧ c.cmd = 6) := by tauto
  have hdiff : ¬ (cmd = 6 ∧ (s.hostIf.busy.any fun c => c.cmd == 6 && c.arg != arg) = true ∧ hmNeeds cmd ≤ bits s.hostIf.hmbuf 63 36 ∧
      hmBufferOk s (bits s.hostIf.hmbuf 35 0) (hmSpan cmd (bits s.hostIf.hmbuf 63 36)) = true) := by
    simp [hbusy]; tauto
  have hsame : ¬ (cmd = 6 ∧ (s.hostIf.busy.any fun c => c.cmd == 6 && c.arg == arg) = true) := by
    simp [hbusy]; tauto
  unfold hmcmd
  dsimp only
  rw [if_pos (by rw [hbusy]; rfl), if_neg hdiff, if_neg hsame]
  rfl

/-- A re-forming of the partition that is being re-formed is BUSY and recorded (R370). -/
theorem hmcmd_of_reforming_same {c : HostCmd} (hbusy : s.hostIf.busy = some c) (hcmd : c.cmd = 6) (harg : c.arg = arg) :
    hmcmd s 6 arg = report { s with hostIf := { s.hostIf with last := 1 } } 0x0008 (.partition c.arg) [1] := by
  subst harg
  simp [hmcmd, hbusy, hcmd, modHost, hmBUSY]

/-- One of another partition waits its turn (R370). -/
theorem hmcmd_of_reforming_other {c : HostCmd} (hbusy : s.hostIf.busy = some c) (hcmd : c.cmd = 6) (harg : c.arg ≠ arg)
    (hlen : 168 ≤ bits s.hostIf.hmbuf 63 36)
    (hbuf : hmBufferOk s (bits s.hostIf.hmbuf 35 0) ((bits s.hostIf.hmbuf 63 36 + 7) / 8) = true) :
    hmcmd s 6 arg = { s with hostIf := { s.hostIf with reformQ := s.hostIf.reformQ ++ [{
      cmd := 6, arg, addr := bits s.hostIf.hmbuf 35 0, bytes := hmBytes s (bits s.hostIf.hmbuf 35 0) (bits s.hostIf.hmbuf 63 36) }] } } := by
  simp [hmcmd, hbusy, hcmd, harg, modHost, hmNeeds, hmSpan, hlen, hbuf]

section
variable (hidle : s.hostIf.busy = none) (hfrom : 1 ≤ cmd)
include hidle hfrom

theorem hmcmd_of_recovery (hrec : inRecovery s = true) (hlow : cmd < 8) : hmcmd s cmd arg = endCmd s 10 := by
  have hcmd : cmd ≠ 0 ∧ cmd ≠ 8 ∧ cmd ≠ 9 ∧ cmd ≠ 10 := by omega
  simp [hmcmd, hidle, hrec, hcmd, hmRECOVERY_ONLY]

variable (hto : cmd ≤ 10) (hrec : inRecovery s = false)
include hto hrec

theorem hmcmd_of_bad_buffer (hneeds : hmNeeds cmd ≠ 0)
    (hbad : bits s.hostIf.hmbuf 63 36 < hmNeeds cmd ∨
      hmBufferOk s (bits s.hostIf.hmbuf 35 0) (hmSpan cmd (bits s.hostIf.hmbuf 63 36)) = false) : hmcmd s cmd arg = endCmd s 2 := by
  have hcmd : cmd ≠ 0 ∧ ¬ 10 < cmd := by omega
  simp [hmcmd, hidle, hrec, hcmd, hneeds, hbad, hmBAD_BUFFER]

/-- The bytes that a mailbox command takes from its buffer. -/
def hmTaken (s : State) (cmd : Nat) : List (BitVec 8) :=
  if hmNeeds cmd = 0 then [] else hmBytes s (bits s.hostIf.hmbuf 35 0) (if cmd = 1 then 128 else bits s.hostIf.hmbuf 63 36)

/-- A mailbox command begun. -/
def hmRun (s : State) (cmd arg : Nat) : State :=
  modHost s fun h => { h with busy := some { cmd, arg, addr := bits s.hostIf.hmbuf 35 0, bytes := hmTaken s cmd } }

theorem hmcmd_of_accepted (hok : hmNeeds cmd = 0 ∨ (hmNeeds cmd ≤ bits s.hostIf.hmbuf 63 36 ∧
      hmBufferOk s (bits s.hostIf.hmbuf 35 0) (hmSpan cmd (bits s.hostIf.hmbuf 63 36)) = true)) :
    (cmd < 9 → hmcmd s cmd arg = hmRun s cmd arg) ∧
    (cmd = 9 → flashRange s (natOfBytesLE ((hmTaken s cmd).take 4)) (bits s.hostIf.hmbuf 63 36 - 4) = true →
      hmcmd s cmd arg =
        queueFlash (hmRun s cmd arg) (.write (natOfBytesLE ((hmTaken s cmd).take 4)) ((hmTaken s cmd).drop 4)) 1) ∧
    (cmd = 10 → flashReach s (natOfBytesLE ((hmTaken s cmd).take 4)) = true →
      hmcmd s cmd arg = queueFlash (hmRun s cmd arg) (.erase (natOfBytesLE ((hmTaken s cmd).take 4))) 1) := by
  have hbad : ¬ (hmNeeds cmd ≠ 0 ∧ (bits s.hostIf.hmbuf 63 36 < hmNeeds cmd ∨
      hmBufferOk s (bits s.hostIf.hmbuf 35 0) (hmSpan cmd (bits s.hostIf.hmbuf 63 36)) = false)) := by
    rintro ⟨hn, h⟩
    obtain ⟨hlen, hbuf⟩ := hok.resolve_left hn
    exact h.elim (by omega) (by simp [hbuf])
  have hzero : cmd ≠ 0 := by omega
  have hbusy : ¬ s.hostIf.busy.isSome = true := by simp [hidle]
  have hrecov : ¬ (inRecovery s = true ∧ cmd ≠ 8 ∧ cmd ≠ 9 ∧ cmd ≠ 10) := by simp [hrec]
  unfold hmcmd
  dsimp only
  rw [if_neg hbusy, if_neg hzero, if_neg hrecov, if_neg (Nat.not_lt.mpr hto), if_neg hbad]
  refine ⟨fun hlow => ?_, fun h9 hrange => ?_, fun h10 hreach => ?_⟩
  · split
    · omega
    · omega
    · rfl
  · subst h9
    exact if_pos hrange
  · subst h10
    exact if_pos hreach

end
end

/-! ### The end of a mailbox command -/

/-- The history of the lifetime block is all that an entry of it changes. -/
theorem addHist_spec (s : State) (typ svn : Nat) (id : W64) : ∃ li, addHist s typ svn id = { s with life := li } := by
  unfold addHist
  dsimp only
  split <;> split <;> exact ⟨_, rfl⟩

/-- A command of the owner leaves its programmings to the next reset and changes nothing else that the device runs on (R480). -/
theorem ownerCmd_spec (s : State) (cmd typ svn : Nat) (bl : List FuseBlow) : let t := ownerCmd s cmd typ svn bl
    t.hostIf.busy = none ∧ t.hostIf.last = 0 ∧ t.trust = { s.trust with blows := s.trust.blows ++ bl } ∧ t.mem = s.mem ∧ t.ctxs = s.ctxs := by
  obtain ⟨rs, gl, h⟩ := report_spec (modTrust s fun t => { t with blows := t.blows ++ bl }) 0xD006 .none [BitVec.ofNat 64 cmd] none
  obtain ⟨li, hhist⟩ := addHist_spec (report (modTrust s fun t => { t with blows := t.blows ++ bl }) 0xD006 .none [BitVec.ofNat 64 cmd]) typ svn 0
  unfold ownerCmd
  dsimp only
  rw [hhist, h]
  exact ⟨rfl, rfl, rfl, rfl, rfl⟩

theorem ownerSigned_of_none {s : State} {bs : List (BitVec 8)} {run : Nat → State} (h : currentOwner s = none) :
    ownerSigned s bs run = endCmd s 4 := by
  simp only [ownerSigned, h, hmNOT_ACCEPTED]

/-! ### The flash -/

theorem tget_flashPut (t : Tab Nat) (off v o : Nat) : tget 0xFF (flashPut t off v) o = if o = off then v else tget 0xFF t o := by
  unfold flashPut
  by_cases ho : o = off
  · subst ho
    split
    · simp_all
    · simp
  · split
    · simp [ho]
    · simp [ho]

/-- A write turns bits from 1 to 0 at its place alone (R488). -/
theorem tget_flashProgram (t : Tab Nat) (off o : Nat) (bs : List (BitVec 8)) : tget 0xFF (flashProgram t off bs) o =
    if off ≤ o ∧ o < off + bs.length then Nat.land (tget 0xFF t o) ((bs[o - off]?).getD 0).toNat else tget 0xFF t o := by
  induction bs generalizing t off with
  | nil => simp [flashProgram]
  | cons b bs ih =>
    rw [flashProgram, ih, List.length_cons]
    by_cases ho : o = off
    · subst ho
      rw [if_neg (by omega), if_pos (by omega), tget_flashPut, if_pos rfl, Nat.sub_self]
      rfl
    · rw [tget_flashPut, if_neg ho]
      by_cases hin : off + 1 ≤ o ∧ o < off + 1 + bs.length
      · have hix : o - off = (o - (off + 1)) + 1 := by omega
        rw [if_pos hin, if_pos (by omega), hix, List.getElem?_cons_succ]
      · rw [if_neg hin, if_neg (by omega)]

/-- A filtered table reads as the default where its entries are dropped. -/
theorem tget_filter_key {α : Type} (d : α) (keep : Nat → Bool) (t : Tab α) (n : Nat) :
    tget d (t.filter fun e => keep e.1) n = if keep n then tget d t n else d := by
  induction t with
  | nil => simp
  | cons e t ih =>
    by_cases hk : keep e.1
    · by_cases hn : n = e.1
      · simp [hk, tget, hn]
      · simp [hk, tget, hn, ih]
    · by_cases hn : n = e.1
      · simpa [hk, hn] using ih
      · simp [hk, tget, hn, ih]

/-- Settles O54: the commands, the end of the one that runs, and the two flash operations. -/
theorem mailboxCommandsRun : Obligations.MailboxCommandsRun := by
  refine ⟨?command, ?idle, ?done, ?write, ?erase⟩
  case command =>
    intro s arg e he
    obtain ⟨hexec, hfrom, hto⟩ := exec_of_mailbox_command (s := s) he
    dsimp only
    rw [hexec]
    refine ⟨fun c hbusy => ⟨?_, ?_, ?_⟩, ?_, ?_, ?_⟩
    · exact fun hother => congrArg _ (hmcmd_of_busy hbusy hother)
    · intro h6 hcmd harg
      rw [h6]
      exact congrArg _ (hmcmd_of_reforming_same hbusy hcmd harg)
    · intro h6 hcmd harg hlen hbuf
      rw [h6]
      exact congrArg _ (hmcmd_of_reforming_other hbusy hcmd harg hlen hbuf)
    · exact fun hidle hrec hlow => congrArg _ (hmcmd_of_recovery hidle hfrom hrec hlow)
    · exact fun hidle hrec hneeds hbad => congrArg _ (hmcmd_of_bad_buffer hidle hfrom hto hrec hneeds hbad)
    · intro hidle hrec hok
      obtain ⟨hrun, hwrite, herase⟩ := hmcmd_of_accepted (arg := bits arg 7 0) hidle hfrom hto hrec hok
      exact ⟨fun h => congrArg _ (hrun h), fun h h' => congrArg _ (hwrite h h'), fun h h' => congrArg _ (herase h h')⟩
  case idle =>
    intro s hidle
    exact congrArg Host.Outcome.next (by simp only [hostDone, hidle])
  case done =>
    intro s c hbusy
    have hnext : ∀ {t}, hostDone s = t → exec .hostCommandDone s = .next t := fun h => congrArg Host.Outcome.next h
    refine ⟨fun hcmd hatt => hnext ?_, fun hcmd howners => hnext ?_, fun hcmd howners => ⟨_, hnext rfl, ?_⟩, fun hcmd hnone => hnext ?_,
      fun hcmd hnone => hnext ?_, fun hcmd hsome => hnext ?_, fun hcmd => hnext ?_, fun hcmd hops => hnext ?_, fun hcmd hops => hnext ?_⟩
    · simp [hostDone, hbusy, hcmd, hatt, hmUNAVAILABLE]
    · simp [hostDone, hbusy, hcmd, enrol, howners, hmNOT_ACCEPTED]
    · have hrun : hostDone s = ownerCmd s 2 4 0 [.owner 0 (sha512 (c.bytes.take 133))] := by
        simp [hostDone, hbusy, hcmd, enrol, howners]
      rw [hrun]
      exact ownerCmd_spec ..
    · simp only [hostDone, hbusy, hcmd, revoke, ownerSigned_of_none hnone]
    · simp [hostDone, hbusy, hcmd, hnone, hmNOT_ACCEPTED]
    · simp [hostDone, hbusy, hcmd, hsome, hmOK]
    · simp [hostDone, hbusy, hcmd, hmOK]
    · rcases hcmd with hcmd | hcmd <;> simp [hostDone, hbusy, hcmd, hops]
    · rcases hcmd with hcmd | hcmd <;> simp [hostDone, hbusy, hcmd, hops, hmOK]
  case write =>
    intro s off who o bs rest hops
    refine ⟨_, congrArg Host.Outcome.next (by simp only [flashDone, hops]; rfl), ?_⟩
    exact ⟨rfl, rfl, rfl, rfl, tget_flashProgram ..⟩
  case erase =>
    intro s off who o rest hops
    refine ⟨_, congrArg Host.Outcome.next (by simp only [flashDone, hops]; rfl), ?_⟩
    refine ⟨rfl, rfl, rfl, ?_⟩
    have := tget_filter_key 0xFF (fun a => a / 0x10000 != off / 0x10000) s.flash.bytes o
    simp only [bne_iff_ne, ne_eq, ite_not] at this
    exact this

end Sys2Proof.Machine

namespace Sys2Proof.Machine
open Sys2Proof

/-! ## FETCH_PACKET holds the next packet or its fetch fault (O14) -/

section
variable {s : State} {c : Nat}

/-- A packet fetched by a context that holds none is held as its next one. -/
theorem fetchStep_of_ok {pa typ : Nat} {e : TlbEnt} {w : Word} (hrun : (getCtx s c).run = .runnable) (hheld : (getCtx s c).fetched = none)
    (htr : translate s c (fetchReq (getCtx s c)) = .ok pa typ e) (hat : fetchAt s c (getCtx s c).pc pa = (s, some w)) :
    fetchStep s c = setCtx s c { getCtx s c with fetched := some { pc := (getCtx s c).pc, word := .inl w } } := by
  have htr' : translate s c { fetchReq (getCtx s c) with va := (getCtx s c).pc } = .ok pa typ e := htr
  simp [fetchStep, hrun, hheld, holdsPc, htr', hat, modCtx]

theorem fetchStep_of_fault {f : FaultRec} (hrun : (getCtx s c).run = .runnable) (hheld : (getCtx s c).fetched = none)
    (htr : translate s c (fetchReq (getCtx s c)) = .fault f) :
    fetchStep s c = setCtx s c { getCtx s c with fetched := some { pc := (getCtx s c).pc, word := .inr f } } := by
  have htr' : translate s c { fetchReq (getCtx s c) with va := (getCtx s c).pc } = .fault f := htr
  simp [fetchStep, hrun, hheld, holdsPc, htr', modCtx]

theorem fetchStep_of_miss (hheld : (getCtx s c).fetched = none) (htr : translate s c (fetchReq (getCtx s c)) = .miss) :
    fetchStep s c = s := by
  have htr' : translate s c { fetchReq (getCtx s c) with va := (getCtx s c).pc } = .miss := htr
  simp [fetchStep, hheld, holdsPc, htr']

theorem fetchStep_of_ahead_fault {f : FaultRec} {w : Word ⊕ FaultRec} (hrun : (getCtx s c).run = .runnable)
    (hheld : (getCtx s c).fetched = some { pc := (getCtx s c).pc, word := w }) (hahead : (getCtx s c).ahead = none)
    (htr : translate s c { fetchReq (getCtx s c) with va := ((getCtx s c).pc + 1) % 2 ^ 48 } = .fault f) :
    fetchStep s c = setCtx s c { getCtx s c with ahead := some { pc := ((getCtx s c).pc + 1) % 2 ^ 48, word := .inr f } } := by
  have hready : holdsPc (getCtx s c).fetched (getCtx s c).pc = true := by simp [hheld, holdsPc]
  have hnext : holdsPc (getCtx s c).ahead (((getCtx s c).pc + 1) % 2 ^ 48) = false := by rw [hahead, holdsPc]
  simp only [fetchStep, hrun, hready, hnext, htr, modCtx, ne_eq, not_true_eq_false, Bool.false_eq_true, and_false, or_false, if_false, if_true]

end

/-- Settles O14: the packet met in the L1I, the fault, the miss, and the fault of the packet after it. -/
theorem fetchHoldsPacket : Obligations.FetchHoldsPacket := by
  refine ⟨?met, ?fault, ?miss, ?ahead⟩
  case met =>
    intro s c pa typ i e hrun hheld htr hline
    have hat : fetchAt s c (getCtx s c).pc pa = (s, some (wordOf (tget ({} : L1ILine) (getCore s (coreOf c)).l1i i).data pa)) := by
      simp only [fetchAt, hline]
    exact congrArg _ (fetchStep_of_ok hrun hheld htr hat)
  case fault => exact fun s c f hrun hheld htr => congrArg Host.Outcome.next (fetchStep_of_fault hrun hheld htr)
  case miss => exact fun s c hheld htr => congrArg Host.Outcome.next (fetchStep_of_miss hheld htr)
  case ahead => exact fun s c w f hrun hheld hahead htr => congrArg Host.Outcome.next (fetchStep_of_ahead_fault hrun hheld hahead htr)

end Sys2Proof.Machine

namespace Sys2Proof.Machine
open Sys2Proof

/-! ## Interrupts, store faults and suspended allocations enter the supervisor (O18) -/

theorem getCtx_pushFrame (s : State) (c base : Nat) (ws : List Word) (pas : List (Nat × Nat)) (j : Nat) :
    getCtx (pushFrame s c base ws pas) j = getCtx s j ∧ (pushFrame s c base ws pas).mem = s.mem :=
  List.foldlRecOn (motive := fun t => getCtx t j = getCtx s j ∧ t.mem = s.mem) _ _ ⟨rfl, rfl⟩ fun _ h _ _ => h

/-- What an entry suspends is a receive or a routine of the context: its receive state and its request record change alone. -/
theorem suspendAtEntry_ctx (s : State) (c : Nat) : (suspendAtEntry s c).mem = s.mem ∧ ∃ re rq rs,
    getCtx (suspendAtEntry s c) c = { getCtx s c with recvEntry := re, rq := rq, rqSuspended := rs } := by
  unfold suspendAtEntry
  dsimp only
  split
  · exact ⟨rfl, _, _, _, getCtx_setCtx_same ..⟩
  · unfold suspendRoutine
    dsimp only
    split
    · split
      · exact ⟨rfl, _, _, _, getCtx_setCtx_same ..⟩
      · exact ⟨rfl, _, _, _, rfl⟩
    · exact ⟨rfl, _, _, _, rfl⟩

/-- An entry onto a frame whose words translate: the context is the supervisor's at the entry's target. -/
theorem takeEntry_of_good {s : State} {c : Nat} {e : EntryInfo} {pas : List (Nat × Nat)}
    (hgood : checkBase s c (entryBase (getCtx s c) e) (latchOf (getCtx s c).s pDSlim) = .good pas) :
    (takeEntry s c e).mem = s.mem ∧ ∃ re rq rs, getCtx (takeEntry s c e) c =
      enterRegs { getCtx s c with recvEntry := re, rq := rq, rqSuspended := rs } e (entryBase (getCtx s c) e).pay.toNat := by
  unfold takeEntry
  dsimp only
  rw [hgood]
  dsimp only
  obtain ⟨hmem, re, rq, rs, hctx⟩ := suspendAtEntry_ctx (pushFrame s c (entryBase (getCtx s c) e).pay.toNat
    (frameOf (getCtx s c) e.kind e.resume (entryBase (getCtx s c) e).pay.toNat) pas) c
  obtain ⟨hpush, hpushMem⟩ := getCtx_pushFrame s c (entryBase (getCtx s c) e).pay.toNat
    (frameOf (getCtx s c) e.kind e.resume (entryBase (getCtx s c) e).pay.toNat) pas c
  refine ⟨by rw [modCtx_mem, hmem, hpushMem], re, rq, rs, ?_⟩
  rw [getCtx_modCtx_same, hctx, hpush]

theorem getCtx_issuedBy_same (s : State) (core c : Nat) : getCtx (issuedBy s core c) c =
    { getCtx s c with lastIssue := some (getCore s core).step, dbgStep := false } := getCtx_modCtx_same ..

/-- The fault of an instruction that is over enters at an open packet boundary at `EVEC` (R251, R283). -/
theorem asyncEntry_of_good {s : State} {c : Nat} {f : FaultRec} {pas : List (Nat × Nat)}
    (hgood : checkBase s c (latchOf (getCtx s c).s pDSsp) (latchOf (getCtx s c).s pDSlim) = .good pas) :
    let x := getCtx (asyncEntry s c f) c
    x.storeFaults = (getCtx s c).storeFaults ∧ x.nurseryFault = (getCtx s c).nurseryFault ∧ x.pc = evecOf s c ∧
      x.regs.cause = BitVec.ofNat 64 f.cause ∧ x.regs.faddr = addr48 f.faddr ∧ x.priv = true := by
  obtain ⟨-, re, rq, rs, h⟩ := takeEntry_of_good (e := {
    kind := kFAULT, cause := f.cause, faddr := addr48 f.faddr
    finfo := finfoOf f (getCtx s c).priv (inRepeat (getCtx s c)), resume := (getCtx s c).pc, target := evecOf s c }) hgood
  have hbase : ∀ e : EntryInfo, e.fresh = false → entryBase (getCtx s c) e = latchOf (getCtx s c).s pDSsp := by
    intro e he
    simp [entryBase, he]
  dsimp only
  unfold asyncEntry enterNow
  dsimp only
  rw [hbase _ rfl, hgood]
  dsimp only
  rw [h]
  exact ⟨rfl, rfl, rfl, rfl, rfl, rfl⟩

/-- Settles O18: the interrupt's entry, the store fault's and the suspended allocation's. -/
theorem interruptsAndDeferredFaultsEnter : Obligations.InterruptsAndDeferredFaultsEnter := by
  refine ⟨?interrupt, ?storeFault, ?nursery⟩
  case interrupt =>
    intro s core c pas hcore hissue hchoose htakes hgood
    let s1 := modCtx (issuedBy s core c) c fun x => { x with park := none }
    have hrun : interruptTaken s core = interruptEntry s1 c := by
      simp only [interruptTaken, hissue, hchoose, htakes, Bool.not_true, Bool.false_eq_true, if_false, if_true, s1]
    have hctx : getCtx s1 c = { getCtx s c with lastIssue := some (getCore s core).step, dbgStep := false, park := none } := by
      rw [getCtx_modCtx_same, getCtx_issuedBy_same]
    have hgood' : checkBase s1 c (latchOf (getCtx s1 c).s pDSsp) (latchOf (getCtx s1 c).s pDSlim) = .good pas := by
      rw [hctx]
      exact hgood
    obtain ⟨hmem, re, rq, rs, h⟩ := takeEntry_of_good (e := {
      kind := kINTERRUPT, cause := cINTERRUPT, faddr := BitVec.ofNat 64 (getCtx s1 c).pc
      finfo := field (Nat.land (getCtx s1 c).regs.ipend (getCtx s1 c).regs.ien) 0, resume := (getCtx s1 c).pc, target := evecOf s1 c }) hgood'
    refine ⟨_, congrArg Host.Outcome.next hrun, ?_⟩
    unfold interruptEntry
    dsimp only
    rw [h, hmem, hctx]
    exact ⟨rfl, rfl, rfl, rfl, rfl, rfl, rfl⟩
  case storeFault =>
    intro s c f rest pas hfaults hopen hgood
    have hrun : deferredStoreFault s c = asyncEntry (setCtx s c { getCtx s c with storeFaults := rest }) c f := by
      simp only [deferredStoreFault, hfaults, hopen, if_true]
    have hgood' := hgood
    rw [show (getCtx s c).s = (getCtx (setCtx s c { getCtx s c with storeFaults := rest }) c).s by rw [getCtx_setCtx_same]] at hgood'
    obtain ⟨hstore, -, hpc, hcause, hfaddr, hpriv⟩ := asyncEntry_of_good (f := f) hgood'
    rw [getCtx_setCtx_same] at hstore
    exact ⟨_, congrArg Host.Outcome.next hrun, hstore, hpc, hcause, hfaddr, hpriv⟩
  case nursery =>
    intro s c f pas hfault hopen hgood
    have hrun : nurserySuspend s c = asyncEntry (setCtx s c { getCtx s c with nurseryFault := none }) c f := by
      simp only [nurserySuspend, hfault, hopen, if_true]
    have hgood' := hgood
    rw [show (getCtx s c).s = (getCtx (setCtx s c { getCtx s c with nurseryFault := none }) c).s by rw [getCtx_setCtx_same]] at hgood'
    obtain ⟨-, hnursery, hpc, hcause, -, hpriv⟩ := asyncEntry_of_good (f := f) hgood'
    rw [getCtx_setCtx_same] at hnursery
    exact ⟨_, congrArg Host.Outcome.next hrun, hnursery, hpc, hcause, hpriv⟩

end Sys2Proof.Machine

namespace Sys2Proof.Machine
open Sys2Proof

/-! ## What keeping memory's copies changes of cores and clusters -/

/-- A field that rewriting the entries keeps is kept of every entry of the table. -/
theorem field_tget_map {α β : Type} (g : α → β) {f : Nat × α → α} (hf : ∀ e, g (f e) = g e.2) (d : α) (tab : Tab α) (n : Nat) :
    g (tget d (tab.map fun e => (e.1, f e)) n) = g (tget d tab n) := by
  induction tab with
  | nil => rfl
  | cons e tab ih =>
    by_cases h : n = e.1
    · simp [tget, h, hf]
    · simpa [tget, h] using ih

/-- A core without its copies of lines. -/
def coreRest (k : Core) : Core := { k with l1d := [], evict := [], lost := [] }

/-- A cluster without its copies of lines. -/
def clusterRest (k : Cluster) : Cluster := { k with l2 := [], wb := [], lost := [] }

theorem coreRest_dropL1 (k : Core) (line : Nat) : coreRest (dropL1 k line) = coreRest k := by
  unfold dropL1
  dsimp only
  split
  · rfl
  · rfl

theorem clusterRest_modL2Sub (k : Cluster) (line : Nat) (f : L2Sub → L2Sub) : clusterRest (modL2Sub k line f) = clusterRest k := by
  unfold modL2Sub
  split
  · rfl
  · rfl

theorem clusterRest_dropL2 (k : Cluster) (line : Nat) : clusterRest (dropL2 k line) = clusterRest k :=
  clusterRest_modL2Sub k line fun _ => {}

theorem discardLine_rest (s : State) (line : Nat) : (∀ n, coreRest (getCore (discardLine s line) n) = coreRest (getCore s n)) ∧
    ∀ n, clusterRest (getCluster (discardLine s line) n) = clusterRest (getCluster s n) :=
  ⟨field_tget_map coreRest (fun e => coreRest_dropL1 e.2 line) {} s.cores,
    field_tget_map clusterRest (fun e => clusterRest_dropL2 e.2 line) {} s.clusters⟩

theorem cleanLine_rest (s : State) (line : Nat) : (∀ n, coreRest (getCore (cleanLine s line) n) = coreRest (getCore s n)) ∧
    ∀ n, clusterRest (getCluster (cleanLine s line) n) = clusterRest (getCluster s n) := by
  unfold cleanLine
  split
  · exact ⟨fun _ => rfl, fun _ => rfl⟩
  · obtain ⟨m, rf, h⟩ := writeWords_spec s (line * 8) (currentLine s line)
    dsimp only
    rw [h]
    refine ⟨field_tget_map coreRest (fun k => ?_) {} s.cores, field_tget_map clusterRest (fun k => ?_) {} s.clusters⟩
    · split
      · split
        · rfl
        · rfl
      · rfl
    · exact clusterRest_modL2Sub k.2 line _

theorem flushLine_rest (s : State) (line : Nat) : (∀ n, coreRest (getCore (flushLine s line) n) = coreRest (getCore s n)) ∧
    ∀ n, clusterRest (getCluster (flushLine s line) n) = clusterRest (getCluster s n) := by
  obtain ⟨hcores, hclusters⟩ := cleanLine_rest s line
  obtain ⟨hcores', hclusters'⟩ := discardLine_rest (cleanLine s line) line
  exact ⟨fun n => (hcores' n).trans (hcores n), fun n => (hclusters' n).trans (hclusters n)⟩

theorem homeWrite_rest (s : State) (pa : Nat) (w : Word) : (∀ n, coreRest (getCore (homeWrite s pa w) n) = coreRest (getCore s n)) ∧
    ∀ n, clusterRest (getCluster (homeWrite s pa w) n) = clusterRest (getCluster s n) := by
  obtain ⟨rf, h⟩ := writeWord_spec (flushLine s (pa / 8)) pa w
  unfold homeWrite
  rw [h]
  split
  · exact flushLine_rest s _
  · exact flushLine_rest s _

@[simp] theorem flushLine_ctxs (s : State) (line : Nat) : (flushLine s line).ctxs = s.ctxs := by
  obtain ⟨m, rf, cs, ks, d, h⟩ := flushLine_spec s line; rw [h]

@[simp] theorem homeWrite_ctxs (s : State) (pa : Nat) (w : Word) : (homeWrite s pa w).ctxs = s.ctxs := by
  obtain ⟨m, rf, cs, ks, d, h⟩ := homeWrite_spec s pa w; rw [h]

end Sys2Proof.Machine

namespace Sys2Proof.Machine
open Sys2Proof

/-! ## A receive wait is withdrawn (O19), and a table walk completes (O20) -/

theorem mem_waiters_removeWaiter {s : State} {c : Nat} : ∀ e ∈ (removeWaiter s c).queues, ∀ w ∈ e.2.waiters, w.ctx ≠ c := by
  intro e he w hw
  obtain ⟨e0, -, rfl⟩ := List.mem_map.mp he
  simpa using (List.mem_filter.mp hw).2

theorem settleSlot_of_no_want {s : State} {c : Nat} (hrq : (getCtx s c).rqWant = false) (hrecv : (getCtx s c).recvWant = false) :
    settleSlot s c = s := by
  simp only [settleSlot, hrq, hrecv, Bool.false_eq_true, if_false, ite_self]

/-- Settles O19: the slot frees and nothing waits for it, so the withdrawal is all that happens. -/
theorem receiveWaitIsWithdrawn : Obligations.ReceiveWaitIsWithdrawn := by
  intro s c q m hentry hslot hkind hresult hpark hrq hrecv
  let x : Ctx := { getCtx s c with slot := none, withdrawn := some m, recvEntry := false }
  have hctx : getCtx (removeWaiter (setCtx s c x) c) c = x := getCtx_setCtx_same s c x
  have hsettle : settleSlot (removeWaiter (setCtx s c x) c) c = removeWaiter (setCtx s c x) c := by
    exact settleSlot_of_no_want (by rw [hctx]; exact hrq) (by rw [hctx]; exact hrecv)
  have hrun : receiveWithdraw s c = removeWaiter (setCtx s c x) c := by
    rw [← hsettle]
    simp only [receiveWithdraw, hentry, hslot, hkind, hresult, hpark, Bool.not_true, Bool.false_eq_true, if_false, x]
  exact ⟨_, congrArg Host.Outcome.next hrun, hctx, mem_waiters_removeWaiter, rfl⟩

/-! ### Walks -/

/-- A walk begun changes its core's TLB and where its context's walk stands. -/
structure OnlyBegins (s t : State) : Prop where
  mem : t.mem = s.mem
  park : ∀ c, (getCtx t c).park = (getCtx s c).park
  walks : ∀ c, (getCtx t c).walks = (getCtx s c).walks
  walkCnt : ∀ k, (getCore t k).walkCnt = (getCore s k).walkCnt
  casFail : ∀ k, (getCore t k).casFail = (getCore s k).casFail

theorem OnlyBegins.refl (s : State) : OnlyBegins s s := ⟨rfl, fun _ => rfl, fun _ => rfl, fun _ => rfl, fun _ => rfl⟩

theorem onlyBegins_walkNow (s : State) (c : Nat) (req : WalkReq) : OnlyBegins s (walkNow s c req) where
  mem := rfl
  park := fun d => by
    by_cases hd : d = c
    · subst hd; simp [walkNow]
    · simp [walkNow, hd]
  walks := fun d => by
    by_cases hd : d = c
    · subst hd; simp [walkNow]
    · simp [walkNow, hd]
  walkCnt := fun k => by
    by_cases hk : k = coreOf c
    · subst hk; simp [walkNow]
    · simp [walkNow, hk]
  casFail := fun k => by
    by_cases hk : k = coreOf c
    · subst hk; simp [walkNow]
    · simp [walkNow, hk]

theorem onlyBegins_walkBegin (s : State) (c : Nat) (req : WalkReq) : OnlyBegins s (walkBegin s c req) := by
  unfold walkBegin
  dsimp only
  split
  · exact onlyBegins_walkNow s c req
  · exact .refl s

theorem onlyBegins_beginWaiting (s : State) (core : Nat) : OnlyBegins s (beginWaiting s core) := by
  unfold beginWaiting
  dsimp only
  split
  · exact onlyBegins_walkBegin ..
  · exact .refl s

/-- What a page's walk marks is a word of memory: contexts are as before, and cores but for their copies of lines. -/
theorem walkPage_frame (s : State) (part asid root : Nat) (req : WalkReq) : (walkPage s part asid root req).1.ctxs = s.ctxs ∧
    ∀ k, coreRest (getCore (walkPage s part asid root req).1 k) = coreRest (getCore s k) := by
  have hcas : ∀ pa w w', (homeCas s pa w w').2.ctxs = s.ctxs ∧ ∀ k, coreRest (getCore (homeCas s pa w w').2 k) = coreRest (getCore s k) := by
    intro pa w w'
    unfold homeCas
    dsimp only
    split
    · exact ⟨homeWrite_ctxs .., (homeWrite_rest ..).1⟩
    · exact ⟨flushLine_ctxs .., (flushLine_rest ..).1⟩
  unfold walkPage
  dsimp only
  split
  · exact ⟨rfl, fun _ => rfl⟩
  · split
    · exact ⟨rfl, fun _ => rfl⟩
    · split
      · exact ⟨rfl, fun _ => rfl⟩
      · exact hcas ..

/-- A walk of a core's unit: its result is the page's, its core counts one walk more and no failed compare-and-swap, and contexts are as before. -/
theorem unitWalk_core (s : State) (k part asid root : Nat) (again : Option Nat) (req : WalkReq) :
    (unitWalk s (.core k) part asid root again req).2 = (walkPage s part asid root req).2 ∧
    (unitWalk s (.core k) part asid root again req).1.ctxs = s.ctxs ∧
    (getCore (unitWalk s (.core k) part asid root again req).1 k).walkCnt = ((getCore s k).walkCnt + 1) % 2 ^ 32 ∧
    (getCore (unitWalk s (.core k) part asid root again req).1 k).casFail = (getCore s k).casFail := by
  obtain ⟨hctxs, hcores⟩ := walkPage_frame s part asid root req
  have hcnt : (getCore (walkPage s part asid root req).1 k).walkCnt = (getCore s k).walkCnt :=
    (congrArg Core.walkCnt (hcores k) :)
  have hfail : (getCore (walkPage s part asid root req).1 k).casFail = (getCore s k).casFail :=
    (congrArg Core.casFail (hcores k) :)
  unfold unitWalk
  rcases hwalk : walkPage s part asid root req with ⟨s1, e | f⟩
  · rw [hwalk] at hctxs hcnt hfail
    exact ⟨rfl, hctxs, by simp [setUnitTlb, hcnt], by simp [setUnitTlb, hfail]⟩
  · rw [hwalk] at hctxs hcnt hfail
    exact ⟨rfl, hctxs, by simp [setUnitTlb, hcnt], by simp [setUnitTlb, hfail]⟩

theorem getCtx_of_ctxs {s t : State} (h : t.ctxs = s.ctxs) (c : Nat) : getCtx t c = getCtx s c := by rw [getCtx, h, getCtx]

/-- A walk that nothing has overtaken is done: its result is the walk's, and the walk leaves its context. -/
theorem walkFor_of_clean {s : State} {c : Nat} {req : WalkReq} (hclean : walkOvertaken s c req = false) :
    ∃ s1, walkFor s c req = (s1, true) ∧ getCtx s1 c = { getCtx s c with
        walks := (getCtx s c).walks ++ [{ req, res := (walkInstall s c req).2 }], walkRead := none, walkFrom := none, walking := false } ∧
      (getCore s1 (coreOf c)).walkCnt = ((getCore s (coreOf c)).walkCnt + 1) % 2 ^ 32 ∧
      (getCore s1 (coreOf c)).casFail = (getCore s (coreOf c)).casFail := by
  let dirty := tlbDirty (getCore s (coreOf c)).tlb (partOf s c) (getCtx s c).regs.asid req
  obtain ⟨hres, hctxs, hcnt, hfail⟩ := unitWalk_core s (coreOf c) (partOf s c) (getCtx s c).regs.asid (getCtx s c).regs.root
    (if dirty = (getCtx s c).walkFrom then dirty else none) req
  obtain ⟨hinstall, -, -, -⟩ := unitWalk_core s (coreOf c) (partOf s c) (getCtx s c).regs.asid (getCtx s c).regs.root dirty req
  unfold walkFor walkInstall
  dsimp only
  rw [hclean, if_neg Bool.false_ne_true, hinstall]
  rcases hwalk : unitWalk s (.core (coreOf c)) (partOf s c) (getCtx s c).regs.asid (getCtx s c).regs.root
    (if dirty = (getCtx s c).walkFrom then dirty else none) req with ⟨s2, r⟩
  rw [hwalk] at hres hctxs hcnt hfail
  refine ⟨_, rfl, ?_, hcnt, hfail⟩
  rw [getCtx_modCtx_same, getCtx_of_ctxs hctxs, ← hres]

/-- Settles O20: the walk that is done, and the one begun again. -/
theorem walkCompletes : Obligations.WalkCompletes := by
  intro s c req rest hpark hwalking
  constructor
  case left =>
    intro hclean
    obtain ⟨s1, hfor, hctx, hcnt, hfail⟩ := walkFor_of_clean hclean
    let s2 := modCtx s1 c fun x => { x with park := some (.tlb rest) }
    have hnext : ∃ t, tlbWalkComplete s c = t ∧ OnlyBegins s2 t := by
      simp only [tlbWalkComplete, hpark, hwalking, hfor, Bool.not_true, Bool.false_eq_true, if_false]
      cases rest with
      | nil => exact ⟨_, rfl, onlyBegins_beginWaiting ..⟩
      | cons next more => exact ⟨_, rfl, onlyBegins_walkBegin ..⟩
    obtain ⟨t, ht, hbegins⟩ := hnext
    have hs2 : getCtx s2 c = { getCtx s1 c with park := some (.tlb rest) } := getCtx_modCtx_same ..
    refine ⟨t, congrArg Host.Outcome.next ht, ?_, ?_, ?_, ?_⟩
    · rw [hbegins.park, hs2]
    · rw [hbegins.walks, hs2, hctx]
    · exact (hbegins.walkCnt _).trans hcnt
    · exact (hbegins.casFail _).trans hfail
  case right =>
    intro hover
    let s1 := modCore s (coreOf c) fun k => { k with casFail := (k.casFail + 1) % 2 ^ 32 }
    have hfor : tlbWalkComplete s c = walkNow s1 c req := by
      simp only [tlbWalkComplete, hpark, hwalking, walkFor, hover, Bool.not_true, Bool.false_eq_true, if_false, if_true, s1]
    have hbegins := onlyBegins_walkNow s1 c req
    refine ⟨_, congrArg Host.Outcome.next hfor, hbegins.park c, hbegins.walks c, hbegins.mem, ?_⟩
    rw [hbegins.casFail, getCore_modCore_same]

end Sys2Proof.Machine

namespace Sys2Proof.Machine
open Sys2Proof

/-! ## Fence and drain holds end (O21), and invalidations are received and acknowledged (O22) -/

section
variable {s : State} {c kind : Nat}

theorem fenceEnd_of_met (hhold : (getCtx s c).hold = .fence kind) (hmet : fenceHolds s c kind = true)
    (hlog : kind = 3 → logOf (getCore s (coreOf c)) (partOf s c) = [] ∧ logsOfCore s (coreOf c) (partOf s c) = false) :
    fenceEnd s c = setCtx s c { getCtx s c with hold := .none } := by
  have hflush : ¬ (kind = 3 ∧ (logOf (getCore s (coreOf c)) (partOf s c)).isEmpty = false) := by
    rintro ⟨hk, h⟩
    simp [(hlog hk).1] at h
  have hplaced : ¬ (kind = 3 ∧ logsOfCore s (coreOf c) (partOf s c) = true) := by
    rintro ⟨hk, h⟩
    simp [(hlog hk).2] at h
  simp only [fenceEnd, hhold, hmet, hflush, hplaced, Bool.not_true, Bool.false_eq_true, if_false]

theorem fenceEnd_of_unmet (hhold : (getCtx s c).hold = .fence kind) (hunmet : fenceHolds s c kind = false) : fenceEnd s c = s := by
  simp only [fenceEnd, hhold, hunmet, Bool.not_false, if_true]

end

/-- A delivery that lands leaves the count and what is in flight of its bank, and the other bank of its context. -/
theorem landOne_keeps (x : Ctx) (b : Bank) (d : Delivery) : (landOne x b d).2.inflight = b.inflight ∧ (landOne x b d).2.count = b.count ∧
    (landOne x b d).1.s = x.s := by
  unfold landOne
  split
  · exact ⟨rfl, rfl, rfl⟩
  · exact ⟨rfl, rfl, rfl⟩
  · exact ⟨rfl, rfl, rfl⟩
  · exact ⟨rfl, rfl, rfl⟩
  · exact ⟨rfl, rfl, rfl⟩

theorem drainU_keeps (x : Ctx) : (drainU x).u.inflight = [] ∧ (drainU x).u.count = x.u.count ∧ (drainU x).s = x.s :=
  List.foldlRecOn (motive := fun a : Ctx × Bank => a.2.inflight = [] ∧ a.2.count = x.u.count ∧ a.1.s = x.s) (landOrder x.u) _
    (b := (x, { x.u with inflight := [] })) ⟨rfl, rfl, rfl⟩ fun a ⟨hin, hcount, hs⟩ d _ =>
      let ⟨hin', hcount', hs'⟩ := landOne_keeps a.1 a.2 d
      ⟨hin'.trans hin, hcount'.trans hcount, hs'.trans hs⟩

/-- Settles O21: the fence's hold ends and does not, and the drain of the U bank ends. -/
theorem holdsEnd : Obligations.HoldsEnd := by
  refine ⟨⟨?met, ?unmet⟩, ?drained⟩
  case met => exact fun s c kind hhold hmet hlog => congrArg Host.Outcome.next (fenceEnd_of_met hhold hmet hlog)
  case unmet => exact fun s c kind hhold hunmet => congrArg Host.Outcome.next (fenceEnd_of_unmet hhold hunmet)
  case drained => exact fun s c hhold hdone => ⟨congrArg Host.Outcome.next (if_pos ⟨hhold, hdone⟩), drainU_keeps _⟩

/-! ### Invalidations -/

/-- A core that acts on an invalidation keeps the entries that it does not name, and everything but its TLB and its contexts is as before. -/
theorem removeEntries_core (s : State) (v : Inval) (k : Nat) : (removeEntries s v (.core k)).mem = s.mem ∧
    (removeEntries s v (.core k)).cores = (modCore s k fun x => { x with tlb := x.tlb.filter fun e => !invalMatches v e.2 }).cores := by
  unfold removeEntries
  dsimp only
  refine List.foldlRecOn (motive := fun t : State => t.mem = s.mem ∧
    t.cores = (modCore s k fun x => { x with tlb := x.tlb.filter fun e => !invalMatches v e.2 }).cores) _ _ ⟨rfl, rfl⟩ ?_
  rintro t h i -
  split
  · exact h
  · exact h

theorem getCore_of_cores {s t : State} (h : t.cores = s.cores) (k : Nat) : getCore t k = getCore s k := by rw [getCore, h, getCore]

/-- Settles O22: the core's entries go, and the last acknowledgement frees the issuer. -/
theorem invalidationIsReceived : Obligations.InvalidationIsReceived := by
  refine ⟨?receive, ?acknowledge⟩
  case receive =>
    intro s k v hfind
    obtain ⟨hmem, hcores⟩ := removeEntries_core s v k
    obtain ⟨s1, hs1⟩ : ∃ s1, removeEntries s v (.core k) = s1 := ⟨_, rfl⟩
    rw [hs1] at hmem hcores
    refine ⟨_, congrArg Host.Outcome.next (by simp only [tlbiReceive, hfind, hs1]; rfl), ?_⟩
    refine ⟨?_, hmem, fun j hj => (getCore_of_cores hcores j).trans (getCore_modCore_ne s _ hj), ?_⟩
    · intro e he
      replace he : e ∈ (getCore s1 k).tlb := he
      rw [getCore_of_cores hcores, getCore_modCore_same] at he
      simpa using (List.mem_filter.mp he).2
    · intro w hw hid
      obtain ⟨w0, -, rfl⟩ := List.mem_map.mp hw
      by_cases hid0 : w0.id = v.id
      · rw [if_pos hid0]
        intro hmem
        simpa using (List.mem_filter.mp hmem).2
      · rw [if_neg hid0] at hid
        exact absurd hid hid0
  case acknowledge =>
    intro s u v hfind hack hhold
    have hleft : (v.toAck.filter (· != u)).isEmpty = true := by simp [hack]
    refine ⟨_, congrArg Host.Outcome.next (by simp only [tlbiAck, hfind, hleft, if_true]; rfl), ?_⟩
    rw [getCtx_modCtx_same]
    refine ⟨?_, ?_, ?_, rfl, rfl⟩
    · have hhold' : (getCtx { s with invals := s.invals.filter fun w => w.id != v.id } v.ctx).hold = .tlbsync [v.id] := hhold
      simp [hhold']
    · intro hmem
      simpa using (List.mem_filter.mp hmem).2
    · intro w hw
      simpa using (List.mem_filter.mp hw).2

end Sys2Proof.Machine

namespace Sys2Proof.Machine
open Sys2Proof

/-! ## The value of an uncached load lands in its register (O23) -/

/-- A word landed in the register that waits for it: the register holds it, every other register and the program counter are as before. -/
theorem landReg_of_pending {x : Ctx} {r id : Nat} {g : GReg} {v : DVal} (hwaits : gOf x r = .pending id) :
    gOf (landReg id x r g v) r = g ∧ (∀ q, q ≠ r → gOf (landReg id x r g v) q = gOf x q) ∧ (landReg id x r g v).pc = x.pc ∧
      (landReg id x r g v).rqWant = x.rqWant ∧ (landReg id x r g v).recvWant = x.recvWant := by
  unfold landReg
  dsimp only
  rw [if_pos hwaits]
  exact ⟨tget_tput_same .., fun q hq => tget_tput_ne _ _ _ hq, rfl, rfl, rfl⟩

/-- A word that no read barrier concerns is taken as it is (R139). -/
theorem takeWord_of_no_barrier {s : State} {c pa va : Nat} {m : MissOp} {weak : Bool} {w : Word}
    (hmiss : colourMiss (ctxPart s c) (agentOf s c).goodc w = false) : takeWord s c m pa va weak w = finishOp s c m (.words [w]) := by
  have hres : ctxResolve s c m.id va w weak = (s, .word w) := by
    simp only [ctxResolve, hmiss, Bool.not_false, if_true]
  have hheal : healSlot s (agentOf s c) c va w w = s := if_pos rfl
  simp only [takeWord, hres, hheal, healWaits, bne_self_eq_false, Bool.false_and, Bool.false_eq_true, if_false]

/-- Settles O23: the word lands, and the slot that frees takes nothing in its place. -/
theorem valueArrives : Obligations.ValueArrives := by
  intro s c r pa va weak m w ws hslot hkind hdsts hres hwaits hpower hmiss hrq hrecv
  have hon : coresOn s (clusterOf c) = true := by simp [coresOn, hpower]
  let x := landReg m.id (getCtx s c) r (.word w) (.word w)
  let t := modCtx (landWords s c m.id [r] [w]) c fun x => { x with slot := none }
  obtain ⟨hword, hothers, hpc, hrq', hrecv'⟩ := landReg_of_pending (g := .word w) (v := .word w) hwaits
  have hctx : getCtx t c = { x with slot := none } := by
    simp [t, x, landWords]
  have hrun : valueArrival s c = t := by
    have hfree : freeSlot (landWords s c m.id [r] [w]) c = t :=
      settleSlot_of_no_want (by rw [hctx]; exact hrq'.trans hrq) (by rw [hctx]; exact hrecv'.trans hrecv)
    rw [← hfree]
    simp only [valueArrival, hslot, hon, hkind, hres, takeWord_of_no_barrier hmiss, finishOp, hdsts, Bool.not_true, Bool.false_eq_true,
      if_false]
  refine ⟨t, congrArg Host.Outcome.next hrun, ?_⟩
  rw [hctx]
  exact ⟨hword, rfl, hothers, hpc, rfl, fun d hd => by simp [t, landWords, hd]⟩

end Sys2Proof.Machine

namespace Sys2Proof.Machine
open Sys2Proof

/-! ## Uncached stores drain in order and are performed at their home (O24) -/

@[simp] theorem cleanLine_ctxs (s : State) (line : Nat) : (cleanLine s line).ctxs = s.ctxs := by
  obtain ⟨m, rf, cs, ks, d, h⟩ := cleanLine_spec s line; rw [h]

theorem cleanLine_of_clean {s : State} {line : Nat} (h : lineDirty s line = false) : cleanLine s line = s := by
  rw [cleanLine, h, Bool.not_false, if_pos rfl]

@[simp] theorem uncachedReads_ctxs (s : State) (line : Nat) : (uncachedReads s line).ctxs = s.ctxs := by
  unfold uncachedReads
  split
  · exact cleanLine_ctxs s line
  · exact cleanLine_ctxs s line

/-- An uncached read of a line that no cluster owns and no copy has changed leaves memory and its copies as they are. -/
theorem uncachedReads_of_clean {s : State} {line : Nat} (hclean : lineDirty s line = false) (howned : ∀ o, dirOf s line ≠ some (.owned o)) :
    uncachedReads s line = s := by
  unfold uncachedReads
  split
  · exact absurd ‹_› (howned _)
  · exact cleanLine_of_clean hclean

/-- A word written at its home, to a line that no copy has changed: it reads back, and every other word is as before. -/
theorem readWord_homeWrite_of_clean {s : State} {a : Nat} (w : Word) (hclean : lineDirty s (a / 8) = false)
    (hfills : windowFills s (a / 8) = false) (b : Nat) : readWord (homeWrite s a w) b = if b = a then w else readWord s b := by
  rw [homeWrite, hfills, if_neg Bool.false_ne_true, readWord_writeWord, flushLine, readWord_discardLine, cleanLine_of_clean hclean]

theorem storeDrain_of_uncached {s : State} {core : Nat} {e : StoreEnt} {rest : List StoreEnt} (hsq : (getCore s core).sq = e :: rest)
    (hon : coresOn s (clusterOfCore core) = true) (hblocked : drainBlocked s core e = false) (htyp : e.typ = 1)
    (hahead : uncAhead s e.ctx = false) (hfree : sharedFree s (clusterOfCore core) = true) : storeDrain s core =
      askHome (popStore s core) {
        who := .ctxStore e.ctx e.seq, pa := e.pa % 2 ^ 36, kind := .write e.word
        mark := some { core, ctx := e.ctx, part := partOf s e.ctx, log := e.log, card := e.card } } := by
  simp [storeDrain, hsq, hon, hblocked, htyp, hahead, hfree]

/-- The answer of a home lands as the result of the operation that asked. -/
theorem getCtx_setResult {s : State} {c op : Nat} {m : MissOp} (r : OpResult) (hslot : (getCtx s c).slot = some m) (hid : m.id = op) :
    (getCtx (setResult s c op r) c).slot = some { m with result := some r } ∧ ∀ d, d ≠ c → getCtx (setResult s c op r) d = getCtx s d := by
  refine ⟨?_, fun d hd => getCtx_modCtx_ne s _ hd⟩
  rw [setResult, getCtx_modCtx_same, hslot]
  simp [hid]

theorem serveUnc_of_read {s : State} {i c op : Nat} {r : UncReq} (hkind : r.kind = .read) (hwho : r.who = .ctxOp c op) :
    serveUnc s i r = setResult (uncachedReads { s with unc := s.unc.eraseIdx i } (r.pa % 2 ^ 36 / 8)) c op
      (.words [(homeRead { s with unc := s.unc.eraseIdx i } (r.pa % 2 ^ 36)).1]) := by
  simp only [serveUnc, hkind, hwho, homeRead]

/-- Keeping memory's copies leaves the requests that wait for their homes. -/
theorem uncachedReads_unc (s : State) (line : Nat) : (uncachedReads s line).unc = s.unc := by
  obtain ⟨m, rf, cs, ks, d, h⟩ := cleanLine_spec s line
  unfold uncachedReads downgradeLine
  rw [h]
  split
  · rfl
  · rfl

/-- Settles O24: the store drained, the read answered and the write performed. -/
theorem uncachedAccessesReachHome : Obligations.UncachedAccessesReachHome := by
  refine ⟨?drain, ?read, ?write⟩
  case drain =>
    intro s core e rest hsq hon hblocked htyp hahead hfree
    refine ⟨_, congrArg Host.Outcome.next (storeDrain_of_uncached hsq hon hblocked htyp hahead hfree), ?_, rfl, rfl, _, rfl, rfl, rfl⟩
    have hpop : (getCore (popStore s core) core).sq = rest := by rw [popStore, getCore_modCore_same, hsq, List.drop_one, List.tail_cons]
    exact hpop
  case read =>
    intro s slice i c op r m hnext hkind hwho hslot hid
    have hrun : exec (.homeUncachedRead slice) s = .next (serveUnc s i r) := by simp only [exec, execHomeUncachedRead, hnext]
    let s1 : State := { s with unc := s.unc.eraseIdx i }
    let s2 := uncachedReads s1 (r.pa % 2 ^ 36 / 8)
    have hctx : ∀ d, getCtx s2 d = getCtx s d := getCtx_of_ctxs (uncachedReads_ctxs s1 _)
    obtain ⟨hresult, hothers⟩ := getCtx_setResult (s := s2) (op := op) (.words [(homeRead s1 (r.pa % 2 ^ 36)).1]) (by rw [hctx]; exact hslot) hid
    rw [serveUnc_of_read hkind hwho] at hrun
    refine ⟨_, hrun, uncachedReads_unc s1 _, hresult, fun d hd => (hothers d hd).trans (hctx d), fun hclean howned => ?_⟩
    have hsame : s2 = s1 := uncachedReads_of_clean (s := s1) hclean howned
    have hword : (homeRead s1 (r.pa % 2 ^ 36)).1 = readWord s1 (r.pa % 2 ^ 36) :=
      readWord_of_mem (congrArg State.mem hsame) _
    have hmem : s2.mem = s1.mem := congrArg State.mem hsame
    exact ⟨hword ▸ hresult, hmem⟩
  case write =>
    intro s slice i b r w hnext hkind hmark hship hclean hfills
    let s1 : State := { s with unc := s.unc.eraseIdx i }
    have hrun : exec (.homeUncachedWrite slice) s = .next (homeWrite s1 (r.pa % 2 ^ 36) w) := by
      simp only [exec, execHomeUncachedWrite, hnext, hship, serveUnc, hkind, hmark, Bool.false_eq_true, if_false, s1]
    obtain ⟨mem, rf, cs, ks, d, h⟩ := homeWrite_spec s1 (r.pa % 2 ^ 36) w
    refine ⟨_, hrun, by rw [h], homeWrite_ctxs .., ?_⟩
    exact readWord_homeWrite_of_clean (s := s1) w hclean hfills b

end Sys2Proof.Machine

namespace Sys2Proof.Machine
open Sys2Proof

/-! ## Routine engines take requests and commit segments (O25) -/

theorem engineOf_modEngine_same (s : State) (cl i : Nat) (f : Engine → Engine) : engineOf (modEngine s cl i f) cl i = f (engineOf s cl i) := by
  simp [engineOf, modEngine]

/-- A key of a table reads as its default or is listed with what it reads as. -/
theorem tget_eq_or_mem {α : Type} (d : α) (tab : Tab α) (n : Nat) : tget d tab n = d ∨ (n, tget d tab n) ∈ tab := by
  induction tab with
  | nil => exact .inl rfl
  | cons e tab ih =>
    by_cases h : n = e.1
    · subst h; exact .inr (by simp [tget])
    · simp only [tget, h, if_false]
      exact ih.imp id (List.mem_cons_of_mem e)

/-- What is listed after a key is set is the new entry or was listed. -/
theorem eq_or_mem_of_mem_tput {α : Type} {tab : Tab α} {n : Nat} {v : α} {x : Nat × α} (h : x ∈ tput tab n v) : x = (n, v) ∨ x ∈ tab := by
  rcases mem_of_mem_tput h with h | h | h
  · exact .inl h
  · exact .inr h.1
  · exact .inr h

section
variable {s : State} {cl en src c : Nat}

theorem routineTake_of_free {q : RoutineReq} (hen : en < 2) (hserving : (engineOf s cl en).serving = none)
    (hjob : (engineOf s cl en).job = none) (hstores : (engineOf s cl en).stores = []) (hlines : engineLines s cl en = 0)
    (hretired : (engineOf s cl en).retired = false) (hpower : (getCluster s cl).power = .active)
    (hnext : nextRequest s cl en = some (src, q)) : routineTake s cl en =
      modEngine (modCluster s src fun k => { k with reqQ := k.reqQ.erase q }) cl en fun e => { e with
        serving := if q.coll.isSome then none else some q.ctx, job := q.coll
        run := 0, remBuf := [], heals := [], micro := none, micro0 := none
        e := if e.lastPart = some (reqPart s q) then e.e else [], e0 := if e.lastPart = some (reqPart s q) then e.e else []
        lastPart := some (reqPart s q) } := by
  have hbusy : ((engineOf s cl en).serving.isSome || (engineOf s cl en).job.isSome || !(engineOf s cl en).stores.isEmpty ||
      decide (engineLines s cl en ≠ 0) || (engineOf s cl en).retired || decide (2 ≤ en) ||
      (getCluster s cl).power == .off || (getCluster s cl).power == .retain) = false := by
    have htwo : ¬ 2 ≤ en := by omega
    simp [hserving, hjob, hstores, hlines, hretired, hpower, htwo]
  simp only [routineTake, hbusy, hnext, Bool.false_eq_true, if_false]

theorem engineOf_modCluster_reqQ (f : Cluster → List RoutineReq) :
    engineOf (modCluster s src fun k => { k with reqQ := f k }) cl en = engineOf s cl en := by
  by_cases h : cl = src
  · subst h; simp [engineOf]
  · simp [engineOf, h]

theorem getCluster_modEngine_reqQ (s : State) (cl en src : Nat) (f : Engine → Engine) :
    (getCluster (modEngine s cl en f) src).reqQ = (getCluster s src).reqQ := by
  by_cases h : src = cl
  · subst h; simp [modEngine]
  · simp [modEngine, h]

/-! ### A segment of a request -/

/-- The engine's stores made leave no store of the context, where there was none. -/
theorem ctxStoresMade_drained (hremotes : (s.remotes.any fun q => q.who == .engine cl en) = false) (hmade : ctxStoresMade s c = true) :
    ctxStoresMade (modEngine s cl en fun e => { e with stores := [] }) c = true := by
  have hold : ∀ k ∈ s.clusters, ∀ e ∈ k.2.engines,
      (!(e.2.stores.any fun x => x.ctx == c) && !((engineStores s k.1 e.1).any fun q => q.ctx == c)) = true := by
    simpa [ctxStoresMade] using hmade
  have hfar : engineStores s cl en = [] := by
    refine List.filter_eq_nil_iff.mpr fun q hq => ?_
    have := List.any_eq_false.mp hremotes q hq
    simp [this]
  refine List.all_eq_true.mpr fun k hk => List.all_eq_true.mpr fun e he => ?_
  rcases eq_or_mem_of_mem_tput hk with rfl | hk
  · rcases eq_or_mem_of_mem_tput he with rfl | he
    · rw [show engineStores (modEngine s cl en fun e => { e with stores := [] }) cl en = [] from hfar]
      rfl
    · rcases tget_eq_or_mem ({} : Cluster) s.clusters cl with hnone | hlisted
      · rw [getCluster, hnone] at he
        exact absurd he List.not_mem_nil
      · exact hold _ hlisted e he
  · exact hold k hk e he

/-- A segment of a request of a context, once its engine's stores are made. -/
theorem routineSegment_of_request (hserving : (engineOf s cl en).serving = some c) (hjob : (engineOf s cl en).job = none)
    (hstate : (getCtx s c).rq.state = 1) (hremotes : (s.remotes.any fun q => q.who == .engine cl en) = false)
    (hstores : (engineOf s cl en).stores = []) (hmade : ctxStoresMade s c = true) (hfree : sharedFree s cl = true) :
    (∀ f, (getCtx s c).rqFail = some f → routineSegment s cl en = failRequest (drainStores cl en [] s) (rtOf s cl en c) f) ∧
    (∀ ws, (getCtx s c).rqFail = none → (getCtx s c).rqEnd = some ws →
      routineSegment s cl en = completeRequest (drainStores cl en [] s) (rtOf s cl en c) ws) ∧
    ((getCtx s c).rqFail = none → (getCtx s c).rqEnd = none →
      routineSegment s cl en = serveSegment (drainStores cl en [] s) (rtOf s cl en c)) := by
  have hengine : engineOf (drainStores cl en [] s) cl en = { engineOf s cl en with stores := [] } := engineOf_modEngine_same ..
  have hfree' : sharedFree (drainStores cl en [] s) cl = true := by
    have hcluster : sharedUse (drainStores cl en [] s) cl = sharedUse s cl := by
      simp [sharedUse, drainStores, modEngine]
    rw [sharedFree, hcluster]
    exact hfree
  have hmade' : ctxStoresMade (drainStores cl en [] s) c = true := ctxStoresMade_drained hremotes hmade
  have hrt : rtOf (drainStores cl en [] s) cl en c = rtOf s cl en c := rfl
  have hctx : getCtx (drainStores cl en [] s) c = getCtx s c := rfl
  have hremotes' : ((drainStores cl en [] s).remotes.any fun q => q.who == .engine cl en) = false := hremotes
  have hrq : (rtOf s cl en c).rq.state = 1 := hstate
  obtain ⟨s0, hs0⟩ : ∃ s0, drainStores cl en [] s = s0 := ⟨_, rfl⟩
  rw [hs0] at hengine hfree' hmade' hrt hctx hremotes' ⊢
  refine ⟨fun f hfail => ?_, fun ws hfail hend => ?_, fun hfail hend => ?_⟩
  · simp [routineSegment, hstores, hs0, hengine, hfree', hjob, hserving, hrt, hrq, hremotes', hmade', hctx, hfail]
  · simp [routineSegment, hstores, hs0, hengine, hfree', hjob, hserving, hrt, hrq, hremotes', hmade', hctx, hfail, hend]
  · simp [routineSegment, hstores, hs0, hengine, hfree', hjob, hserving, hrt, hrq, hremotes', hmade', hctx, hfail, hend]

/-- A request ended: its record's state and its operation's result are its context's, and other contexts and memory are as before. -/
theorem endRequest_spec (s : State) (c st : Nat) (res : OpResult) : (getCtx (endRequest s c st res) c).rq.state = st ∧
    (∀ m, (getCtx s c).slot = some m → m.id = (getCtx s c).rq.op →
      (getCtx (endRequest s c st res) c).slot = some { m with result := some res }) ∧
    (∀ d, d ≠ c → getCtx (endRequest s c st res) d = getCtx s d) := by
  refine ⟨by simp [endRequest], fun m hslot hid => ?_, fun d hd => ?_⟩
  · have := (getCtx_setResult res hslot hid).1
    simp [endRequest, this]
  · simp [endRequest, setResult, hd]

theorem releaseEngine_spec (s : State) (cl en : Nat) : (engineOf (releaseEngine s cl en) cl en).serving = none ∧
    (releaseEngine s cl en).ctxs = s.ctxs ∧ (releaseEngine s cl en).mem = s.mem := by
  rw [releaseEngine, engineOf_modEngine_same]
  exact ⟨rfl, rfl, rfl⟩

theorem tellSealed_frame (s : State) (c : Nat) (f : FaultRec) : (tellSealed s c f).ctxs = s.ctxs ∧ (tellSealed s c f).mem = s.mem := by
  unfold tellSealed sealedRefused
  split
  · exact ⟨report_ctxs .., report_mem ..⟩
  · exact ⟨rfl, rfl⟩

end

/-- Settles O25: the request taken, and the three ways in which a segment of a context's request goes on. -/
theorem enginesServeRequests : Obligations.EnginesServeRequests := by
  refine ⟨?take, ?segment⟩
  case take =>
    intro s cl en src q hen hserving hjob hstores hlines hretired hpower hnext
    refine ⟨_, congrArg Host.Outcome.next (routineTake_of_free hen hserving hjob hstores hlines hretired hpower hnext), ?_⟩
    rw [engineOf_modEngine_same, engineOf_modCluster_reqQ, getCluster_modEngine_reqQ, getCluster_modCluster_same]
    exact ⟨rfl, rfl, rfl, rfl, fun h => if_neg h, rfl, rfl, rfl, rfl⟩
  case segment =>
    intro s cl en c hserving hjob hstate hremotes hstores hmade hfree
    obtain ⟨hfails, hends, hserves⟩ := routineSegment_of_request hserving hjob hstate hremotes hstores hmade hfree
    refine ⟨fun s2 g st ws hfail hend hmicro hseen => ?_, fun f hfail hrange => ?_, fun m ws hfail hend hslot hid => ?_⟩
    · intro s1 hwork
      refine congrArg Host.Outcome.next ((hserves hfail hend).trans ?_)
      have hmicro' : (engineOf (drainStores cl en [] s) cl en).micro = none := by
        rw [drainStores, engineOf_modEngine_same]
        exact hmicro
      have hrom : romPath s1 (rtOf s cl en c).traced = (s1, none) := by
        have hseen' : microSeen s1 (rtOf s cl en c).traced.cl = false := hseen
        rw [romPath, hseen', Bool.not_false, if_pos rfl]
      have hs1 : (modEngine (drainStores cl en [] s) (rtOf s cl en c).cl (rtOf s cl en c).en fun e => { e with heals := [] }) = s1 := rfl
      rw [serveSegment, hs1, show (rtOf s cl en c).cl = cl from rfl, show (rtOf s cl en c).en = en from rfl, hmicro']
      simp only [hrom, runSegment, hwork]
    · have hfill : fillRange (drainStores cl en [] s) c = drainStores cl en [] s := by
        have hrange' : (getCtx (drainStores cl en [] s) c).rq.range = none := hrange
        simp only [fillRange, hrange']
      obtain ⟨hctxs, hmem⟩ := tellSealed_frame (drainStores cl en [] s) c f
      obtain ⟨hend, -, hothers⟩ := endRequest_spec (tellSealed (drainStores cl en [] s) c f) c 4 (.fault (routineFault (rtOf s cl en c).rq f))
      obtain ⟨hfreed, hctxs', hmem'⟩ := releaseEngine_spec
        (endRequest (tellSealed (drainStores cl en [] s) c f) c 4 (.fault (routineFault (rtOf s cl en c).rq f))) cl en
      refine ⟨_, congrArg Host.Outcome.next (hfails f hfail), ?_⟩
      rw [failRequest, show (rtOf s cl en c).c = c from rfl, hfill]
      refine ⟨?_, hfreed, hmem'.trans hmem, fun d hd => ?_⟩
      · exact (congrArg (·.rq.state) (getCtx_of_ctxs hctxs' c)).trans hend
      · exact (getCtx_of_ctxs hctxs' d).trans ((hothers d hd).trans (getCtx_of_ctxs hctxs d))
    · obtain ⟨hstate', hresult, -⟩ := endRequest_spec (drainStores cl en [] s) c 0 (.words ws)
      obtain ⟨hfreed, hctxs', hmem'⟩ := releaseEngine_spec (endRequest (drainStores cl en [] s) c 0 (.words ws)) cl en
      refine ⟨_, congrArg Host.Outcome.next (hends ws hfail hend), ?_, ?_, hfreed, hmem'⟩
      · exact (congrArg (·.rq.state) (getCtx_of_ctxs hctxs' c)).trans hstate'
      · exact (congrArg (·.slot) (getCtx_of_ctxs hctxs' c)).trans (hresult m hslot hid)

end Sys2Proof.Machine

namespace Sys2Proof.Machine
open Sys2Proof

/-! ## The Collector's rounds where two clusters hold different changed copies of a ring's line (O28, O29)

A round of the maintenance port rewrites the entry of its cluster in the table of clusters. In a table that does not list the clusters in
order the entry moves to its place, and of two changed copies of one line the other one is then the line's current data: the message
that the Collector takes after the round is not the one that stood at the head of its queue before. -/

/-- A pointer into a heap from 0x1200 on, with a barrier. -/
def movedPointer : Word := ⟨0x80, 0x1200⟩

/-- A cluster whose eviction buffer holds a changed copy of line 0x200: a message of one word. -/
def holdingMessage (w : Word) : Cluster := { wb := [{ line := 0x200, data := [⟨tagRAW, 1⟩, w] }] }

/-- A partition in a phase of its collection, whose queue 9 at word 0x1000 holds one message; cluster 1 is listed before cluster 0, and
their copies of the message's line hold FIX 4 and a pointer. The Collector's tables map word 0x1000. -/
def twoCopies (phase : Nat) : State where
  owner := [(0, 0)]
  parts := [(0, {
    defined := true, phase, tbaseDef := 0x10000, grants := [(0, 0x100000)], tdt := [(0x80, BitVec.ofNat 64 (clsPOINTER + 0x400))]
    satbq := 9, weakq := 9, heapbase := 0x1200, heaplim := 0x41200, rtbase := 0x1000, mbmbase := 0x1100 })]
  mem := [(0x10000, ⟨tagPTD, 0x8000000000010400⟩), (0x10400, ⟨tagPTD, 0x8000000000010800⟩),
    (0x10800, ⟨tagPTD, 0x8000000000010C00⟩), (0x10C04, ⟨tagPTE, 0xE600000000001000⟩)]
  queues := [(9, { enabled := true, owned := true, bind := 2, base := 0x1000, tail := 1 })]
  clusters := [(1, holdingMessage (Word.fixN 4)), (0, holdingMessage movedPointer)]

/-- The engines of cluster 0 in the state that a command answers. -/
def engines0 : Host.Outcome State Fault Refusal → Tab Engine
  | .next t => (getCluster t 0).engines
  | _ => []

theorem twoCopies_head : hwHead (twoCopies phMARK) 9 = some (9, [Word.fixN 4]) ∧
    hwHead (portRound (twoCopies phMARK) 0 false) 9 = some (9, [movedPointer]) := by decide +kernel

/-- Refutes O28: in `twoCopies` the message at the head is FIX 4 before the round of the port, and the pointer after it, whose region the
Collector looks up; so an engine's TLB is filled, where marking FIX 4 leaves the engines alone. -/
theorem not_collectorMarks : ¬ Obligations.CollectorMarks := by
  rintro ⟨hmarks, -⟩
  have hround := hmarks (twoCopies phMARK) 0 0 (by decide +kernel) (by decide +kernel) (by decide +kernel)
  dsimp only at hround
  obtain ⟨-, hworks⟩ := hround
  obtain ⟨-, hlogged⟩ := hworks (by decide +kernel) (by decide +kernel)
  have hnext := hlogged (by decide +kernel) (by decide +kernel) (by decide +kernel) 9 [Word.fixN 4] twoCopies_head.1
  exact absurd (congrArg engines0 hnext) (by decide +kernel)

/-- Refutes O29: in `twoCopies` the weak box at the head is FIX 4 before the round of the port, which would only leave the queue, and the
pointer after it, which is visited; so an engine's TLB is filled. -/
theorem not_collectorEvacuates : ¬ Obligations.CollectorEvacuates := by
  rintro ⟨hweak, -⟩
  have hvisit := hweak (twoCopies phWEAK_CLEAR) 0 0 (by decide +kernel) (by decide +kernel) (.inl (by decide +kernel)) (by decide +kernel)
    (by decide +kernel) 9 [Word.fixN 4] (by decide +kernel)
  dsimp only at hvisit
  have hnext := hvisit.1 (by decide +kernel)
  exact absurd (congrArg engines0 hnext) (by decide +kernel)

end Sys2Proof.Machine

namespace Sys2Proof.Machine
open Sys2Proof

/-! ## Range operations (O30) -/

section
variable {s : State} {cl : Nat} {r : RangeOp} {rest : List RangeOp} (hqueue : (getCluster s cl).rangeQ = r :: rest)
  (howing : rangeOwing s cl < 8) (hstores : storesDone s r.ctx r.seq = true) (hpauses : reflPauses s r.part = false)
include hqueue howing hstores hpauses

theorem rangeRun_of_done (hdone : r.done ≠ 0) (hend : min r.len (2 ^ 48 - r.base) ≤ r.done) :
    rangeRun s cl = rangeEnd s cl r (if r.lockFull then 4 else 0) 0 false := by
  have hwaits : ¬ (8 ≤ rangeOwing s cl ∨ storesDone s r.ctx r.seq = false ∨ reflPauses s r.part = true) := by
    simp [hstores, hpauses, howing]
  simp only [rangeRun, hqueue, hwaits, hdone, hend, false_and, if_false, if_true]

theorem rangeRun_of_line {s1 : State} {pa n : Nat} (hstart : r.done ≠ 0 ∨ zeroRefused s r = false) (hwins : collWins s cl = false)
    (hxlate : rangeXlate s cl r (r.base + r.done) = (s1, some (pa, 0))) (hlines : rangeWaits s1 cl r.op (pa % 2 ^ 36 / 8) = false)
    (hn : min (8 - (r.base + r.done) % 8) (min r.len (2 ^ 48 - r.base) - r.done) = n) (hmore : r.done + n < min r.len (2 ^ 48 - r.base)) :
    let q := rangeLine (portRound s1 cl true) cl r.op pa n (r.done == 0 || (r.base + r.done) % 32 == 0)
    rangeRun s cl = modCluster q.1 cl fun k => { k with rangeQ := { r with done := r.done + n, lockFull := r.lockFull || !q.2 } :: rest } := by
  have hwaits : ¬ (8 ≤ rangeOwing s cl ∨ storesDone s r.ctx r.seq = false ∨ reflPauses s r.part = true) := by
    simp [hstores, hpauses, howing]
  have hstart' : ¬ (r.done = 0 ∧ zeroRefused s r = true) := by
    rintro ⟨hd, hz⟩
    rcases hstart with h | h
    · exact h hd
    · simp [h] at hz
  have hleft : ¬ min r.len (2 ^ 48 - r.base) ≤ r.done := by omega
  have hleft' : ¬ min r.len (2 ^ 48 - r.base) ≤ r.done + n := Nat.not_le.mpr hmore
  have htyp : ¬ ((0 : Nat) = 2 ∨ (0 : Nat) = 3) := by omega
  simp only [rangeRun, hqueue, hwaits, hstart', hleft, hwins, hxlate, htyp, hlines, hn, hleft', Bool.false_eq_true, if_false]

end

/-- A ZERO of a whole line of this device's memory writes its eight words (R220). -/
theorem rangeLine_of_zero {s : State} {cl pa : Nat} (hpa : pa < 2 ^ 36) (hfills : windowFills s (pa / 8) = false) (first : Bool) :
    rangeLine s cl 4 pa 8 first = (writeWords (flushLine s (pa / 8)) pa (List.replicate 8 Word.zero), true) := by
  simp only [rangeLine, Nat.mod_eq_of_lt hpa, hfills, Bool.false_eq_true, if_false]

/-- Settles O30: the end of an operation, one line of it, a line of a ZERO, and a completion sent again. -/
theorem rangeOperationRuns : Obligations.RangeOperationRuns := by
  refine ⟨?done, ?line, ?zero, ?retry⟩
  case done =>
    intro s cl r rest hqueue howing hstores hpauses hdone hend hlock
    have hrun := rangeRun_of_done hqueue howing hstores hpauses hdone hend
    rw [hlock, if_neg Bool.false_ne_true] at hrun
    exact congrArg Host.Outcome.next hrun
  case line =>
    intro s s1 cl pa r rest hqueue howing hstores hpauses hstart hwins hxlate hlines n q hmore
    exact congrArg Host.Outcome.next (rangeRun_of_line hqueue howing hstores hpauses hstart hwins hxlate hlines rfl hmore)
  case zero =>
    intro s cl pa i first hpa hline hi hfills
    obtain ⟨m, rf, h⟩ := writeWords_spec (flushLine s (pa / 8)) pa (List.replicate 8 Word.zero)
    rw [rangeLine_of_zero hpa hfills]
    refine ⟨rfl, ?_, by rw [h]; exact flushLine_ctxs ..⟩
    rw [readWord_writeWords, if_pos ⟨by omega, by rw [List.length_replicate]; omega⟩, Nat.add_sub_cancel_left,
      List.getElem?_replicate_of_lt hi, Option.getD_some]
  case retry =>
    intro s cl d rest hheld
    exact congrArg Host.Outcome.next (by simp only [rangeRetry, hheld])

end Sys2Proof.Machine

namespace Sys2Proof.Machine
open Sys2Proof

/-! ## L1D fills and evictions (O31), and the answers of a receive (O34) -/

theorem mem_tput_self {α : Type} (tab : Tab α) (n : Nat) (v : α) : (n, v) ∈ tput tab n v :=
  List.mem_of_find?_eq_some (find?_tput_same tab n v)

/-- A valid sub-block put into the slot that holds its sector is what the L1D then has of its line. -/
theorem l1Sub?_setL1Sub {k : Core} {i line : Nat} {b : L1Sub} (hslot : l1Slot? k line = some i) (hb : b.v = true) :
    l1Sub? (setL1Sub k i line b) line = some b := by
  have hholds : (!(tget ({} : L1Slot) k.l1d i).empty && (tget ({} : L1Slot) k.l1d i).tag == sectorOf line) = true := by
    have hfound := hslot
    unfold l1Slot? at hfound
    simpa using List.find?_some hfound
  have hsame : l1Slot? (setL1Sub k i line b) line = l1Slot? k line := by
    unfold l1Slot?
    refine congrArg (List.find? · (l1Keys line)) (funext fun j => ?_)
    by_cases hj : j = i
    · subst hj
      obtain ⟨-, htag⟩ := Bool.and_eq_true_iff.mp hholds
      have hfilled : ({ tget ({} : L1Slot) k.l1d j with subs := tput (tget ({} : L1Slot) k.l1d j).subs (subOf line) b } : L1Slot).empty =
          false := List.all_eq_false.mpr ⟨_, mem_tput_self _ (subOf line) b, by simp [hb]⟩
      refine Eq.trans ?_ hholds.symm
      simp only [setL1Sub, tget_tput_same]
      exact Bool.and_eq_true_iff.mpr ⟨congrArg not hfilled, htag⟩
    · simp only [setL1Sub, tget_tput_ne _ _ _ hj]
  have hread : tget {} (tget {} (setL1Sub k i line b).l1d i).subs (subOf line) = b := by
    simp only [setL1Sub, tget_tput_same]
  simp only [l1Sub?, hsame, hslot, hread, hb, if_true]

theorem nsp_touchL2 (s : State) (c line n : Nat) : (getCluster (touchL2 s c line) n).nsp = (getCluster s n).nsp := by
  unfold touchL2
  dsimp only
  split
  · by_cases h : n = c
    · subst h; rw [getCluster_setCluster_same]
    · rw [getCluster_setCluster_ne _ _ h]
  · rfl

theorem touchL2_frame (s : State) (c line : Nat) : (touchL2 s c line).cores = s.cores ∧ (touchL2 s c line).mem = s.mem ∧
    (touchL2 s c line).ctxs = s.ctxs := by
  unfold touchL2
  dsimp only
  split
  · exact ⟨rfl, rfl, rfl⟩
  · exact ⟨rfl, rfl, rfl⟩

section
variable {s : State} {core line : Nat}

/-- A load's line whose sector the L1D holds, of no changed copy, placed clean with its current words. -/
theorem placeL1_of_slot {i : Nat} (hit : Bool) (hdram : dramLine s line = false) (hslot : l1Slot? (getCore s core) line = some i)
    (hhas : l1Has (getCore s core) line = false) (hdirty : dirtyL1 s line = none) (hlost : lostSource s line = none)
    (hevict : (getCore s core).evict = []) : let t := placeL1 s core line false false hit
    getCore t core = setL1Sub (getCore s core) i line { v := true, d := false, data := currentLine s line } ∧
      (getCluster t (clusterOfCore core)).nsp = (getCluster s (clusterOfCore core)).nsp ∧ t.mem = s.mem ∧ t.ctxs = s.ctxs := by
  let s3 := modCore s core fun k => { k with evict := k.evict.filter fun v => !v.written || v.line == line }
  let s4 := setCore s3 core (setL1Sub (getCore s core) i line { v := true, d := false, data := currentLine s line })
  have hsettle : settleLost s (clusterOfCore core) line = s := by
    rw [settleLost, hlost, if_neg (by decide)]
  have hmerge : mergeL1 s (clusterOfCore core) line = s := by
    simp only [mergeL1, hdirty]
  have hdata : l2Data s (clusterOfCore core) line = currentLine s line := by
    rw [l2Data, hdram, Bool.false_and, if_neg Bool.false_ne_true]
  have hcore : getCore s3 core = getCore s core := by
    have hfilter : ((getCore s core).evict.filter fun v => !v.written || v.line == line) = (getCore s core).evict := by rw [hevict]; rfl
    rw [getCore_modCore_same, hfilter]
  have hinstall : installL1 s3 core line (currentLine s line) false false = s4 := by
    simp only [installL1, hcore, hslot, s4]
  have hplace : placeL1 s core line false false hit = modCluster (if hit then touchL2 s4 (clusterOfCore core) line else s4)
      (clusterOfCore core) fun k => modL2Sub k line fun b =>
        { b with pres := if b.pres.contains core then b.pres else b.pres ++ [core], w := false } := by
    rw [placeL1, hsettle, hmerge]
    simp only [Bool.false_eq_true, if_false]
    rw [show (modCore s core fun k => { k with evict := k.evict.filter fun v => !v.written || v.line == line }) = s3 from rfl, hcore, hhas,
      hdata, hinstall]
    simp only [Bool.false_eq_true, if_false, Bool.not_false, Bool.and_true]
  have hpres : ∀ (k : Cluster) f, (modL2Sub k line f).nsp = k.nsp := fun k f =>
    (congrArg Cluster.nsp (clusterRest_modL2Sub k line f) :)
  dsimp only
  rw [hplace, getCluster_modCluster_same, hpres]
  cases hit with
  | false => exact ⟨getCore_setCore_same .., rfl, rfl, rfl⟩
  | true =>
    obtain ⟨hcores, hmem, hctxs⟩ := touchL2_frame s4 (clusterOfCore core) line
    exact ⟨(getCore_of_cores hcores core).trans (getCore_setCore_same ..), nsp_touchL2 .., hmem, hctxs⟩

theorem writeEvict_of_dram {v : EvictEnt} (hfirst : ((getCore s core).evict.find? fun e => !e.written) = some v)
    (hdram : dramLine s v.line = true) : writeEvict s core = modCluster (setCore s core { getCore s core with
        evict := ((getCore s core).evict.filter fun e => !e.written).map fun e => if e.line = v.line then { e with written := true } else e })
      (clusterOfCore core) fun x => dropPresence (modL2Sub x v.line fun b => { b with st := .m, data := v.data, w := false }) core v.line := by
  simp only [writeEvict, hfirst, hdram, if_true]

theorem writeEvict_of_none (hnone : ((getCore s core).evict.find? fun e => !e.written) = none) :
    writeEvict s core = setCore s core { getCore s core with evict := [] } := by
  simp only [writeEvict, hnone]

/-- Where no cluster has next-sector prefetch on, a fill asks for no other sector (R208). -/
theorem nextSector_of_off {f : FillReq} (hnsp : (getCluster s (clusterOfCore core)).nsp = false) : nextSector s core f = s := by
  simp only [nextSector, hnsp, Bool.false_and, Bool.not_false, if_true]

end

/-- Settles O31: the fill of a scratchpad line, a victim written to the L2, and the buffer emptied. -/
theorem cachesFillAndEvict : Obligations.CachesFillAndEvict := by
  refine ⟨?fill, ?victim, ?emptied⟩
  case fill =>
    intro s core line i f hfills hline hwhy hdram hslot hhas hdirty hlost hevict hnsp
    obtain ⟨hcore, hnsp', hmem, hctxs⟩ := placeL1_of_slot (!f.missed) hdram hslot hhas hdirty hlost hevict
    let t := endFills (placeL1 s core line false false (!f.missed)) core line
    have hnext : nextSector t core f = t := by
      refine nextSector_of_off ?_
      rw [show getCluster t (clusterOfCore core) = _ from getCluster_modCluster_same ..]
      exact hnsp'.trans hnsp
    have hdemand : (FillWhy.demand != .fetch) = true ∧ (FillWhy.demand == .store) = false ∧ (FillWhy.demand == .stream) = false ∧
      (FillWhy.demand == .nsp) = false := by decide
    have hrun : l1dFill s core line = t := by
      rw [← hnext]
      simp [l1dFill, hfills, hline, hwhy, hdram, hdemand, t]
    have hcore' : getCore t core = { getCore (placeL1 s core line false false (!f.missed)) core with fills := [] } := by
      have hgone : ((getCore (placeL1 s core line false false (!f.missed)) core).fills.filter fun f =>
          !(f.line == line && f.why != .fetch)) = [] := by
        simp [hcore, setL1Sub, hfills, hline, hwhy]
      have hended : getCore t core = { getCore (placeL1 s core line false false (!f.missed)) core with
          fills := (getCore (placeL1 s core line false false (!f.missed)) core).fills.filter fun f =>
            !(f.line == line && f.why != .fetch) } :=
        (getCore_of_cores (by exact modCluster_cores _ _ _) core).trans (getCore_modCore_same ..)
      rw [hended, hgone]
    refine ⟨t, congrArg Host.Outcome.next hrun, ?_, by rw [hcore'], hmem, hctxs⟩
    rw [hcore', hcore]
    exact l1Sub?_setL1Sub hslot rfl
  case victim => exact fun s core v hfirst hdram => congrArg Host.Outcome.next (writeEvict_of_dram hfirst hdram)
  case emptied => exact fun s core hnone => congrArg Host.Outcome.next (writeEvict_of_none hnone)

/-- Settles O34: one answer for each state of the queue, in the order in which they are judged. -/
theorem receiveIsAnswered : Obligations.ReceiveIsAnswered := by
  intro s c q wait m hslot hkind hresult hasked hfree
  obtain ⟨id, kind, dsts, pc, priv, seq, result⟩ := m
  dsimp only at hkind hresult
  subst hkind hresult
  have hnext : ∀ {t}, receiveRequest s c = t → exec (.queueReceiveRequest c) s = .next t := fun h => congrArg Host.Outcome.next h
  refine ⟨fun hen => hnext ?_, fun hen hmay => hnext ?_, fun hen hmay => ⟨fun hocc => hnext ?_, fun hocc hwait => hnext ?_,
    fun hocc hwait hfull => hnext ?_, fun hocc hwait hroom => hnext ?_⟩⟩
  · simp only [receiveRequest, hslot, hfree, hasked, hen, Bool.not_true, Bool.not_false, Bool.false_eq_true, if_false, if_true]
  · simp only [receiveRequest, hslot, hfree, hasked, hen, hmay, Bool.not_true, Bool.not_false, Bool.false_eq_true, if_false, if_true]
  · simp only [receiveRequest, hslot, hfree, hasked, hen, hmay, hocc, ne_eq, not_false_eq_true, Bool.not_true, Bool.false_eq_true, if_false,
      if_true]
  · simp only [receiveRequest, hslot, hfree, hasked, hen, hmay, hocc, hwait, ne_eq, not_true_eq_false, Bool.not_true, Bool.not_false,
      Bool.false_eq_true, if_false, if_true]
  · simp only [receiveRequest, hslot, hfree, hasked, hen, hmay, hocc, hwait, hfull, ne_eq, not_true_eq_false, Bool.not_true,
      Bool.false_eq_true, if_false, if_true]
  · simp only [receiveRequest, hslot, hfree, hasked, hen, hmay, hocc, hwait, Nat.not_le.mpr hroom, ne_eq, not_true_eq_false, Bool.not_true,
      Bool.false_eq_true, if_false]

end Sys2Proof.Machine

namespace Sys2Proof.Machine
open Sys2Proof

/-! ## Ports train (O36) -/

@[simp] theorem report_time (s : State) (code : Nat) (subj : Subject) (pay : List W64) (wit : Option Subject) :
    (report s code subj pay wit).time = s.time := by
  obtain ⟨rs, gl, h⟩ := report_spec s code subj pay wit; rw [h]

section
variable {s : State} {port : Nat} {v : W64} {a b c lanes : Nat}

/-- Charging lanes changes of the port the lane charged last alone. -/
theorem chargeMissing_frame (s : State) (port want lanes : Nat) : let t := chargeMissing s port want lanes
    (∃ l, getPort t port = { getPort s port with lastLane := l }) ∧ (∀ q, q ≠ port → getPort t q = getPort s q) ∧ t.mem = s.mem ∧
      t.ctxs = s.ctxs ∧ t.time = s.time := by
  refine List.foldlRecOn (motive := fun t : State => (∃ l, getPort t port = { getPort s port with lastLane := l }) ∧
    (∀ q, q ≠ port → getPort t q = getPort s q) ∧ t.mem = s.mem ∧ t.ctxs = s.ctxs ∧ t.time = s.time)
    _ _ ⟨⟨_, rfl⟩, fun _ _ => rfl, rfl, rfl, rfl⟩ fun t ih lane _ => ?_
  obtain ⟨⟨l, hown⟩, hothers, hmem, hctxs, htime⟩ := ih
  refine ⟨⟨lane, ?_⟩, fun q hq => ?_, (report_mem ..).trans hmem, (report_ctxs ..).trans hctxs, (report_time ..).trans htime⟩
  · rw [chargeLane, getPort_report, getPort_modPort_same, hown]
  · rw [chargeLane, getPort_report, getPort_modPort_ne _ _ hq, hothers q hq]

theorem trainHear_of_step3 (hst : (getPort s port).st = 1) (hstep : (getPort s port).step = 3) (hkind : bits v 63 60 = 0 ∨ bits v 63 60 = 2) :
    trainFlit s port v a b c = trainHear s port v a := by
  rcases hkind with hkind | hkind <;> simp [trainFlit, hst, hstep, hkind]

theorem trainFlit_of_echo (hst : (getPort s port).st = 1) (hstep : (getPort s port).step = 3) (hkind : bits v 63 60 = 1) :
    trainFlit s port v a b c = modPort (trainHear s port v a) port fun q => { q with
      echoHeard := true, flight := decide (10 + Config.linkPipeline < s.time - b - c) } := by
  simp [trainFlit, hst, hstep, hkind]

section
variable (hst : (getPort s port).st = 1) (hext : s.dbg.extest = false)
include hst hext

theorem portTraining_of_step1 (hstep : (getPort s port).step = 1) : portTraining s port lanes v a b c =
    trainStep (modPort (chargeMissing s port (15 - (getPort s port).retired % 16) lanes) port fun q =>
      { q with active := alignedLanes q lanes }) port 2 := by
  simp [portTraining, hst, hext, hstep]

theorem portTraining_of_step2 (hstep : (getPort s port).step = 2) : portTraining s port lanes v a b c =
    (let left := Nat.land (getPort s port).active (lanes % 16)
    let s1 := modPort (chargeMissing s port (getPort s port).active lanes) port fun q => { q with
      active := left, offered := false, echoSent := false, echoHeard := false, doneSent := false }
    if laneCount left < 3 then attemptFailed s1 port else trainStep s1 port 3) := by
  simp [portTraining, hst, hext, hstep]

theorem portTraining_of_step3 (hstep : (getPort s port).step = 3) : portTraining s port lanes v a b c =
    if (getPort s port).doneSent && bits v 63 60 == 2 then trainChecks (trainFlit s port v a b c) port else s := by
  simp [portTraining, hst, hext, hstep]

theorem portTraining_of_step5 (hstep : (getPort s port).step = 5) : portTraining s port lanes v a b c = trainUp s port := by
  simp [portTraining, hst, hext, hstep]

end

/-- The checks of a link to a peer that is not the twin (R314). -/
theorem trainChecks_of_peer (hrefl : isReflPort s port = false) : trainChecks s port =
    if (getPort s port).peerDev = port ∧ (getPort s port).peerPort = s.dev then
      if (getPort s port).peerPart = partCode s.part then trainStep s port 5 else holdPort s port 2
    else holdPort s port 1 := by
  simp only [trainChecks, hrefl, Bool.false_eq_true, if_false]
  by_cases hwired : (getPort s port).peerDev = port ∧ (getPort s port).peerPort = s.dev
  · simp [hwired]
  · simp [hwired, not_and_or.mp hwired]

theorem trainTimeout_of_over (hst : (getPort s port).st = 1) (hover : (getPort s port).stepTime + stepLimit (getPort s port).step ≤ s.time) :
    trainTimeout s port = attemptFailed (if (getPort s port).step = 1 then chargeMissing s port (15 - (getPort s port).retired % 16) 0
      else if (getPort s port).step = 2 then chargeMissing s port (getPort s port).active 0 else s) port := if_pos ⟨hst, hover⟩

theorem attemptFailed_eq (s : State) (port : Nat) : let s1 := dropTraffic s port
    let recent := ((getPort s1 port).attempts ++ [s1.time]).filter fun t => decide (s1.time < t + 1000000000)
    attemptFailed s port = if 8 ≤ recent.length then holdPort (modPort s1 port fun p => { p with attempts := [] }) port 4
      else startTraining (modPort s1 port fun p => { p with attempts := recent }) port := rfl

end

/-- Settles O36, step by step of a port's training. -/
theorem portTrains : Obligations.PortTrains := by
  refine ⟨?train, ?timeout, rfl, ?flit, ?violation, ?attempts⟩
  case train =>
    intro s port lanes a b c v hst hext
    refine ⟨fun hstep => ?_, fun hstep hthree => ?_, fun hstep hfew => ?_, fun hstep hwait => ?_, fun hstep hsent hdone hrefl => ?_,
      fun hstep => ⟨fun hrefl => ?_, fun hrefl => ?_⟩⟩
    · obtain ⟨⟨l, hown⟩, hothers, hmem, hctxs, htime⟩ := chargeMissing_frame s port (15 - (getPort s port).retired % 16) lanes
      refine ⟨_, congrArg Host.Outcome.next (portTraining_of_step1 hst hext hstep), ?_⟩
      simp only [trainStep, getPort_modPort_same, hown]
      exact ⟨hst, trivial, rfl, htime, fun q hq => (getPort_modPort_ne _ _ hq).trans ((getPort_modPort_ne _ _ hq).trans (hothers q hq)), hmem,
        hctxs⟩
    · obtain ⟨⟨l, hown⟩, hothers, hmem, hctxs, htime⟩ := chargeMissing_frame s port (getPort s port).active lanes
      refine ⟨_, congrArg Host.Outcome.next ((portTraining_of_step2 hst hext hstep).trans (if_neg (Nat.not_lt.mpr hthree))), ?_⟩
      simp only [trainStep, getPort_modPort_same, hown]
      exact ⟨hst, trivial, trivial, htime, trivial, fun q hq => (getPort_modPort_ne _ _ hq).trans ((getPort_modPort_ne _ _ hq).trans (hothers q hq)),
        hmem, hctxs⟩
    · exact congrArg Host.Outcome.next ((portTraining_of_step2 hst hext hstep).trans (if_pos hfew))
    · have hnot : ¬((getPort s port).doneSent && bits v 63 60 == 2) = true := by
        rcases hwait with h | h <;> simp [h]
      exact congrArg Host.Outcome.next ((portTraining_of_step3 hst hext hstep).trans (if_neg hnot))
    · have hheard : portTraining s port lanes v a b c = trainChecks (trainHear s port v a) port := by
        rw [portTraining_of_step3 hst hext hstep, trainHear_of_step3 hst hstep (.inr hdone), hsent, hdone]
        rfl
      have hchecks := trainChecks_of_peer (s := trainHear s port v a) (port := port) hrefl
      have hpeer : getPort (trainHear s port v a) port = { getPort s port with
          offered := true, trainEcho := a, trainHeard := s.time, peerDev := bits v 59 56, peerPart := bits v 55 48
          peerPort := bits v 47 44 } := getPort_modPort_same ..
      rw [hpeer] at hchecks
      refine ⟨fun hwrong => ?_, fun hdev hport hpart => ?_, fun hdev hport hpart => ?_⟩
      · exact congrArg Host.Outcome.next ((hheard.trans hchecks).trans (if_neg (not_and_or.mpr hwrong)))
      · exact congrArg Host.Outcome.next ((hheard.trans hchecks).trans ((if_pos ⟨hdev, hport⟩).trans (if_neg hpart)))
      · exact congrArg Host.Outcome.next ((hheard.trans hchecks).trans ((if_pos ⟨hdev, hport⟩).trans (if_pos hpart)))
    · refine congrArg Host.Outcome.next ((portTraining_of_step5 hst hext hstep).trans ?_)
      simp only [trainUp, hrefl, Bool.false_eq_true, if_false]
    · refine congrArg Host.Outcome.next ((portTraining_of_step5 hst hext hstep).trans ?_)
      simp only [trainUp, hrefl, if_true]
  case timeout =>
    intro s port hst hover
    have htimeout := trainTimeout_of_over hst hover
    refine ⟨fun hstep => congrArg Host.Outcome.next ?_, fun hstep => congrArg Host.Outcome.next ?_, fun hstep => congrArg Host.Outcome.next ?_⟩
    · rcases hstep with hstep | hstep <;> simp [htimeout, hstep]
    · simp [htimeout, hstep]
    · simp [htimeout, hstep]
  case flit =>
    intro s port v a b c hst hstep
    refine ⟨fun hkind => congrArg Host.Outcome.next (trainHear_of_step3 hst hstep hkind), fun hkind =>
      ⟨_, congrArg Host.Outcome.next (trainFlit_of_echo hst hstep hkind), ?_⟩⟩
    simp only [trainHear, getPort_modPort_same]
    exact ⟨trivial, trivial, trivial, hstep, fun q hq => (getPort_modPort_ne _ _ hq).trans (getPort_modPort_ne _ _ hq), rfl, rfl⟩
  case violation =>
    intro s port v a b c hst
    exact congrArg Host.Outcome.next (by simp [trainFlit, hst])
  case attempts =>
    intro s port
    have hattempt := attemptFailed_eq s port
    dsimp only at hattempt ⊢
    refine ⟨fun hfew => ?_, fun hmany => ?_⟩
    · rw [hattempt, if_neg (Nat.not_le.mpr hfew)]
      simp only [startTraining, getPort_modPort_same]
      exact ⟨rfl, rfl, rfl, rfl⟩
    · rw [hattempt, if_pos hmany]
      simp only [holdPort, getPort_report, getPort_modPort_same]
      exact ⟨trivial, trivial⟩

end Sys2Proof.Machine

namespace Sys2Proof.Machine
open Sys2Proof

/-! ## Requests of other devices (O39) -/

theorem parts_wakeLine (s : State) (line : Nat) : (wakeLine s line).parts = s.parts ∧ (wakeLine s line).part = s.part := by
  have hdie : ∀ (t : State) d, (wakeDie t d).parts = t.parts ∧ (wakeDie t d).part = t.part := fun t d => by
    unfold wakeDie; split <;> exact ⟨rfl, rfl⟩
  have hcluster : ∀ (t : State) cl, (clusterBack t cl).parts = t.parts ∧ (clusterBack t cl).part = t.part := fun t cl => by
    unfold clusterBack
    split
    · exact hdie ..
    · exact ⟨rfl, rfl⟩
  obtain ⟨s1, hs1, hparts⟩ : ∃ s1, (if (getCluster s (homeOf s line)).power = .off then clusterBack s (homeOf s line) else s) = s1 ∧
      s1.parts = s.parts ∧ s1.part = s.part := by
    refine ⟨_, rfl, ?_⟩
    split
    · exact hcluster ..
    · exact ⟨rfl, rfl⟩
  unfold wakeLine
  rw [hs1]
  dsimp only
  split
  · exact hparts
  · obtain ⟨hp, hq⟩ := hdie { s1 with power := { s1.power with
      stacksAsleep := s1.power.stacksAsleep.filter (· != Config.lineStack line % s.part.stacks) } }
        (Config.lineStack line % s.part.stacks / 2)
    exact ⟨hp.trans hparts.1, hq.trans hparts.2⟩

theorem mem_logWord (s : State) (core part ctx : Nat) (w : Word) : (logWord s core part ctx w).mem = s.mem := by
  have hsend : ∀ (t : State) kind p qid ws, (sendHw t kind p qid ws).mem = t.mem := fun t kind p qid ws => by
    unfold sendHw
    dsimp only
    split
    · rfl
    · split <;> rfl
  unfold logWord
  dsimp only
  split
  · rfl
  · unfold sendLog
    split
    · rfl
    · exact hsend ..

/-- A store of no card leaves memory as its write made it. -/
theorem mem_storeMarks {s : State} {m : StoreMark} {old : Word} (hcard : m.card = none) : (storeMarks s m old).mem = s.mem := by
  simp only [storeMarks, hcard]
  split
  · exact mem_logWord ..
  · rfl

theorem writeBar_of_no_barrier {s : State} {p a : Nat} {w va : Word} (hbarrier : barrierOf (getPart s p) w = 0) :
    ∃ t, writeBar s p a w va = (t, 0, Word.zero) ∧ t.mem = (homeWrite s a w).mem := by
  simp only [writeBar, hbarrier, true_or, if_true]
  exact ⟨_, rfl, mem_storeMarks rfl⟩

theorem resolveFor_of_poison {s : State} {part a : Nat} {req : W64}
    (hahead : (s.part.full && colourAhead (getPart s part) (bits req 43 42)) = false) (hpoison : (cohRead s a).tag = tagPOISON) :
    resolveFor s part req a = some ((drawWord s).2, 0, cohRead s a) := by
  simp only [resolveFor, hahead, hpoison, Bool.false_eq_true, if_false, if_true]

theorem farCas_of_ne {s : State} {p a : Nat} {cmp new : Word} (hne : cohRead s a ≠ cmp) :
    farCas s p a cmp new = ((homeCas s a cmp new).2, 0, (homeCas s a cmp new).1) := by
  simp only [farCas, ne_eq, hne, not_false_eq_true, true_or, if_true]

/-- A RESOLVE that the barrier answers is served; one for this device that it does not answer yet waits (R328). -/
theorem execRemoteResolveRequest_of_some {s : State} {port : Nat} {x : XPort} {req : W64} {r : State × Nat × Word}
    (h : resolveFor s x.part req (bits req 35 0) = some r) : execRemoteResolveRequest port x req s =
      .next (remServe s port x req 3 [] fun s a => (resolveFor s x.part req a).getD (s, 0, Word.zero)) := by
  unfold execRemoteResolveRequest
  rw [h]
  cases remCheck s x req 3 <;> rfl

theorem execRemoteResolveRequest_of_none {s : State} {port : Nat} {x : XPort} {req : W64} (hcheck : remCheck s x req 3 = 0)
    (h : resolveFor s x.part req (bits req 35 0) = none) (hdst : x.dst = s.dev) : execRemoteResolveRequest port x req s = .next s := by
  simp only [execRemoteResolveRequest, hcheck, h, hdst, if_true]

theorem remCheck_of_no_route {s : State} {x : XPort} (h : dataPort s x.part x.src = none) (req : W64) (op : Nat) :
    remCheck s x req op = 2 := by
  simp only [remCheck, h, Option.isNone_none, if_true]

/-- The state in which a request of another device is judged: its item received, and the cluster and stack of its word awake. -/
def requestState (s : State) (port typ : Nat) (x : XPort) (req : W64) : State :=
  wakeHome (rxItem s port typ (if x.src = (getPort s port).peerDev then 2 else 3) x) x (bits req 35 0)

/-- The type of the item that carries a request of operation `op`. -/
def requestType (op : Nat) : Nat := if op = 0 ∨ op = 3 then 5 else if op = 1 then 6 else 7

/-- The response to a request performed: the word of status OK, or the status with a word drawn. -/
def answerOf (port : Nat) (x : XPort) (req : W64) (r : State × Nat × Word) : State :=
  if r.2.1 = 0 then remAnswer r.1 port x req 0 r.2.2 else remRefuse r.1 port x req r.2.1

section
variable {s : State} {port op : Nat} {x : XPort} {req : W64}

theorem requestState_parts (typ : Nat) : (requestState s port typ x req).parts = s.parts ∧ (requestState s port typ x req).part = s.part := by
  have hitem : ∀ vc, (rxItem s port typ vc x).parts = s.parts ∧ (rxItem s port typ vc x).part = s.part := fun vc => by
    unfold rxItem
    split <;> exact ⟨rfl, rfl⟩
  unfold requestState
  generalize (if x.src = (getPort s port).peerDev then 2 else 3) = vc
  unfold wakeHome
  split
  · obtain ⟨hp, hq⟩ := parts_wakeLine (rxItem s port typ vc x) (bits req 35 0 / 8)
    exact ⟨hp.trans (hitem vc).1, hq.trans (hitem vc).2⟩
  · exact hitem vc

section
variable (hopen : linkOpen s port = true) (hst : (getPort s port).st = 2) (hseq : inSeq s port x.seq = true) (hdst : x.dst = s.dev)
  (hrsvd : x.rsvd % 65536 = 0)
include hopen hst hseq hdst hrsvd

/-- A well-formed request for this device goes by its check (R328). -/
theorem remServe_eq (data : List Word) (run : State → Nat → State × Nat × Word) :
    let s1 := requestState s port (requestType op) x req
    remServe s port x req op data run = match remCheck s1 x req op with
      | 0 => answerOf port x req (run s1 (bits req 35 0))
      | 2 => remRefuse (countViolation s1 port 6) port x req 2
      | 4 => remRefuse (countViolation s1 port 5) port x req 4
      | st => remRefuse (if (getPart s1 x.part).sealed then sealedRefused s1 x.part 3 (.peer x.src) else s1) port x req st := by
  have htakes : takesItem s port (requestType op) x = true := by rw [takesItem, hopen, hseq, Bool.or_true]; rfl
  unfold remServe
  rw [requestType] at htakes
  simp only [htakes, hst, hrsvd, hdst, ne_eq, not_true_eq_false, if_false, Bool.not_true, Bool.false_or, bne_self_eq_false,
    Bool.false_eq_true]
  rfl

theorem remServe_of_passed {data : List Word} {run : State → Nat → State × Nat × Word}
    (hcheck : remCheck (requestState s port (requestType op) x req) x req op = 0) : remServe s port x req op data run =
      answerOf port x req (run (requestState s port (requestType op) x req) (bits req 35 0)) := by
  rw [remServe_eq hopen hst hseq hdst hrsvd]
  simp only [hcheck]

end

end

/-- Settles O39: each request by the check of its state, and each barrier by its own lemma. -/
theorem remoteRequestsAreServed : Obligations.RemoteRequestsAreServed := by
  intro s port x req hopen hst hseq hdst hrsvd
  have hserve := fun op => @remServe_eq s port op x req hopen hst hseq hdst hrsvd
  have hpassed := fun op => @remServe_of_passed s port op x req hopen hst hseq hdst hrsvd
  refine ⟨fun hcheck => ?_, fun w hcheck => ?_, fun cmp new hcheck => ⟨?_, fun hne => ?_⟩, fun hcheck hahead hpoison hpoison' => ?_,
    fun r hcheck hsome hres => ?_, fun hcheck hnone => ?_, fun w va hcheck => ⟨?_, writeBar_of_no_barrier⟩, fun hcheck => ?_,
    fun hcheck => ?_, fun hcheck => ?_, fun hroute => remCheck_of_no_route hroute req⟩
  · exact congrArg Host.Outcome.next (hpassed 0 hcheck)
  · exact congrArg Host.Outcome.next (hpassed 1 hcheck)
  · exact congrArg Host.Outcome.next (hpassed 2 hcheck)
  · exact farCas_of_ne hne
  · obtain ⟨hparts, hpart⟩ := requestState_parts (s := s) (port := port) (x := x) (req := req) 5
    have hahead' : ((requestState s port 5 x req).part.full &&
        colourAhead (getPart (requestState s port 5 x req) x.part) (bits req 43 42)) = false := by
      rw [hpart, getPart, hparts, ← getPart, hahead]
    have hserves : execRemoteResolveRequest port x req s =
        .next (remServe s port x req 3 [] fun s a => (resolveFor s x.part req a).getD (s, 0, Word.zero)) :=
      execRemoteResolveRequest_of_some (resolveFor_of_poison hahead hpoison)
    refine hserves.trans (congrArg Host.Outcome.next ((hpassed 3 hcheck).trans ?_))
    exact congrArg (answerOf port x req) (congrArg (Option.getD · _) (resolveFor_of_poison hahead' hpoison'))
  · obtain ⟨r', hr'⟩ := Option.isSome_iff_exists.mp hsome
    refine (execRemoteResolveRequest_of_some hr').trans (congrArg Host.Outcome.next ((hpassed 3 hcheck).trans ?_))
    exact congrArg (answerOf port x req) (congrArg (Option.getD · _) hres)
  · exact execRemoteResolveRequest_of_none hcheck hnone hdst
  · exact congrArg Host.Outcome.next (hpassed 4 hcheck)
  · refine congrArg Host.Outcome.next ((hserve 0 [] _).trans ?_)
    have hverdict : remCheck (requestState s port 5 x req) x req 0 = 1 := hcheck
    simp only [requestType, true_or, if_true, hverdict]
    rfl
  · refine congrArg Host.Outcome.next ((hserve 0 [] _).trans ?_)
    have hverdict : remCheck (requestState s port 5 x req) x req 0 = 2 := hcheck
    simp only [requestType, true_or, if_true, hverdict]
    rfl
  · refine congrArg Host.Outcome.next ((hserve 0 [] _).trans ?_)
    have hverdict : remCheck (requestState s port 5 x req) x req 0 = 4 := hcheck
    simp only [requestType, true_or, if_true, hverdict]
    rfl

end Sys2Proof.Machine

namespace Sys2Proof.Machine
open Sys2Proof

/-! ## Responses, timeouts and acknowledgements (O40) -/

theorem rxItem_spec (s : State) (port typ vc : Nat) (x : XPort) : ∃ ps, rxItem s port typ vc x = { s with ports := ps } := by
  unfold rxItem
  split <;> exact ⟨_, rfl⟩

section
variable {s : State} {port : Nat} {x : XPort} {resp v : W64} {w : Word}

theorem remoteTimeout_of_some {rtag : Nat} {r : RemReq} (hfind : (s.remotes.find? fun r => r.rtag == rtag) = some r) :
    remoteTimeout s rtag = if r.time + 100000 ≤ s.time then
      settleWithdraw (remoteDone (chargeLane s r.port (getPort s r.port).lastLane) r 3 Word.zero) else s := by
  simp only [remoteTimeout, hfind]

theorem remoteDone_of_read {r : RemReq} {c op : Nat} (hwho : r.who = .ctxOp c op) (hop : r.op = 0) (hwords : r.words = []) :
    remoteDone s r 0 w = setResult { s with remotes := s.remotes.filter fun q => q.rtag != r.rtag } c op (.words [remoteWord r.pa w]) := by
  simp [remoteDone, hwho, hop, hwords]

section
variable (hopen : linkOpen s port = true) (hst : (getPort s port).st = 2) (hseq : inSeq s port x.seq = true) (hdst : x.dst = s.dev)
  (hrsvd : x.rsvd % 65536 = 0)
include hopen hst hseq hdst hrsvd

theorem remoteResponse_of_some {r : RemReq} (hfind : (s.remotes.find? fun r => r.rtag == bits resp 63 48) = some r)
    (hstatus : bits resp 47 44 < 4 ∨ bits resp 47 44 = 5) : remoteResponse s port x resp w =
      settleWithdraw (remoteDone (rxItem s port 8 (if x.src = (getPort s port).peerDev then 4 else 5) x) r (bits resp 47 44) w) := by
  have htakes : takesItem s port 8 x = true := by rw [takesItem, hopen, hseq, Bool.or_true]; rfl
  have hsmall : ¬6 ≤ bits resp 47 44 := by omega
  have hnot : bits resp 47 44 ≠ 4 := by omega
  unfold remoteResponse
  obtain ⟨ps, hitem⟩ := rxItem_spec s port 8 (if x.src = (getPort s port).peerDev then 4 else 5) x
  simp only [htakes, hst, hrsvd, hdst, hitem, hfind, hsmall, hnot, ne_eq, not_true_eq_false, if_false, Bool.not_true, Bool.false_or,
    bne_self_eq_false, Bool.false_eq_true]

theorem remoteResponse_of_none (hfind : (s.remotes.find? fun r => r.rtag == bits resp 63 48) = none) : remoteResponse s port x resp w =
    countViolation (rxItem s port 8 (if x.src = (getPort s port).peerDev then 4 else 5) x) port 8 := by
  have htakes : takesItem s port 8 x = true := by rw [takesItem, hopen, hseq, Bool.or_true]; rfl
  unfold remoteResponse
  obtain ⟨ps, hitem⟩ := rxItem_spec s port 8 (if x.src = (getPort s port).peerDev then 4 else 5) x
  simp only [htakes, hst, hrsvd, hdst, hitem, hfind, ne_eq, not_true_eq_false, if_false, Bool.not_true, Bool.false_or,
    bne_self_eq_false, Bool.false_eq_true]

theorem msgAck_of_slotFree {k : Nat} {f : Flow} (hzero : bits v 21 0 = 0) (hout : bits v 29 26 = 8) (hsun : bit v 30 = true)
    (hfind : (s.flows.find? fun e => e.2.cluster == bits v 43 39 && e.2.qid == bits v 63 44 && flowIxOf s e.1 == bits v 37 31) =
      some (k, f)) :
    msgAck s port x v = (List.range (bits v 25 22 + 1)).foldl (fun s _ => returnCredit s k) (rxItem s port 11 1 x) := by
  have htakes : takesItem s port 11 x = true := by rw [takesItem, hopen, hseq, Bool.or_true]; rfl
  unfold msgAck
  obtain ⟨ps, hitem⟩ := rxItem_spec s port 11 1 x
  have hfind' : (s.flows.find? fun e => e.2.cluster == bits v 43 39 && e.2.qid == bits v 63 44 &&
      flowIxOf { s with ports := ps } e.1 == bits v 37 31) = some (k, f) := hfind
  simp [htakes, hst, hrsvd, hdst, hitem, hfind', hzero, hout, hsun]

/-- The acknowledgement of one message in the outbox is of the entry it fits alone. -/
theorem msgAck_of_ack (hzero : bits v 21 0 = 0) (hout : bits v 29 26 = 0) (hcount : bits v 25 22 = 0) (hsun : bit v 30 = false) :
    ∃ ps, msgAck s port x v = settleWithdraw (ackMany { s with ports := ps } port (fun s o =>
      o.sent && o.msg.qid == bits v 63 44 && o.msg.sun == false && outboxCluster o.msg == (if bit v 38 then none else some (bits v 43 39)) &&
        (!false || flowIxOf s o.msg.flow == bits v 37 31)) 0 1) := by
  have htakes : takesItem s port 11 x = true := by rw [takesItem, hopen, hseq, Bool.or_true]; rfl
  obtain ⟨ps, hitem⟩ := rxItem_spec s port 11 (if x.src = (getPort s port).peerDev then 4 else 5) x
  refine ⟨ps, ?_⟩
  unfold msgAck
  simp [htakes, hst, hrsvd, hdst, hitem, hzero, hout, hcount, hsun]

end

/-- The one message waiting, delivered, leaves the outbox empty. -/
theorem ackMany_of_only {t : State} {o : OutEnt} {fits : State → OutEnt → Bool} (hbox : t.outbox = [o]) (hfits : fits t o = true)
    (hkind : o.msg.kind = .ctx) : ackMany t port fits 0 1 = { t with outbox := [] } := by
  have hfirst : ((List.range t.outbox.length).zip t.outbox).find? (fun e => fits t e.2) = some (0, o) := by
    rw [hbox]
    exact List.find?_cons_of_pos hfits
  have hrun : ackMany t port fits 0 1 = ackOne t port 0 o.msg 0 := by simp only [ackMany, hfirst]
  rw [hrun]
  simp only [ackOne, hkind, hbox, List.eraseIdx_zero, List.tail_cons]

end

/-- Settles O40: what waits for a response, a timeout or an acknowledgement. -/
theorem remoteAnswersComplete : Obligations.RemoteAnswersComplete := by
  refine ⟨?response, ?done, ?timeout, ?slotFree, ?ack⟩
  case response =>
    intro s port x resp w hopen hst hseq hdst hrsvd
    exact ⟨fun r hfind hstatus => congrArg Host.Outcome.next (remoteResponse_of_some hopen hst hseq hdst hrsvd hfind hstatus),
      fun hfind => congrArg Host.Outcome.next (remoteResponse_of_none hopen hst hseq hdst hrsvd hfind)⟩
  case done => exact fun s r c op w hwho hop hwords => remoteDone_of_read hwho hop hwords
  case timeout =>
    intro s rtag r hfind
    exact ⟨fun hold => congrArg Host.Outcome.next ((remoteTimeout_of_some hfind).trans (if_pos hold)),
      fun hyoung => congrArg Host.Outcome.next ((remoteTimeout_of_some hfind).trans (if_neg (Nat.not_le.mpr hyoung)))⟩
  case slotFree =>
    intro s port k f x v hopen hst hseq hdst hrsvd hzero hout hsun hfind
    exact congrArg Host.Outcome.next (msgAck_of_slotFree hopen hst hseq hdst hrsvd hzero hout hsun hfind)
  case ack =>
    intro s port c o x v hopen hst hseq hdst hrsvd hzero hout hcount hsun hmgmt hbox hsent hkind hcluster hqid hmsun hctx
    obtain ⟨ps, hrun⟩ := msgAck_of_ack hopen hst hseq hdst hrsvd hzero hout hcount hsun
    rw [ackMany_of_only (t := { s with ports := ps }) (o := o) hbox (by simp [hsent, hqid, hmsun, hcluster, hmgmt]) hkind] at hrun
    obtain ⟨ps', wd, hsettle, -⟩ := settleWithdraw_spec { s with ports := ps, outbox := [] }
    refine ⟨_, congrArg Host.Outcome.next (hrun.trans hsettle), ?_⟩
    exact ⟨rfl, rfl, rfl, rfl, rfl⟩

end Sys2Proof.Machine

namespace Sys2Proof.Machine
open Sys2Proof

/-! ## Power domains (O43) -/

/-- A table changed at each of its keys reads, at a key that it has, as the change of what it read. -/
theorem tget_map_key {α : Type} (d : α) (f : Nat → α → α) (tab : Tab α) (n : Nat) :
    tget d (tab.map fun e => (e.1, f e.1 e.2)) n = f n (tget d tab n) ∨
      (tget d (tab.map fun e => (e.1, f e.1 e.2)) n = d ∧ tget d tab n = d) := by
  induction tab with
  | nil => exact .inr ⟨rfl, rfl⟩
  | cons e tab ih =>
    by_cases h : n = e.1
    · subst h
      exact .inl (by simp [tget])
    · simpa [tget, h] using ih

/-- What losing its cluster leaves of a context: its registers at reset, and nothing else. -/
def lostCtx (s : State) (cl c : Nat) (x : Ctx) : Ctx := if clusterOf c = cl then { regs := resetRegs (ctxPart s c) {} } else x

theorem ctxs_loseCluster (s : State) (cl : Nat) :
    (loseCluster s cl).ctxs = s.ctxs.map fun e => (e.1, lostCtx s cl e.1 e.2) := by
  refine List.map_congr_left fun e _ => ?_
  unfold lostCtx
  split <;> rfl

theorem getCtx_loseCluster (s : State) (cl c : Nat) : getCtx (loseCluster s cl) c = lostCtx s cl c (getCtx s c) ∨
    (getCtx (loseCluster s cl) c = {} ∧ getCtx s c = {}) := by
  unfold getCtx
  rw [ctxs_loseCluster]
  exact tget_map_key {} (lostCtx s cl) s.ctxs c

theorem getCtx_loseCluster_same {s : State} {cl c : Nat} (h : clusterOf c = cl) :
    (getCtx (loseCluster s cl) c).run = .notStarted ∧ (getCtx (loseCluster s cl) c).g = [] := by
  rcases getCtx_loseCluster s cl c with hlost | ⟨hlost, -⟩
  · rw [hlost, lostCtx, if_pos h]
    exact ⟨rfl, rfl⟩
  · rw [hlost]
    exact ⟨rfl, rfl⟩

theorem getCtx_loseCluster_ne {s : State} {cl c : Nat} (h : clusterOf c ≠ cl) : getCtx (loseCluster s cl) c = getCtx s c := by
  rcases getCtx_loseCluster s cl c with hlost | ⟨hlost, hhad⟩
  · rw [hlost, lostCtx, if_neg h]
  · rw [hlost, hhad]

section
variable {s : State} {cl : Nat}

theorem wakeDie_frame (s : State) (d : Nat) : (wakeDie s d).ctxs = s.ctxs ∧ (wakeDie s d).mem = s.mem ∧
    (wakeDie s d).clusters = s.clusters ∧ d ∉ (wakeDie s d).power.diesOff := by
  unfold wakeDie
  split
  · exact ⟨rfl, rfl, rfl, fun h => by simp at h⟩
  next h => exact ⟨rfl, rfl, rfl, by simpa using h⟩

theorem clusterBack_of_off (hoff : (getCluster s cl).power = .off) (htrip : s.power.trip = false) (hheld : s.power.heldReset = false) :
    clusterBack s cl = wakeDie (modCluster s cl fun k => { l2cfgFrom s cl k with power := .active }) (cl / 8) :=
  if_pos ⟨hoff, htrip, hheld⟩

theorem clusterBack_spec (hoff : (getCluster s cl).power = .off) (htrip : s.power.trip = false) (hheld : s.power.heldReset = false) :
    (getCluster (clusterBack s cl) cl).power = .active ∧ (clusterBack s cl).ctxs = s.ctxs ∧ (clusterBack s cl).mem = s.mem ∧
      cl / 8 ∉ (clusterBack s cl).power.diesOff ∧ ∀ k, k ≠ cl → getCluster (clusterBack s cl) k = getCluster s k := by
  rw [clusterBack_of_off hoff htrip hheld]
  obtain ⟨hctxs, hmem, hclusters, hdie⟩ := wakeDie_frame (modCluster s cl fun k => { l2cfgFrom s cl k with power := .active }) (cl / 8)
  have hget : ∀ k, getCluster (wakeDie (modCluster s cl fun k => { l2cfgFrom s cl k with power := .active }) (cl / 8)) k =
      getCluster (modCluster s cl fun k => { l2cfgFrom s cl k with power := .active }) k := fun k => by
    rw [getCluster, hclusters, ← getCluster]
  refine ⟨?_, hctxs, hmem, hdie, fun k hk => ?_⟩
  · rw [hget, getCluster_modCluster_same]
  · rw [hget, getCluster_modCluster_ne _ _ hk]

@[simp] theorem getPort_modPower (s : State) (f : Power → Power) (p : Nat) : getPort (modPower s f) p = getPort s p := rfl

theorem clusterOff_of_undefined (h : s.part.clusters ≤ cl) : clusterOff s cl = setClLast s 2 := if_pos h

theorem clusterOff_of_on (h : cl < s.part.clusters) (hon : (getCluster s cl).power ≠ .off) : clusterOff s cl =
    if mayGoOff s cl then setClLast (setClState s cl .draining) 3 else domainBusy (setClLast s 1) cl :=
  (if_neg (Nat.not_le.mpr h)).trans (if_neg hon)

theorem clusterOn_of_undefined (h : s.part.clusters ≤ cl) : clusterOn s cl = setClLast s 2 := if_pos h

theorem clusterOn_of_defined (h : cl < s.part.clusters) : clusterOn s cl = setClLast (clusterBack s cl) 0 := if_neg (Nat.not_le.mpr h)

theorem drainDone_of_draining (h : (getCluster s cl).power = .draining) : drainDone s cl =
    if mayGoOff s cl then setClLast (loseCluster (drainCluster s cl) cl) 0
    else domainBusy (setClLast (setClState (drainCluster s cl) cl .active) 1) cl := if_neg (not_not_intro h)

theorem domainWake_of_cluster (hcl : cl < 32) (htrip : s.power.trip = false) (hheld : s.power.heldReset = false) :
    domainWake s cl = clusterBack s cl := by
  simp only [domainWake, htrip, hheld, hcl, Bool.or_self, Bool.false_eq_true, if_false, if_true]

theorem retainEntry_of_idle {t : Nat} (hidle : (s.power.idleSince.find? fun e => e.1 == cl) = some (cl, t))
    (hon : (getCluster s cl).power = .active) (hdly : s.power.retdly ≠ 0) (hlong : t + s.power.retdly * 1000 ≤ s.time)
    (hquiet : clusterSleeps s cl = true) : retainEntry s cl = setClState s cl .retain := by
  simp only [retainEntry, hidle]
  exact if_pos ⟨hon, hdly, hlong, hquiet⟩

theorem stackSleep_of_awake {st : Nat} (hdly : s.power.srdly ≠ 0) (hst : st < s.part.stacks) (hawake : st ∉ s.power.stacksAsleep) :
    stackSleep s st = { s with power := { s.power with stacksAsleep := s.power.stacksAsleep ++ [st] } } :=
  if_neg (by simp [hdly, hst, hawake])

theorem domainOff_of_port {p : Nat} (hp : p < s.part.ports) (hp16 : p < 16) : domainOff s (44 + p) =
    (if portQuiet s p then modPower (modPort (setDomLast s 0) p fun l => { freshLink l s.time with st := 0, step := 0 }) fun q =>
        { q with portsOff := (q.portsOff.filter (· != p)) ++ [p] }
      else domainBusy s (44 + p)) := by
  have hsub : 44 + p - 44 = p := by omega
  have h1 : ¬44 + p < 32 := by omega
  have h2 : ¬44 + p < 36 := by omega
  have h3 : ¬44 + p < 44 := by omega
  have h4 : 44 + p < 60 := by omega
  have h5 : ¬(setDomLast s 0).part.ports ≤ p := Nat.not_le.mpr hp
  simp only [domainOff, h1, h2, h3, h4, hsub, h5, if_false, if_true]
  rfl

theorem domainOff_of_pcie : domainOff s 60 =
    if s.hostIf.linkUp then domainBusy s 60 else { s with power := { s.power with domLast := 0, pcieOff := true } } := rfl

end

/-- Settles O43, domain by domain. -/
theorem domainsSwitch : Obligations.DomainsSwitch := by
  refine ⟨?undefined, ?off, ?drained, ?on, ?retain, ?wake, ?stack, ?port, ?pcie, ?pcieBusy⟩
  case undefined =>
    exact fun s cl h => ⟨congrArg Host.Outcome.next (clusterOff_of_undefined h), congrArg Host.Outcome.next (clusterOn_of_undefined h)⟩
  case off =>
    exact fun s cl h hon => ⟨fun hmay => congrArg Host.Outcome.next ((clusterOff_of_on h hon).trans (if_pos hmay)),
      fun hmay => congrArg Host.Outcome.next ((clusterOff_of_on h hon).trans (if_neg (Bool.eq_false_iff.mp hmay)))⟩
  case drained =>
    refine fun s cl c hdrain => ⟨fun hmay => ⟨congrArg Host.Outcome.next ((drainDone_of_draining hdrain).trans (if_pos hmay)), ?_,
      getCtx_loseCluster_same, getCtx_loseCluster_ne, rfl⟩,
      fun hmay => congrArg Host.Outcome.next ((drainDone_of_draining hdrain).trans (if_neg (Bool.eq_false_iff.mp hmay)))⟩
    rw [loseCluster, getCluster_setCluster_same]
  case on =>
    exact fun s cl h hoff htrip hheld => ⟨congrArg Host.Outcome.next (clusterOn_of_defined h),
      fun hcl => congrArg Host.Outcome.next (domainWake_of_cluster hcl htrip hheld), clusterBack_spec hoff htrip hheld⟩
  case retain =>
    exact fun s cl t hidle hon hdly hlong hquiet => congrArg Host.Outcome.next (retainEntry_of_idle hidle hon hdly hlong hquiet)
  case wake => exact fun s cl hretain hwork => congrArg Host.Outcome.next (if_pos ⟨hretain, hwork⟩)
  case stack => exact fun s st hdly hst hawake => congrArg Host.Outcome.next (stackSleep_of_awake hdly hst hawake)
  case port =>
    refine fun s p hp hp16 => ⟨fun hquiet => ⟨_, congrArg Host.Outcome.next ((domainOff_of_port hp hp16).trans (if_pos hquiet)), ?_⟩,
      fun hbusy => congrArg Host.Outcome.next ((domainOff_of_port hp hp16).trans (if_neg (Bool.eq_false_iff.mp hbusy)))⟩
    refine ⟨?_, by simp [modPower], fun q hq => ?_, rfl, rfl, rfl⟩
    · rw [getPort_modPower, getPort_modPort_same]
    · rw [getPort_modPower, getPort_modPort_ne _ _ hq]
      exact getPort_modPower ..
  case pcie => exact fun s hdown => congrArg Host.Outcome.next (domainOff_of_pcie.trans (if_neg (Bool.eq_false_iff.mp hdown)))
  case pcieBusy => exact fun s hup => congrArg Host.Outcome.next (domainOff_of_pcie.trans (if_pos hup))

end Sys2Proof.Machine

namespace Sys2Proof.Machine
open Sys2Proof

/-! ## VCORE, the thermal limits and THERMTRIP (O44) -/

/-- Throttling clusters changes clusters alone, and of the fields outside them only the count of free choices. -/
def OnlyThrottles (s t : State) : Prop := ∃ cs n, t = { s with clusters := cs, freeIx := n }

theorem OnlyThrottles.foldl {f : State → Nat → State} (hf : ∀ s c, OnlyThrottles s (f s c)) (s : State) (cs : List Nat) :
    OnlyThrottles s (cs.foldl f s) := by
  refine List.foldlRecOn (motive := OnlyThrottles s) _ _ ⟨_, _, rfl⟩ fun t ht c _ => ?_
  obtain ⟨cs, n, rfl⟩ := ht
  obtain ⟨cs', n', h⟩ := hf _ c
  exact ⟨cs', n', h⟩

theorem onlyThrottles_throttleAll (s : State) (k : Nat) : OnlyThrottles s (throttleAll s k) := .foldl (fun _ _ => ⟨_, _, rfl⟩) ..

theorem onlyThrottles_throttleSome (s : State) : OnlyThrottles s (throttleSome s) := .foldl (fun _ _ => ⟨_, _, rfl⟩) ..

theorem onlyThrottles_choice (s : State) (alert above : Bool) :
    OnlyThrottles s (if alert then throttleAll s 4 else if above then throttleSome s else throttleAll s 8) := by
  split
  · exact onlyThrottles_throttleAll ..
  · split
    · exact onlyThrottles_throttleSome ..
    · exact onlyThrottles_throttleAll ..

/-- Clusters that a fold has set keep their throttle. -/
theorem getCluster_throttle_foldl {k : Nat} {cs : List Nat} {c : Nat} (s : State) (h : c ∈ cs ∨ (getCluster s c).throttle = k) :
    (getCluster (cs.foldl (fun s c => modCluster s c fun x => { x with throttle := k }) s) c).throttle = k := by
  induction cs generalizing s with
  | nil => exact h.resolve_left (List.not_mem_nil)
  | cons d cs ih =>
    refine ih _ ?_
    by_cases hd : c = d
    · subst hd
      exact .inr (by rw [getCluster_modCluster_same])
    · rw [getCluster_modCluster_ne _ _ hd]
      exact h.imp (fun hmem => (List.mem_cons.mp hmem).resolve_left hd) id

theorem throttleAll_throttle {s : State} {k c : Nat} (hc : c < s.part.clusters) : (getCluster (throttleAll s k) c).throttle = k :=
  getCluster_throttle_foldl s (.inl (List.mem_range.mpr hc))

section
variable {s : State}

theorem vcoreAdjust_of_powered (busy watts cap : Nat) (htrip : s.power.trip = false) (hheld : s.power.heldReset = false) :
    ∃ th n, OnlyThrottles { s with freeIx := n, power := { s.power with
        vcore := if s.power.regulator then
            vcoreWithin s (if 75 < busy then s.power.vcore + 5 else if busy < 25 then s.power.vcore - 5 else s.power.vcore) cap else 800
        watts := watts % 1024, throttle := th } }
      (vcoreAdjust s busy watts cap) := by
  rw [show vcoreAdjust s busy watts cap = _ from if_neg (c := (s.power.trip || s.power.heldReset) = true) (by simp [htrip, hheld])]
  exact ⟨_, _, onlyThrottles_choice ..⟩

/-- Where no flow is admitted in either direction, the heat takes none back. -/
theorem withdrawHot_of_no_flow (hflows : s.flows = []) (hin : s.inFlows = []) : withdrawHot s = s := by
  simp [withdrawHot, flowsTo, hflows, hin]

theorem tryFlows_of_no_flow (hflows : s.flows = []) (which : Flow → Bool) : tryFlows s which = s := by
  simp [tryFlows, hflows]

theorem thermalExcursion_of_due {t0 : Nat} (hsince : s.power.hotSince = some t0) (hcounted : s.power.hotCounted = false)
    (hdue : t0 + 1000000000 ≤ s.time) : thermalExcursion s = report { s with
      power := { s.power with hotCounted := true }, life := { s.life with thermExc := (s.life.thermExc + 1) % 2 ^ 32 } }
        0x9003 .device [BitVec.ofNat 64 s.power.hotPeak] := by
  unfold thermalExcursion
  rw [hsince]
  exact if_pos (c := s.power.hotCounted = false ∧ t0 + 10 ^ 9 ≤ s.time) ⟨hcounted, hdue⟩

theorem thermalReadmit_of_due {t0 : Nat} (hsince : s.power.coolSince = some t0) (hnosun : s.power.nosun = true)
    (hdue : t0 + 1000000000 ≤ s.time) (hflows : s.flows = []) :
    thermalReadmit s = { s with power := { s.power with nosun := false } } := by
  unfold thermalReadmit
  rw [hsince]
  exact (if_pos (c := s.power.nosun = true ∧ t0 + 10 ^ 9 ≤ s.time) ⟨hnosun, hdue⟩).trans
    (tryFlows_of_no_flow (s := { s with power := { s.power with nosun := false } }) hflows _)

end

/-- Settles O44: the voltage's limits, the heat's marks, and what a trip takes away. -/
theorem heatAndVoltage : Obligations.HeatAndVoltage := by
  refine ⟨?adjust, ?alert, ?warm, ?hot, ?excursion, ?readmission, ?tripped, ?trip⟩
  case adjust =>
    intro s busy watts cap htrip hheld
    obtain ⟨th, n, cs, n', h⟩ := vcoreAdjust_of_powered busy watts cap htrip hheld
    exact ⟨_, congrArg Host.Outcome.next h, rfl, rfl, rfl, rfl⟩
  case alert =>
    intro s low c hc
    obtain ⟨cs, n, h⟩ := onlyThrottles_throttleAll (modPower s fun p => { p with vrqAlert := low, throttle := low }) (if low then 4 else 8)
    have hall : (getCluster (vrqAlert s low) c).throttle = if low then 4 else 8 := throttleAll_throttle hc
    rw [vrqAlert, h] at hall
    exact ⟨_, congrArg Host.Outcome.next h, rfl, hall, rfl, rfl, rfl⟩
  case warm =>
    intro s tj htj
    have hnot : ¬105 < tj := by omega
    have hmod : tj % 256 = tj := by omega
    refine ⟨_, rfl, ?_⟩
    simp only [thermalChange, hnot, if_false, decide_false, Bool.or_false, hmod]
    by_cases h100 : 100 ≤ tj
    · rw [if_pos h100]
      exact ⟨rfl, rfl, rfl, rfl, rfl, rfl, fun h => absurd h (by omega)⟩
    · rw [if_neg h100]
      exact ⟨rfl, rfl, rfl, rfl, rfl, rfl, fun _ => rfl⟩
  case hot =>
    intro s tj htj hbyte hflows hin
    have h100 : 100 ≤ tj := by omega
    have h95 : 95 ≤ tj := by omega
    have hmod : tj % 256 = tj := by omega
    have hback : ∀ p, withdrawHot { s with power := p } = { s with power := p } := fun _ => withdrawHot_of_no_flow hflows hin
    refine ⟨_, rfl, ?_⟩
    simp only [thermalChange, modPower, htj, h100, if_true, decide_true, Bool.or_true, hmod, h95]
    rw [hback]
    exact ⟨rfl, rfl, rfl, rfl, rfl⟩
  case excursion => exact fun s t0 hsince hcounted hdue => congrArg Host.Outcome.next (thermalExcursion_of_due hsince hcounted hdue)
  case readmission =>
    exact fun s t0 hsince hnosun hdue hflows => congrArg Host.Outcome.next (thermalReadmit_of_due hsince hnosun hdue hflows)
  case tripped => exact fun s htrip => congrArg Host.Outcome.next (if_pos htrip)
  case trip => exact fun s htrip => congrArg Host.Outcome.next (if_neg (Bool.eq_false_iff.mp htrip))

end Sys2Proof.Machine

namespace Sys2Proof.Machine
open Sys2Proof

/-! ## Timers, the watchdog, the calendar and its alarm (O47) -/

theorem signalMsix_pend (s : State) (fn v : Nat) : ∃ pend mx,
    signalMsix s fn v = { s with hostIf := { s.hostIf with msixPend := pend }, msix := mx } := by
  unfold signalMsix
  split
  · split
    · exact ⟨_, _, rfl⟩
    · exact ⟨_, _, rfl⟩
  · exact ⟨_, _, rfl⟩

theorem withAlert_pend (s0 s : State) : ∃ pend mx,
    withAlert s0 s = { s with hostIf := { s.hostIf with msixPend := pend }, msix := mx } := by
  unfold withAlert
  split
  · exact signalMsix_pend ..
  · exact ⟨_, _, rfl⟩

theorem alertN_of_wdExpired {s : State} (h : s.power.wdExpired = true) : alertN s = true := by
  have hbits : 8 ≤ alertBits s := by simp only [alertBits, h, b2n, if_true]; omega
  simp only [alertN, bne_iff_ne]
  omega

/-- A comparator that may fire is due, and none due is before it in the order of deadlines and numbers (R461). -/
theorem mayFire_first {s : State} {c n d : Nat} (hdue : (n, d) ∈ dueList s) (hfire : mayFire s c = true) :
    ∃ e, (c, e) ∈ dueList s ∧ (e < d ∨ (e = d ∧ c ≤ n)) := by
  unfold mayFire at hfire
  rcases hfind : (dueList s).find? fun e => e.1 == c with _ | ⟨c', e⟩
  · simp [hfind] at hfire
  · have hc : c' = c := by simpa using List.find?_some hfind
    subst hc
    rw [hfind] at hfire
    have hbefore := List.all_eq_true.mp hfire (n, d) hdue
    exact ⟨e, List.mem_of_find?_eq_some hfind, by simpa using hbefore⟩

section
variable {s : State} {p c : Nat} {w : Word}

section
variable (hfix : w.tag = tagFIX) (hc : c = (getPart s p).tmctx)
include hfix hc

theorem tmdlWrite_of_foreign (h : owned s c = false ∨ partOf s c ≠ p) : tmdlWrite s p w = setTmLast s p 2 := by
  subst hc
  exact (if_neg (not_not_intro hfix)).trans (if_pos h)

variable (hown : owned s c = true) (hpart : partOf s c = p)
include hown hpart

theorem tmdlWrite_of_zero (hzero : w.pay = 0) :
    tmdlWrite s p w = setTmLast (modCtx s c fun x => { x with timer := none, timerCmp := 0 }) p 0 := by
  subst hc
  exact (if_neg (not_not_intro hfix)).trans ((if_neg (by simp [hown, hpart])).trans (if_pos hzero))

theorem tmdlWrite_of_free {n : Nat} (hlater : s.time < w.pay.toNat) (hnone : (getCtx s c).timer = none)
    (hfree : ((List.range 1022).map (2 + ·)).find? (fun n => !(timersArmed s).contains n) = some n) :
    tmdlWrite s p w = modCtx (setTmLast s p 0) c fun x => { x with timer := some w.pay.toNat, timerCmp := n } := by
  subst hc
  have hne : w.pay ≠ 0 := fun h => by simp [h] at hlater
  refine (if_neg (not_not_intro hfix)).trans ((if_neg (by simp [hown, hpart])).trans ((if_neg hne).trans ?_))
  dsimp only
  rw [hnone, hfree]
  exact if_neg (Nat.not_le.mpr hlater)

theorem tmdlWrite_of_full (hne : w.pay ≠ 0) (hnone : (getCtx s c).timer = none)
    (hfull : ((List.range 1022).map (2 + ·)).find? (fun n => !(timersArmed s).contains n) = none) :
    tmdlWrite s p w = setTmLast s p 1 := by
  subst hc
  refine (if_neg (not_not_intro hfix)).trans ((if_neg (by simp [hown, hpart])).trans ((if_neg hne).trans ?_))
  dsimp only
  rw [hnone, hfull]
  rfl

end

theorem timerExpiry_of_armed {d : Nat} (h : (getCtx s c).timer = some d) : timerExpiry s c =
    if mayFire s (getCtx s c).timerCmp then modCtx (setTimerPend s c) c fun x => { x with timer := none, timerCmp := 0 } else s := by
  simp only [timerExpiry, h]

theorem wdctlWrite_of_rest (hfix : w.tag = tagFIX) (hkick : bit w.pay 1 = false) (hoff : s.power.wdEn = false) :
    wdctlWrite s w = { s with power := { s.power with
      wdPeriod := bits w.pay 63 32, wdExpired := s.power.wdExpired && !bit w.pay 3, wdAction := bit w.pay 2, wdEn := bit w.pay 0
      wdStart := if bit w.pay 0 then some s.time else none } } := by
  rw [wdctlWrite, if_neg (not_not_intro hfix), hkick, hoff]
  cases bit w.pay 0 <;> rfl

theorem watchdogFire_of_due (h : mayFire s 0 = true) : watchdogFire s =
    if s.power.wdAction then warmReset (withAlert s { s with power := { s.power with wdExpired := true, wdStart := none } })
    else withAlert s { s with power := { s.power with wdExpired := true, wdStart := none } } := if_pos h

theorem calsecWrite_of_fix (hfix : w.tag = tagFIX) : calsecWrite s w =
    armAlarm (report { s with cal := { s.cal with sec := w.pay.toNat, sub := 0, valid := true } } 0xD004 .none
      [BitVec.ofNat 64 s.cal.sec, w.pay]) := if_neg (not_not_intro hfix)

theorem caltrimWrite_of_fix (hfix : w.tag = tagFIX) : caltrimWrite s w =
    armAlarm { s with cal := { s.cal with trim := field (bits w.pay 15 0) 0 } } := if_neg (not_not_intro hfix)

theorem alarmFire_of_due (h : mayFire s 1 = true) : alarmFire s = signalMsix (withAlert s { s with
    cal := { s.cal with almFired := true, almDue := none }, hostIf := { s.hostIf with alarm := true } }) 0 0 := if_pos h

theorem report_of_room (hroom : s.reports.length < 1024) (code : Nat) (subj : Subject) (pay : List W64) (wit : Option Subject) :
    report s code subj pay wit = { s with reports := s.reports ++ [{ code, subj, pay, wit, time := s.time }] } := if_pos hroom

end

/-- Settles O47: the timers and the watchdog, then the calendar and its alarm. -/
theorem timersAndCalendar : Obligations.TimersAndCalendar := by
  refine ⟨⟨fun s p w h => congrArg Host.Outcome.next (if_pos h), ?timer, ?expiry, fun s c n d hdue hfire => mayFire_first hdue hfire,
    fun s => rfl, ?enable, ?watchdog⟩, ?notFix, ?calsec, ?caltrim, ?crystal, ?alarm⟩
  case timer =>
    intro s p c w hfix hc
    refine ⟨fun h => congrArg Host.Outcome.next (tmdlWrite_of_foreign hfix hc h), fun hown hpart => ⟨fun hzero => ?_,
      fun n hlater hnone hfree => ?_, fun hne hnone hfull => ?_⟩⟩
    · exact congrArg Host.Outcome.next (tmdlWrite_of_zero hfix hc hown hpart hzero)
    · exact congrArg Host.Outcome.next (tmdlWrite_of_free hfix hc hown hpart hlater hnone hfree)
    · exact congrArg Host.Outcome.next (tmdlWrite_of_full hfix hc hown hpart hne hnone hfull)
  case expiry =>
    intro s c d harmed
    have hrun := timerExpiry_of_armed harmed
    refine ⟨fun hfire => ⟨_, congrArg Host.Outcome.next (hrun.trans (if_pos hfire)), ?_⟩,
      fun hwait => congrArg Host.Outcome.next (hrun.trans (if_neg (Bool.eq_false_iff.mp hwait)))⟩
    simp only [setTimerPend, getCtx_modCtx_same]
    exact ⟨trivial, trivial, fun e he => (getCtx_modCtx_ne _ _ he).trans (getCtx_modCtx_ne _ _ he), rfl, rfl⟩
  case enable =>
    exact fun s w => ⟨fun h => congrArg Host.Outcome.next (if_pos h),
      fun hfix hkick hoff => congrArg Host.Outcome.next (wdctlWrite_of_rest hfix hkick hoff)⟩
  case watchdog =>
    refine fun s => ⟨fun hwait => congrArg Host.Outcome.next (if_neg (Bool.eq_false_iff.mp hwait)), fun hfire haction => ?_,
      fun hfire haction => congrArg Host.Outcome.next ((watchdogFire_of_due hfire).trans (if_pos haction))⟩
    obtain ⟨pend, mx, h⟩ := withAlert_pend s { s with power := { s.power with wdExpired := true, wdStart := none } }
    refine ⟨_, congrArg Host.Outcome.next (((watchdogFire_of_due hfire).trans (if_neg (Bool.eq_false_iff.mp haction))).trans h), ?_⟩
    exact ⟨rfl, rfl, alertN_of_wdExpired rfl, rfl, rfl⟩
  case notFix => exact fun s w h => ⟨congrArg Host.Outcome.next (if_pos h), congrArg Host.Outcome.next (if_pos h)⟩
  case calsec =>
    intro s w hfix hroom
    let set : State := { s with cal := { s.cal with sec := w.pay.toNat, sub := 0, valid := true } }
    have hreport := report_of_room (s := set) hroom 0xD004 .none [BitVec.ofNat 64 s.cal.sec, w.pay] none
    obtain ⟨due, h⟩ := armAlarm_spec (report set 0xD004 .none [BitVec.ofNat 64 s.cal.sec, w.pay])
    rw [hreport] at h
    refine ⟨_, congrArg Host.Outcome.next ((calsecWrite_of_fix hfix).trans ((congrArg armAlarm hreport).trans h)), ?_⟩
    exact ⟨rfl, rfl, rfl, rfl, rfl, rfl, rfl, rfl⟩
  case caltrim =>
    intro s w hfix
    obtain ⟨due, h⟩ := armAlarm_spec { s with cal := { s.cal with trim := field (bits w.pay 15 0) 0 } }
    refine ⟨_, congrArg Host.Outcome.next ((caltrimWrite_of_fix hfix).trans h), ?_⟩
    exact ⟨rfl, rfl, rfl, rfl, rfl, rfl⟩
  case crystal =>
    exact fun s => ⟨fun hfail => congrArg Host.Outcome.next (if_pos hfail),
      fun hruns => congrArg Host.Outcome.next (if_neg (Bool.eq_false_iff.mp hruns)), rfl, fun n hfail => if_pos hfail⟩
  case alarm =>
    refine fun s => ⟨fun hwait => congrArg Host.Outcome.next (if_neg (Bool.eq_false_iff.mp hwait)), fun hfire => ?_⟩
    obtain ⟨pend, mx, h⟩ := withAlert_pend s { s with
      cal := { s.cal with almFired := true, almDue := none }, hostIf := { s.hostIf with alarm := true } }
    obtain ⟨pend', mx', h'⟩ := signalMsix_pend (withAlert s { s with
      cal := { s.cal with almFired := true, almDue := none }, hostIf := { s.hostIf with alarm := true } }) 0 0
    rw [h] at h'
    refine ⟨_, congrArg Host.Outcome.next ((alarmFire_of_due hfire).trans ((congrArg (signalMsix · 0 0) h).trans h')), ?_⟩
    exact ⟨rfl, rfl, rfl, rfl⟩

end Sys2Proof.Machine

namespace Sys2Proof.Machine
open Sys2Proof

/-! ## The recorder (O48) -/

section
variable {s : State} {ix : Nat}

theorem afterglowReport_of_waiting {r : Report} {rest : List Report} (h : s.reports = r :: rest) :
    afterglowReport s none = tellLost (recordReport { s with reports := rest } r) := by
  simp only [afterglowReport, h]

/-- A report of the environment goes on to wait, where it is of a code the recorder has and no correction beyond the line's code. -/
theorem afterglowReport_of_taken {r : Report} {sev : Nat} (hsev : codeSev r.code = some sev) (hring : r.code ≠ 0xC003)
    (hcorrect : r.code = 0x3001 → correctable s (((r.pay[0]?).getD 0).toNat % 2 ^ 36 / 8) ((r.pay[1]?).getD 0).toNat = true) :
    afterglowReport s (some r) = enterReport (unitError s r) { r with time := s.time } := by
  have hnone : ¬(codeSev r.code).isNone = true := by simp [hsev]
  refine (if_neg hring).trans ((if_neg hnone).trans (if_neg fun h => ?_))
  exact Bool.false_ne_true (h.2.symm.trans (hcorrect h.1))

theorem afterglowReport_of_uncorrectable {r : Report} (hcode : r.code = 0x3001)
    (hbad : correctable s (((r.pay[0]?).getD 0).toNat % 2 ^ 36 / 8) ((r.pay[1]?).getD 0).toNat = false) :
    afterglowReport s (some r) = s := by
  have hring : r.code ≠ 0xC003 := by rw [hcode]; decide
  have hnone : ¬(codeSev r.code).isNone = true := by rw [hcode]; decide
  exact (if_neg hring).trans ((if_neg hnone).trans (if_pos ⟨hcode, hbad⟩))

theorem enterReport_of_room (r : Report) (h : s.reports.length < 1024) : enterReport s r = { s with reports := s.reports ++ [r] } :=
  if_pos h

theorem enterReport_of_full (r : Report) (h : 1024 ≤ s.reports.length) : enterReport s r =
    { s with glow := { s.glow with repLost := min 0xFFFF (s.glow.repLost + 1), lostNow := s.glow.lostNow + 1 } } :=
  if_neg (Nat.not_lt.mpr h)

theorem aggEntryClose_of_some {a : AggEnt} (h : (s.glow.agg.find? fun e => e.1 == ix) = some (ix, a)) :
    aggEntryClose s ix = if a.open' + 10000000 ≤ s.time then closeAgg s ix true else s := by
  simp only [aggEntryClose, h]
  rfl

theorem closeAgg_of_some {a : AggEnt} (h : (s.glow.agg.find? fun e => e.1 == ix) = some (ix, a)) :
    let s1 : State := { s with glow := { s.glow with agg := tdel s.glow.agg ix } }
    closeAgg s ix true = if a.count ≤ 1 then s1 else limited s1 (aggRec a) a.open' a.subj := by
  simp only [closeAgg, h]
  rfl

theorem suppTimeout_of_some {code : Nat} {x : Supp} (h : (s.glow.supps.find? fun e => e.1 == code) = some (code, x)) :
    suppTimeout s code = if x.due ≤ s.time then writeSupp s code else s := by
  simp only [suppTimeout, h]

theorem writeSupp_of_some {code : Nat} {x : Supp} (h : (s.glow.supps.find? fun e => e.1 == code) = some (code, x)) :
    writeSupp s code = writeRec { s with glow := { s.glow with supps := tdel s.glow.supps code } }
      (mkRec code x.sev s.time x.subj [Word.fixN x.count, Word.fixN x.firstT, Word.fixN x.lastT] false true) := by
  simp only [writeSupp, h]
  rfl

theorem penExpiry_of_some {e : PenEnt} (h : (s.glow.pen.find? fun e => e.1 == ix) = some (ix, e)) :
    penExpiry s ix = if e.start + (threshOf s e.cls).2 ≤ s.time then setPen s fun p => tdel p ix else s := by
  simp only [penExpiry, h]

end

/-- Settles O48: reports taken and entered, and the ends of entries, records held back and windows. -/
theorem recorderTakesReports : Obligations.RecorderTakesReports := by
  refine ⟨fun s r rest h => congrArg Host.Outcome.next (afterglowReport_of_waiting h), ?taken,
    fun s r hcode hbad => congrArg Host.Outcome.next (afterglowReport_of_uncorrectable hcode hbad), ?entry, ?supp, ?window, fun _ => rfl,
    ?flush⟩
  case taken =>
    refine fun s r sev hsev hring hcorrect => ⟨congrArg Host.Outcome.next (afterglowReport_of_taken hsev hring hcorrect),
      fun t => ⟨fun hroom => ?_, fun hfull => ?_⟩⟩
    · rw [enterReport_of_room r hroom]
      exact ⟨rfl, rfl⟩
    · rw [enterReport_of_full r hfull]
      exact ⟨rfl, rfl⟩
  case entry =>
    intro s ix a hfind
    have hrun := aggEntryClose_of_some hfind
    have hclose := closeAgg_of_some hfind
    refine ⟨fun hyoung => ?_, fun hold hone => ?_, fun hold hmany => ?_⟩
    · exact congrArg Host.Outcome.next (hrun.trans (if_neg (Nat.not_le.mpr hyoung)))
    · exact congrArg Host.Outcome.next (hrun.trans ((if_pos hold).trans (hclose.trans (if_pos hone))))
    · exact congrArg Host.Outcome.next (hrun.trans ((if_pos hold).trans (hclose.trans (if_neg (Nat.not_le.mpr hmany)))))
  case supp =>
    intro s code x hfind
    have hrun := suppTimeout_of_some hfind
    exact ⟨fun hearly => congrArg Host.Outcome.next (hrun.trans (if_neg (Nat.not_le.mpr hearly))),
      fun hdue => congrArg Host.Outcome.next (hrun.trans ((if_pos hdue).trans (writeSupp_of_some hfind)))⟩
  case window =>
    intro s ix e hfind
    have hrun := penExpiry_of_some hfind
    refine ⟨fun hearly => congrArg Host.Outcome.next (hrun.trans (if_neg (Nat.not_le.mpr hearly))),
      fun hdue => ⟨_, congrArg Host.Outcome.next (hrun.trans (if_pos hdue)), ?_⟩⟩
    exact ⟨rfl, rfl, rfl, rfl, rfl⟩
  case flush =>
    refine fun s => ⟨rfl, fun hempty => congrArg Host.Outcome.next ?_⟩
    rw [closeAll, hempty]
    rfl

end Sys2Proof.Machine

namespace Sys2Proof.Machine
open Sys2Proof

/-! ## The Sealing block's window, ATTEST and EXTEND (O52) -/

/-- What zeroing and filling memory leaves unchanged. -/
def OnlyStores (s t : State) : Prop := t.parts = s.parts ∧ t.ctxs = s.ctxs ∧ t.queues = s.queues

theorem OnlyStores.trans {s t u : State} (h : OnlyStores s t) (h' : OnlyStores t u) : OnlyStores s u :=
  ⟨h'.1.trans h.1, h'.2.1.trans h.2.1, h'.2.2.trans h.2.2⟩

theorem onlyStores_writeWords (s : State) (a : Nat) (ws : List Word) : OnlyStores s (writeWords s a ws) := by
  obtain ⟨m, r, h⟩ := writeWords_spec s a ws
  rw [h]
  exact ⟨rfl, rfl, rfl⟩

theorem onlyStores_fillLines (s : State) (lo n : Nat) : OnlyStores s (fillLines s lo n) := by
  refine List.foldlRecOn (motive := OnlyStores s) _ _ ⟨rfl, rfl, rfl⟩ fun t ht i _ => ht.trans ?_
  exact .trans ⟨rfl, rfl, rfl⟩ (onlyStores_writeWords ..)

theorem zeroFill_spec (s : State) (lo n : Nat) : (zeroFill s lo n).ctxs = s.ctxs ∧
    (zeroFill s lo n).mem = s.mem.filter fun e => !(decide (lo ≤ e.1) && decide (e.1 < lo + n)) := by
  have hdiscard : ∀ ls : List Nat, (ls.foldl discardLine s).ctxs = s.ctxs ∧ (ls.foldl discardLine s).mem = s.mem := fun ls =>
    List.foldlRecOn (motive := fun t : State => t.ctxs = s.ctxs ∧ t.mem = s.mem) _ _ ⟨rfl, rfl⟩ fun _ ht _ _ => ht
  obtain ⟨hctxs, hmem⟩ := hdiscard ((cachedLines s).filter fun line => decide (lo ≤ line * 8 + 7) && decide (line * 8 < lo + n))
  exact ⟨hctxs, congrArg (List.filter _) hmem⟩

/-- Every word of a range zeroed reads as FIX 0, and every other word as before. -/
theorem readWord_zeroFill (s : State) (lo n a : Nat) :
    readWord (zeroFill s lo n) a = if lo ≤ a ∧ a < lo + n then Word.zero else readWord s a := by
  rw [readWord, (zeroFill_spec s lo n).2, memGet, tget_filter_key Word.zero fun b => !(decide (lo ≤ b) && decide (b < lo + n))]
  by_cases h : lo ≤ a ∧ a < lo + n
  · simp [h]
  · simp only [h, if_false, Bool.not_eq_true', Bool.and_eq_false_iff, decide_eq_false_iff_not, ← not_and_or, not_false_eq_true, if_true]
    rfl

section
variable {s : State} {p : Nat} {w : Word}

theorem slwinlWrite_of_not_fix (h : w.tag ≠ tagFIX) : slwinlWrite s p w = setSlLast s p 4 := if_pos h

theorem slwinlWrite_of_unsealed (hfix : w.tag = tagFIX) (h : (getPart s p).sealed = false) : slwinlWrite s p w = setSlLast s p 6 :=
  (if_neg (not_not_intro hfix)).trans (if_pos h)

section
variable (hfix : w.tag = tagFIX) (hsealed : (getPart s p).sealed = true) (hidle : (getPart s p).winFill = none)
include hfix hsealed hidle

theorem slwinlWrite_of_idle : slwinlWrite s p w =
    (let n := bits w.pay 35 10 * 1024
    if n ≠ 0 ∧ inOneGrant (getPart s p) (getPart s p).slwinb n = false then setSlLast s p 2
    else modPart (fillLines (fillLines s (getPart s p).winBase (getPart s p).slwinl) (getPart s p).slwinb n) p fun q =>
      { q with winFill := some (q.winBase, q.slwinl, q.slwinb, n), winBase := q.slwinb, slwinl := n }) := by
  refine (if_neg (not_not_intro hfix)).trans ((if_neg (by simp [hsealed])).trans ((if_neg (by simp [hidle])).trans ?_))
  rfl

theorem slwinlWrite_of_outside (hlen : bits w.pay 35 10 ≠ 0)
    (hout : inOneGrant (getPart s p) (getPart s p).slwinb (bits w.pay 35 10 * 1024) = false) : slwinlWrite s p w = setSlLast s p 2 := by
  rw [slwinlWrite_of_idle hfix hsealed hidle]
  exact if_pos ⟨by omega, hout⟩

theorem slwinlWrite_of_inside
    (hin : bits w.pay 35 10 = 0 ∨ inOneGrant (getPart s p) (getPart s p).slwinb (bits w.pay 35 10 * 1024) = true) :
    slwinlWrite s p w = modPart (fillLines (fillLines s (getPart s p).winBase (getPart s p).slwinl) (getPart s p).slwinb
      (bits w.pay 35 10 * 1024)) p fun q => { q with
        winFill := some (q.winBase, q.slwinl, q.slwinb, bits w.pay 35 10 * 1024), winBase := q.slwinb, slwinl := bits w.pay 35 10 * 1024 } := by
  rw [slwinlWrite_of_idle hfix hsealed hidle]
  refine if_neg fun h => ?_
  rcases hin with hzero | hin
  · exact h.1 (by rw [hzero, Nat.zero_mul])
  · exact Bool.false_ne_true (h.2.symm.trans hin)

end

theorem windowFillDone_of_busy {b0 n0 b1 n1 : Nat} (h : (getPart s p).winFill = some (b0, n0, b1, n1)) : windowFillDone s p =
    modPart (zeroFill (zeroFill s b0 n0) b1 n1) p fun q => { q with winFill := none, slLast := 0 } := by
  simp only [windowFillDone, h]

section
variable {cmd words total : Nat}

theorem takeSlcmd_of_busy (h : (getPart s p).slCmd.isSome = true) : takeSlcmd s p cmd words total = setSlLast s p 5 := if_pos h

theorem takeSlcmd_of_idle (h : (getPart s p).slCmd = none) : takeSlcmd s p cmd words total =
    if bufferOk (getPart s p) (getPart s p).slbuf total = false then setSlLast s p 1
    else if attestOk s = false ∧ cmd = 1 then setSlLast s p 3
    else modPart s p fun q => { q with slCmd := some (cmd, q.slbuf, readBytes s q.slbuf words) } := if_neg (by simp [h])

theorem takeSlcmd_of_taken (h : (getPart s p).slCmd = none) (hbuf : bufferOk (getPart s p) (getPart s p).slbuf total = true)
    (hattest : attestOk s = true ∨ cmd ≠ 1) : takeSlcmd s p cmd words total =
      modPart s p fun q => { q with slCmd := some (cmd, q.slbuf, readBytes s q.slbuf words) } := by
  rw [takeSlcmd_of_idle h, if_neg (by simp [hbuf]), if_neg]
  rintro ⟨hno, hcmd⟩
  rcases hattest with hyes | hne
  · exact Bool.false_ne_true (hno.symm.trans hyes)
  · exact hne hcmd

end

theorem sealingDone_of_extend {a : Nat} {bs : List (BitVec 8)} (h : (getPart s p).slCmd = some (2, a, bs)) : sealingDone s p =
    modPart (modPart s p fun q => { q with mrun := sha512 (padBytes 64 q.mrun ++ bs) }) p fun q => { q with slCmd := none, slLast := 0 } := by
  simp only [sealingDone, h]

theorem sealingDone_of_attest {a : Nat} {bs : List (BitVec 8)} (h : (getPart s p).slCmd = some (1, a, bs)) : sealingDone s p =
    modPart (putWords s (a + 16) (packWords (reportBytes s (some p) (bs.take 64) (bs.drop 64)))) p fun q =>
      { q with slCmd := none, slLast := 0 } := by
  simp only [sealingDone, h]

end

/-- Settles O52: the window set and filled, and each command taken and ended. -/
theorem sealingBlockActs : Obligations.SealingBlockActs := by
  refine ⟨?window, ?fill, ?attest, ?extend, ?refused, ?extended, ?attested⟩
  case window =>
    refine fun s p w => ⟨fun h => congrArg Host.Outcome.next (slwinlWrite_of_not_fix h),
      fun hfix h => congrArg Host.Outcome.next (slwinlWrite_of_unsealed hfix h), fun hfix hsealed hidle =>
      ⟨fun hlen hout => congrArg Host.Outcome.next (slwinlWrite_of_outside hfix hsealed hidle hlen hout), fun hin =>
        ⟨_, congrArg Host.Outcome.next (slwinlWrite_of_inside hfix hsealed hidle hin), ?_⟩⟩⟩
    obtain ⟨hparts, hctxs, hqueues⟩ := (onlyStores_fillLines s (getPart s p).winBase (getPart s p).slwinl).trans
      (onlyStores_fillLines _ (getPart s p).slwinb (bits w.pay 35 10 * 1024))
    rw [getPart_modPart_same, getPart, hparts]
    exact ⟨rfl, rfl, rfl, hctxs, hqueues⟩
  case fill =>
    intro s p b0 n0 b1 n1 hbusy
    refine ⟨_, congrArg Host.Outcome.next (windowFillDone_of_busy hbusy), ?_⟩
    rw [getPart_modPart_same]
    refine ⟨rfl, rfl, (zeroFill_spec ..).1.trans (zeroFill_spec ..).1, fun a => ?_⟩
    have hread : readWord (zeroFill (zeroFill s b0 n0) b1 n1) a =
        if (b0 ≤ a ∧ a < b0 + n0) ∨ (b1 ≤ a ∧ a < b1 + n1) then Word.zero else readWord s a := by
      rw [readWord_zeroFill, readWord_zeroFill]
      by_cases hsecond : b1 ≤ a ∧ a < b1 + n1
      · rw [if_pos hsecond, if_pos (.inr hsecond)]
      · rw [if_neg hsecond]
        simp only [hsecond, or_false]
    exact hread
  case attest => exact fun s p hidle hattest hbuf => congrArg Host.Outcome.next (takeSlcmd_of_taken hidle hbuf (.inl hattest))
  case extend => exact fun s p hidle hbuf => congrArg Host.Outcome.next (takeSlcmd_of_taken hidle hbuf (.inr (by decide)))
  case refused =>
    refine fun s p => ⟨fun hbusy => ⟨congrArg Host.Outcome.next (takeSlcmd_of_busy hbusy),
      congrArg Host.Outcome.next (takeSlcmd_of_busy hbusy)⟩, fun hidle hbuf => ?_, fun hidle hbuf hattest => ?_⟩
    · exact congrArg Host.Outcome.next ((takeSlcmd_of_idle hidle).trans (if_pos hbuf))
    · exact congrArg Host.Outcome.next ((takeSlcmd_of_idle hidle).trans ((if_neg (by simp [hbuf])).trans (if_pos ⟨hattest, rfl⟩)))
  case extended =>
    intro s p a bs hcmd
    refine ⟨_, congrArg Host.Outcome.next (sealingDone_of_extend hcmd), ?_⟩
    rw [getPart_modPart_same, getPart_modPart_same]
    exact ⟨rfl, rfl, rfl, rfl, rfl, fun r hr => (getPart_modPart_ne _ _ hr).trans (getPart_modPart_ne _ _ hr)⟩
  case attested => exact fun s p a bs hcmd => congrArg Host.Outcome.next (sealingDone_of_attest hcmd)

end Sys2Proof.Machine

namespace Sys2Proof.Machine
open Sys2Proof

/-! ## Host heads, host sends and device-control writes (O53) -/

section
variable {s : State} {fn q p a : Nat} {w : Word}

/-- A HEAD write that reaches an open queue bound to the host takes as many messages as it passes, and no more than it holds. -/
theorem hqhead_of_reached (hown : (getQ s q).owned = true) (hbind : (getQ s q).bind = 3) (hfn : fn = 0 ∨ fn = (getQ s q).owner + 1)
    (hopen : ringOpen s q = true) (hfix : w.tag = tagFIX) :
    let n := (w.pay.toNat % 2 ^ 32 + 2 ^ 32 - (getQ s q).head) % 2 ^ 32
    hqhead s fn q w = if (getQ s q).occ < n then refusedReq s fn (16 * q) else (List.range n).foldl (fun s _ => dequeue s q) s := by
  have hbound : ((getQ s q).owned && (getQ s q).bind == 3) = true := by rw [hown, hbind]; rfl
  have hreach : ¬(fn ≠ 0 ∧ (True = False ∨ fn ≠ (getQ s q).owner + 1)) := by
    rcases hfn with h | h <;> simp [h]
  unfold hqhead
  simp only [hbound, hopen, hfix, ne_eq, not_true_eq_false, false_or, Bool.true_eq_false, if_false]
  rw [if_neg]
  rcases hfn with h | h <;> simp [h]

theorem hqhead_of_unbound (h : (getQ s q).owned = false ∨ (getQ s q).bind ≠ 3) :
    hqhead s fn q w = if fn = 0 then refusedReq s 0 (16 * q) else answerUr s fn (16 * q) false := by
  have hbound : ((getQ s q).owned && (getQ s q).bind == 3) = false := by
    rcases h with h | h <;> simp [h]
  unfold hqhead
  simp only [hbound, true_or, and_true, ne_eq, if_true]
  by_cases hfn : fn = 0
  · subst hfn
    rfl
  · simp only [hfn, not_false_eq_true, if_true, if_false]

section
variable (hp : p < 32) (hdef : (getPart s p).defined = true) (hsealed : (getPart s p).sealed = false)
include hp hdef hsealed

theorem hscmd_of_bad_count (hn : bits w.pay 23 20 = 0 ∨ 8 < bits w.pay 23 20) : hscmd s p w =
    { s with hostIf := { s.hostIf with sendStat := tput s.hostIf.sendStat p vTOO_LONG } } := by
  refine (if_neg (by simp [hdef, hp])).trans ((if_neg (by simp [hsealed])).trans (if_pos hn))

theorem hscmd_of_count (h1 : 1 ≤ bits w.pay 23 20) (h8 : bits w.pay 23 20 ≤ 8) : hscmd s p w =
    if hostVerdict s p (bits w.pay 19 0) ≠ 0 then { s with
      hostIf := { s.hostIf with sendStat := tput s.hostIf.sendStat p (hostVerdict s p (bits w.pay 19 0)) } }
    else { s with
      hostIf := { s.hostIf with sendStat := tput s.hostIf.sendStat p 0 }
      outbox := s.outbox ++ [{ msg := { src := .host, kind := .host, part := p, srcDev := s.dev, qid := bits w.pay 19 0
                                        words := (List.range (bits w.pay 23 20)).map fun i =>
                                          tget Word.zero s.hostIf.sendWords (p * 8 + i) } }] } := by
  refine (if_neg (by simp [hdef, hp])).trans ((if_neg (by simp [hsealed])).trans ((if_neg (by omega)).trans ?_))
  rfl

end

theorem dcsRegisterWrite_of_unreached {who : DcsWho} (h : dcsReach s who a = false) : exec (.dcsRegisterWrite who a w) s = .next s := by
  have hwrite : dcsWrite s who a w = s := if_pos h
  refine congrArg Host.Outcome.next ?_
  cases who with
  | part p => exact (congrArg (fun t => if (getPart s p).devacc then t else s) hwrite).trans (ite_self s)
  | pf => exact hwrite
  | smb => exact hwrite

theorem dcsWrite_of_pf (h : dcsReach s .pf a = true) : dcsWrite s .pf a w = dcsPoke s 0 a w := if_neg (by simp [h])

theorem dcsReach_hmbuf (s : State) : dcsReach s .pf 0xC00000001 = true := by
  cases h : inRecovery s
  · simp only [dcsReach, h]
    decide
  · simp only [dcsReach, h]
    decide

theorem dcsReach_power (h : inRecovery s = false) : dcsReach s .pf 0xC00050000 = true := by
  simp only [dcsReach, h]
  decide

theorem dcsPoke_power : dcsPoke s 0 0xC00050000 w = powerWrite s 0 w := rfl

/-- A limit of less than 100 W is not taken; the waits are. -/
theorem powerWrite_of_low (hfix : w.tag = tagFIX) (hlow : bits w.pay 41 32 < 100) : powerWrite s 0 w =
    { s with power := { s.power with retdly := bits w.pay 31 16, srdly := bits w.pay 15 0 } } := by
  have hnot : (decide (100 ≤ bits w.pay 41 32) && decide (bits w.pay 41 32 ≤ packageLimit s.part)) = false := by
    simp [Nat.not_le.mpr hlow]
  rw [powerWrite, if_neg (not_not_intro hfix)]
  dsimp only [pwrctlWrite]
  rw [hnot]
  rfl

end

/-- Settles O53: heads moved, sends judged and made, and the words that an agent reaches. -/
theorem hostQueuesAndSends : Obligations.HostQueuesAndSends := by
  refine ⟨?head, fun s fn q w h => congrArg Host.Outcome.next (hqhead_of_unbound h), ?send,
    fun s p a w h => congrArg Host.Outcome.next (if_neg (by simp [h])), fun s who a w h => dcsRegisterWrite_of_unreached h, ?hmbuf, ?power⟩
  case head =>
    intro s fn q w hown hbind hfn hopen hfix
    have hrun := hqhead_of_reached hown hbind hfn hopen hfix
    exact ⟨fun hn => congrArg Host.Outcome.next (hrun.trans (if_neg (Nat.not_lt.mpr hn))),
      fun hn => congrArg Host.Outcome.next (hrun.trans (if_pos hn))⟩
  case send =>
    refine fun s p w hp hdef hsealed => ⟨fun hn => congrArg Host.Outcome.next (hscmd_of_bad_count hp hdef hsealed hn),
      fun h1 h8 => ⟨fun hv => ?_, fun hv => ?_⟩⟩
    · exact congrArg Host.Outcome.next ((hscmd_of_count hp hdef hsealed h1 h8).trans (if_neg (not_not_intro hv)))
    · exact congrArg Host.Outcome.next ((hscmd_of_count hp hdef hsealed h1 h8).trans (if_pos hv))
  case hmbuf =>
    exact fun s w => congrArg Host.Outcome.next (dcsWrite_of_pf (dcsReach_hmbuf s))
  case power =>
    intro s w hfix hrec hlow
    exact congrArg Host.Outcome.next ((dcsWrite_of_pf (dcsReach_power hrec)).trans (dcsPoke_power.trans (powerWrite_of_low hfix hlow)))

end Sys2Proof.Machine

namespace Sys2Proof.Machine
open Sys2Proof

/-! ## PCI Express requests and link events (O55) -/

section
variable {s : State} {fn n off len : Nat}

theorem pinsDead_of_memEnabled (h : memEnabled s fn = true) : pinsDead s = false := by
  simp only [memEnabled, Bool.and_eq_true, Bool.not_eq_true'] at h
  exact h.2

/-- Sixteen bytes at a word's place are of that word alone. -/
theorem unitsOf_word (n : Nat) : unitsOf (n * 16) 16 = [n] := by
  have hcount : (n * 16 + 16 - 1) / 16 + 1 - n * 16 / 16 = 1 := by omega
  have hfirst : n * 16 / 16 + 0 = n := by omega
  rw [unitsOf, hcount]
  exact congrArg (fun k => [k]) hfirst

theorem badPlace_of_mem {bar : Nat} (h : hostPlace s fn bar n = .mem n) : badPlace s fn bar [n] = none := by
  simp [badPlace, h]

theorem hostBytes_length (w : Word) : (hostBytes w).length = 16 := by
  simp [hostBytes, bytesLE, bytesBE, zeros]

theorem complete_of_unmirrored (c : Cpl) : complete s false c = modHost s fun h => { h with cpls := h.cpls ++ [c] } := if_neg (by simp)

theorem pcieRead_of_mem (hmem : memEnabled s 0 = true) (hplace : hostPlace s 0 2 n = .mem n) (hmirror : mirroredWord s n = false) :
    let r := homeRead (settleStale s (n / 8)) n
    pcieRead s 0 2 (n * 16) 16 = modHost r.2 fun h => { h with
      cpls := h.cpls ++ [{ fn := 0, status := 0, ep := r.1.tag == tagPOISON, data := hostBytes r.1 }] } := by
  have hdead := pinsDead_of_memEnabled hmem
  have hzero : n * 16 % 16 = 0 := by omega
  unfold pcieRead
  rw [if_neg (by simp [hdead]), if_neg (by simp [hmem]), unitsOf_word, badPlace_of_mem hplace]
  dsimp only [readPlaces]
  rw [hplace]
  dsimp only [readPlace]
  rw [hmirror, hzero, List.append_nil, List.drop_zero, List.take_of_length_le (Nat.le_of_eq (hostBytes_length _)), Bool.or_false,
    Bool.or_false]
  exact complete_of_unmirrored _

/-- The bytes that a write of a whole word gives that word. -/
theorem unitBytes_word {bs : List (BitVec 8)} (hlen : bs.length = 16) : unitBytes (n * 16) n (bs.map some) = bs.map some := by
  refine List.ext_getElem? fun i => ?_
  by_cases hi : i < 16
  · have hin : i < bs.length := by omega
    simp [unitBytes, hi, hin]
  · have hout : bs.length ≤ i := by omega
    simp [unitBytes, hi, hout]

theorem mergeWord_whole {bs : List (BitVec 8)} (hlen : bs.length = 16) (w : Word) : mergeWord w (bs.map some) = wordOfHost bs := by
  refine congrArg wordOfHost (List.ext_getElem? fun i => ?_)
  by_cases hi : i < 16
  · have hin : i < bs.length := by omega
    simp [hi, hin]
  · have hout : bs.length ≤ i := by omega
    simp [hi, hout]

theorem pcieWrite_of_mem {bar : Nat} {bs : List (BitVec 8)} (hmem : memEnabled s fn = true) (hplace : hostPlace s fn bar n = .mem n)
    (hlen : bs.length = 16) : pcieWrite s fn bar (n * 16) false (bs.map some) =
      if fn != 0 && decide (0xC0 ≤ (wordOfHost bs).tag.toNat) then refusedReq s fn (n * 16)
      else homeWrite (settleStale s (n / 8)) n (wordOfHost bs) := by
  have hdead := pinsDead_of_memEnabled hmem
  have hbytes : ¬(bs.map some).all Option.isNone = true := by
    cases bs with
    | nil => cases hlen
    | cons b bs => simp
  have hempty : (bs.map some).isEmpty = false := by
    cases bs with
    | nil => cases hlen
    | cons b bs => rfl
  have hguard : protectedWrite s fn bar (n * 16) (bs.map some) [n] = (fn != 0 && decide (0xC0 ≤ (wordOfHost bs).tag.toNat)) := by
    simp only [protectedWrite, List.any_cons, List.any_nil, hplace, Bool.or_false, unitBytes_word hlen, mergeWord_whole hlen]
  have hwrite : writePlace s fn (.mem n) (bs.map some) = homeWrite (settleStale s (n / 8)) n (wordOfHost bs) := by
    rw [writePlace, if_neg hbytes, mergeWord_whole hlen]
  unfold pcieWrite
  rw [if_neg (by rw [hdead, hempty]; decide), if_neg (by simp [hmem]), if_neg (by decide), List.length_map, hlen, unitsOf_word,
    badPlace_of_mem hplace]
  dsimp only [List.foldl]
  rw [hguard, hplace, unitBytes_word hlen, hwrite]

theorem settleStale_spec (s : State) (line : Nat) : ∃ m rf n tr, settleStale s line = { s with mem := m, refl := rf, freeIx := n, trust := tr } := by
  have hsettled : ∀ (ws : List Word) (f : Trust → Trust), ∃ m rf n tr,
      modTrust (writeWords (drawBool s).2 (line * 8) ws) f = { s with mem := m, refl := rf, freeIx := n, trust := tr } := fun ws f => by
    obtain ⟨m, rf, h⟩ := writeWords_spec (drawBool s).2 (line * 8) ws
    rw [h]
    exact ⟨m, rf, s.freeIx + 1, _, rfl⟩
  unfold settleStale
  dsimp only
  split
  · exact ⟨s.mem, s.refl, s.freeIx, s.trust, rfl⟩
  · exact hsettled _ _

theorem settleStale_of_none (h : s.trust.stale = []) (line : Nat) : settleStale s line = s := by
  simp [settleStale, h]

theorem windowFills_settleStale (s : State) (line line' : Nat) : windowFills (settleStale s line) line' = windowFills s line' := by
  obtain ⟨m, rf, n, tr, h⟩ := settleStale_spec s line
  rw [h]
  rfl

section
variable (hlive : pinsDead s = false)
include hlive

theorem pcieConfig_before_release {reg : Nat} {write : Bool} {v : W64} (hstage : s.trust.stage < 8) :
    pcieConfig s fn reg write v = complete s false { fn, status := 2 } := by
  have h8 : (s.trust.stage == 8) = false := beq_false_of_ne (by omega)
  have h9 : (s.trust.stage == 9) = false := beq_false_of_ne (by omega)
  have h10 : (s.trust.stage == 10) = false := beq_false_of_ne (by omega)
  have h11 : (s.trust.stage == 11) = false := beq_false_of_ne (by omega)
  simp only [pcieConfig, hlive, h8, h9, h10, h11, Bool.or_self, Bool.not_false, Bool.false_eq_true, if_false, if_true]

theorem pcieConfig_of_id {v : W64} (hstage : s.trust.stage = 8) (hfn : fn ≤ 32) : pcieConfig s fn 0 false v = complete s false
    { fn, status := 0, data := (bytesLE (field (deviceId s.part fn) 16 ||| 0x1FA7)).take 4 } := by
  have hrec : inRecovery s = false := by rw [inRecovery, hstage]; rfl
  unfold pcieConfig
  rw [if_neg (by rw [hlive, hstage]; decide), if_neg (by rw [hstage]; decide), if_neg (by simp [hrec, hfn]), if_neg (by decide)]
  rfl

theorem pcieConfig_of_recovery {reg : Nat} {write : Bool} {v : W64} (hstage : s.trust.stage = 10) (hfn : fn ≠ 0) :
    pcieConfig s fn reg write v = answerUr s fn reg true := by
  have hrec : inRecovery s = true := by rw [inRecovery, hstage]; rfl
  unfold pcieConfig
  rw [if_neg (by rw [hlive, hstage]; decide), if_neg (by rw [hstage]; decide), if_pos (.inr ⟨hrec, hfn⟩)]

theorem pcieFlr_of_function (h1 : 1 ≤ fn) (h32 : fn ≤ 32) : pcieFlr s fn = modHost (hostPartReset s (fn - 1)) fun h => { h with
    isolated := h.isolated.filter fun f => f != fn, refusals := tdel h.refusals fn, d3 := setFn h.d3 fn false
    msixOn := setFn h.msixOn fn false, msixHold := setFn h.msixHold fn false, msixPend := h.msixPend.filter fun e => e.1 != fn
    msixTable := h.msixTable.filter fun e => e.1 / 128 != fn, cfg := h.cfg.filter fun e => e.1 / 1024 != fn } :=
  if_neg (by
    have hne : fn ≠ 0 := by omega
    have hin : ¬32 < fn := by omega
    simp [hlive, hne, hin])

theorem pcieUnsupported_of_live (kind : Nat) : pcieUnsupported s fn kind =
    if kind ≤ 6 then answerUr s fn 0 true else if kind = 7 then answerUr s fn 0 false else s := if_neg (by simp [hlive])

theorem linkUp_of_live {rate width : Nat} (hstage : s.trust.stage ≠ 11) (hoff : (s.power.pcieOff && s.img.pcieoff) = false) :
    ∃ rs gl, linkUp s rate width = { s with
      power := { s.power with pcieOff := false }
      hostIf := { s.hostIf with linkUp := true, linkRate := if s.trust.stage = 10 then min 16 rate else rate, linkWidth := width }
      reports := rs, glow := gl } := by
  have hrate : (if inRecovery s = true then min 16 rate else rate) = if s.trust.stage = 10 then min 16 rate else rate := by
    simp only [inRecovery, beq_iff_eq]
  have h11 : (s.trust.stage == 11) = false := beq_false_of_ne hstage
  unfold linkUp
  rw [if_neg (by rw [hlive, h11, hoff]; decide), hrate]
  generalize (if s.trust.stage = 10 then min 16 rate else rate) = r
  dsimp only [modHost]
  split
  · exact ⟨s.reports, s.glow, rfl⟩
  · exact report_spec ..

end

theorem linkDown_of_up (h : s.hostIf.linkUp = true) : ∃ rs gl,
    linkDown s = { s with hostIf := { s.hostIf with linkUp := false }, reports := rs, glow := gl } := by
  rw [linkDown, if_pos h]
  exact report_spec ..

theorem not_mem_setFn_off (l : List Nat) (fn : Nat) : fn ∉ setFn l fn false := by
  simp only [setFn, Bool.false_eq_true, if_false, List.mem_filter, bne_self_eq_false, and_false, not_false_eq_true]

end

/-- Settles O55, request by request and event by event. -/
theorem hostRequestsAreServed : Obligations.HostRequestsAreServed := by
  refine ⟨fun s n hmem hplace hmirror => congrArg Host.Outcome.next (pcieRead_of_mem hmem hplace hmirror),
    fun s n hstale => settleStale_of_none hstale n, ?write, ?unanswered, ?guarded, ?retry, ?id, ?recovery, ?flr, ?unsupported, ?malformed,
    ?turnOff, ?down, ?dead, ?up⟩
  case write =>
    intro s n bs hmem hplace hlen
    refine ⟨congrArg Host.Outcome.next (pcieWrite_of_mem hmem hplace hlen), rfl, fun hfree => ?_⟩
    exact readWord_homeWrite_same _ _ _ ((windowFills_settleStale ..).trans hfree)
  case unanswered =>
    intro s fn bar off len hlive hlen hoff
    exact congrArg Host.Outcome.next ((if_neg (by simp [hlive, hlen])).trans (if_pos hoff))
  case guarded =>
    intro s fn n bs hfn hmem hplace hlen hguard
    refine congrArg Host.Outcome.next ((pcieWrite_of_mem hmem hplace hlen).trans (if_pos ?_))
    simp only [bne_iff_ne, ne_eq, hfn, not_false_eq_true, Bool.and_eq_true, true_and, decide_eq_true_eq]
    exact hguard
  case retry => exact fun s fn reg write v hlive hstage => congrArg Host.Outcome.next (pcieConfig_before_release hlive hstage)
  case id => exact fun s fn v hlive hstage hfn => congrArg Host.Outcome.next (pcieConfig_of_id hlive hstage hfn)
  case recovery => exact fun s fn reg write v hlive hstage hfn => congrArg Host.Outcome.next (pcieConfig_of_recovery hlive hstage hfn)
  case flr =>
    intro s fn hlive h1 h32
    refine ⟨_, congrArg Host.Outcome.next (pcieFlr_of_function hlive h1 h32), ?_⟩
    refine ⟨by simp [modHost], not_mem_setFn_off _ fn, not_mem_setFn_off _ fn, fun e he => ?_, rfl, rfl, rfl⟩
    simpa using (List.mem_filter.mp he).2
  case unsupported => exact fun s fn kind hlive => congrArg Host.Outcome.next (pcieUnsupported_of_live hlive kind)
  case malformed => exact fun s fn rule hlive => congrArg Host.Outcome.next (if_neg (by simp [hlive]))
  case turnOff =>
    intro s hlive
    refine ⟨_, congrArg Host.Outcome.next ((if_neg (by simp [hlive])).trans (complete_of_unmirrored _)), ?_⟩
    exact ⟨rfl, rfl, rfl⟩
  case down =>
    refine fun s => ⟨fun hdown => congrArg Host.Outcome.next (if_neg (by simp [hdown])), fun hup => ?_⟩
    obtain ⟨rs, gl, h⟩ := linkDown_of_up hup
    refine ⟨_, congrArg Host.Outcome.next h, ?_⟩
    exact ⟨rfl, rfl, rfl, rfl, rfl⟩
  case dead =>
    intro s fn bar off len reg kind b v bs hdead
    exact ⟨congrArg Host.Outcome.next (if_pos (by simp [hdead])), congrArg Host.Outcome.next (if_pos (by simp [hdead])),
      congrArg Host.Outcome.next (if_pos (by simp [hdead])), congrArg Host.Outcome.next (if_pos hdead)⟩
  case up =>
    intro s rate width hlive hstage hoff
    obtain ⟨rs, gl, h⟩ := linkUp_of_live (rate := rate) (width := width) hlive hstage hoff
    refine ⟨_, congrArg Host.Outcome.next h, ?_⟩
    exact ⟨rfl, rfl, rfl, rfl, rfl, rfl⟩

end Sys2Proof.Machine

namespace Sys2Proof.Machine
open Sys2Proof

/-! ## The SMBus commands (O56)

Memory is read for the SMBus with its own registers already changed, so a read is first shown not to depend on them. -/

section
variable (s : State) (b : Smbus)

theorem writeWords_smb (a : Nat) (ws : List Word) : writeWords { s with smb := b } a ws = { writeWords s a ws with smb := b } := by
  have hone : ∀ (t : State) a w, writeWord { t with smb := b } a w = { writeWord t a w with smb := b } := fun t a w => by
    have hopen : marksOpen { t with smb := b } (a / 8) = marksOpen t (a / 8) := rfl
    unfold writeWord
    rw [hopen]
    split <;> rfl
  induction ws generalizing s a with
  | nil => rfl
  | cons w ws ih =>
    rw [writeWords, hone, ih]
    rfl

theorem cleanLine_smb (line : Nat) : cleanLine { s with smb := b } line = { cleanLine s line with smb := b } := by
  have hdirty : lineDirty { s with smb := b } line = lineDirty s line := rfl
  have hcurrent : currentLine { s with smb := b } line = currentLine s line := rfl
  unfold cleanLine
  rw [hdirty, hcurrent]
  dsimp only
  rw [writeWords_smb s b]
  split <;> rfl

theorem uncachedReads_smb (line : Nat) : uncachedReads { s with smb := b } line = { uncachedReads s line with smb := b } := by
  have hdir : dirOf { s with smb := b } line = dirOf s line := rfl
  have hdown : downgradeLine { s with smb := b } line = { downgradeLine s line with smb := b } := by
    rw [downgradeLine, cleanLine_smb]
    rfl
  unfold uncachedReads
  rw [hdir]
  split
  · rw [hdown]
    rfl
  · exact cleanLine_smb ..

theorem homeRead_smb (a : Nat) : homeRead { s with smb := b } a = ((homeRead s a).1, { (homeRead s a).2 with smb := b }) := by
  unfold homeRead
  rw [uncachedReads_smb]
  rfl

theorem settleStale_smb (line : Nat) : settleStale { s with smb := b } line = { settleStale s line with smb := b } := by
  have hwrite : ∀ (n : Nat) (ws : List Word) (f : Trust → Trust), modTrust (writeWords { s with smb := b, freeIx := n } (line * 8) ws) f =
      { modTrust (writeWords { s with freeIx := n } (line * 8) ws) f with smb := b } := fun n ws f => by
    rw [show ({ s with smb := b, freeIx := n } : State) = { ({ s with freeIx := n } : State) with smb := b } from rfl, writeWords_smb]
    rfl
  unfold settleStale
  dsimp only
  split
  · rfl
  · exact hwrite _ _ _

end

section
variable {s : State}

theorem smbWriteCmd_of_taken {run : State} (hlive : s.dbg.extest = false) : smbWriteCmd s false true run = run := by
  simp [smbWriteCmd, smbLive, hlive]

theorem smbWriteCmd_of_badPec {len : Bool} {run : State} (hlive : s.dbg.extest = false) : smbWriteCmd s true len run = smbEnd s smbPEC_ERROR := by
  simp [smbWriteCmd, smbLive, hlive]

theorem if_smbLive {t : State} (hlive : s.dbg.extest = false) : (if smbLive s then t else s) = t := if_pos (by simp [smbLive, hlive])

section
variable (hunlocked : s.trust.stage ≠ 11)
include hunlocked

theorem inLockdown_of_stage : inLockdown s = false := beq_false_of_ne hunlocked

theorem smbSetAddr_of_unlocked (bs : List (BitVec 8)) : smbSetAddr s bs =
    if natOfBytesLE bs % 16 ≠ 0 then smbEnd s smbBAD_ADDRESS
    else { s with smb := { s.smb with addr := natOfBytesLE bs, last := 0, out := [] } } :=
  if_neg (by simp [inLockdown_of_stage hunlocked])

theorem smbReset_of_unlocked : smbReset s [0x5A] = warmReset { s with smb := { s.smb with last := 0, out := [] } } :=
  if_neg (by simp [inLockdown_of_stage hunlocked])

theorem smbReadWord_of_sealed {p : Nat} (hsealed : smbSealed s (s.smb.addr / 16) = some p) :
    smbReadWord s = smbAnswer (sealedRefused (smbAdvance s) p 4 .device) smbSEALED Word.zero := by
  have hsealed' : smbSealed (smbAdvance s) (s.smb.addr / 16) = some p := hsealed
  rw [smbReadWord, if_neg (by simp [inLockdown_of_stage hunlocked])]
  simp only [hsealed']

section
variable (hmem : s.smb.addr / 16 < 0xC00000000) (hopen : smbSealed s (s.smb.addr / 16) = none) (hreach : smbReach s (s.smb.addr / 16) = true)
include hmem hopen hreach

theorem smbReadWord_of_mem : smbReadWord s =
    (let r := homeRead (settleStale (smbAdvance s) (s.smb.addr / 16 / 8)) (s.smb.addr / 16)
    smbAnswer r.2 (if r.1.tag = tagPOISON then smbPOISON else smbOK) r.1) := by
  have hopen' : smbSealed (smbAdvance s) (s.smb.addr / 16) = none := hopen
  have hreach' : smbReach (smbAdvance s) (s.smb.addr / 16) = true := hreach
  rw [smbReadWord, if_neg (by simp [inLockdown_of_stage hunlocked])]
  simp only [hopen', hreach', hmem, if_true, Bool.true_eq_false, if_false]

theorem smbWriteWord_of_mem (bs : List (BitVec 8)) : smbWriteWord s bs =
    smbEnd (homeWrite (settleStale (smbAdvance s) (s.smb.addr / 16 / 8)) (s.smb.addr / 16) (wordOfHost bs)) smbOK := by
  have hopen' : smbSealed (smbAdvance s) (s.smb.addr / 16) = none := hopen
  have hreach' : smbReach (smbAdvance s) (s.smb.addr / 16) = true := hreach
  have hrec : inRecovery s = false := by
    rw [smbReach, if_pos hmem] at hreach
    simpa using (Bool.and_eq_true_iff.mp hreach).1
  rw [smbWriteWord, if_neg (by simp [inLockdown_of_stage hunlocked, hrec])]
  simp only [hopen', hreach', hmem, if_true, Bool.true_eq_false, if_false]

end

end

theorem smbFlashAddr_of_on {bs : List (BitVec 8)} (h : s.trust.stage = 8 ∨ s.trust.stage = 10) : smbFlashAddr s bs =
    { s with smb := { s.smb with flash := natOfBytesLE bs, last := 0, out := [] } } :=
  if_pos (by rcases h with h | h <;> rw [smbFlashOn, h] <;> rfl)

theorem smbFlashAddr_of_off {bs : List (BitVec 8)} (h8 : s.trust.stage ≠ 8) (h10 : s.trust.stage ≠ 10) :
    smbFlashAddr s bs = { s with smb := { s.smb with last := 4, out := [] } } :=
  if_neg (by simp [smbFlashOn, h8, h10])

section
variable (hstage : s.trust.stage = 8) (hidle : s.flash.ops = [])
include hstage hidle

theorem smbFlashRead_of_idle (hin : s.smb.flash + 32 ≤ 0x4000000) : smbFlashRead s = { s with smb := { s.smb with
    flash := (s.smb.flash + 32) % 2 ^ 32, last := 0
    out := (List.range 32).map fun i => BitVec.ofNat 8 (flashByte s (s.smb.flash + i)) } } := by
  have hon : smbFlashOn s = true := by rw [smbFlashOn, hstage]; rfl
  exact (if_neg (by simp [hon])).trans ((if_neg (by simp [hidle])).trans (if_neg (Nat.not_lt.mpr hin)))

theorem smbFlashOp_of_idle (op : FlashOp) : smbFlashOp s true op =
    { s with smb := { s.smb with last := 0, out := [] }, flash := { s.flash with ops := [(op, 0)] } } := by
  have hon : smbFlashOn s = true := by rw [smbFlashOn, hstage]; rfl
  refine (if_neg (by simp [hon])).trans ((if_neg (by simp [hidle])).trans ((if_pos rfl).trans ?_))
  simp only [smbEnd, queueFlash, modSmb, hidle, List.nil_append]
  rfl

end

end

/-- Settles O56, command by command. -/
theorem smbusCommandsAnswer : Obligations.SmbusCommandsAnswer := by
  intro s hlive
  have hnext : ∀ {len : Bool} {run t : State}, len = true → run = t → Host.Outcome.next (smbWriteCmd s false len run) =
      (.next t : Host.Outcome State Fault Refusal) := fun hlen hrun => by rw [hlen, smbWriteCmd_of_taken hlive, hrun]
  have hread : ∀ {run t : State}, run = t → Host.Outcome.next (if smbLive s then run else s) =
      (.next t : Host.Outcome State Fault Refusal) := fun hrun => by rw [if_smbLive hlive, hrun]
  refine ⟨hread rfl, hread rfl, fun bs hlen hunlocked => ⟨fun hmult => ?_, fun hmult => ?_⟩, fun bs => ⟨?_, ?_⟩,
    fun hmem hunlocked hopen hreach => ⟨?_, fun bs hlen => ?_⟩, fun p hunlocked hsealed => ?_, fun hunlocked => ?_, ?_,
    fun bs hlen => ⟨fun hon => ?_, fun h8 h10 => ?_⟩, fun hstage hidle => ⟨fun hin => ?_, fun bs h1 h32 hrange => ?_, fun hreach => ?_⟩,
    fun halert => hread (if_pos halert), fun halert => hread (if_neg (Bool.eq_false_iff.mp halert))⟩
  · exact hnext (by simp [hlen]) ((smbSetAddr_of_unlocked hunlocked bs).trans (if_neg (not_not_intro hmult)))
  · exact hnext (by simp [hlen]) ((smbSetAddr_of_unlocked hunlocked bs).trans (if_pos hmult))
  · exact congrArg Host.Outcome.next (smbWriteCmd_of_badPec hlive)
  · exact congrArg Host.Outcome.next (smbWriteCmd_of_badPec hlive)
  · have hsettle := settleStale_smb s (smbAdvance s).smb (s.smb.addr / 16 / 8)
    have hword := homeRead_smb (settleStale s (s.smb.addr / 16 / 8)) (smbAdvance s).smb (s.smb.addr / 16)
    obtain ⟨m, rf, n, tr, hstale⟩ := settleStale_spec s (s.smb.addr / 16 / 8)
    have hrun : smbReadWord s = _ := smbReadWord_of_mem hunlocked hmem hopen hreach
    rw [show settleStale (smbAdvance s) (s.smb.addr / 16 / 8) = _ from hsettle, hword] at hrun
    refine ⟨_, hread hrun, rfl, rfl, (uncachedReads_ctxs ..).trans ?_⟩
    rw [hstale]
  · have hrun := smbWriteWord_of_mem hunlocked hmem hopen hreach bs
    obtain ⟨m, rf, n, tr, hstale⟩ := settleStale_spec (smbAdvance s) (s.smb.addr / 16 / 8)
    obtain ⟨m', rf', cs, ks, d, hwrite⟩ := homeWrite_spec (settleStale (smbAdvance s) (s.smb.addr / 16 / 8)) (s.smb.addr / 16) (wordOfHost bs)
    have hback := readWord_homeWrite_same (settleStale (smbAdvance s) (s.smb.addr / 16 / 8)) (s.smb.addr / 16) (wordOfHost bs)
    rw [windowFills_settleStale] at hback
    rw [hwrite, hstale] at hrun hback
    refine ⟨_, hnext (by simp [hlen]) hrun, rfl, rfl, hback, rfl⟩
  · refine ⟨_, hread (smbReadWord_of_sealed hunlocked hsealed), rfl, rfl, ?_, ?_⟩
    · exact report_mem ..
    · exact report_ctxs ..
  · exact hnext rfl (smbReset_of_unlocked hunlocked)
  · exact hnext rfl (if_pos (Bool.or_true (inLockdown s)))
  · exact hnext (by simp [hlen]) (smbFlashAddr_of_on hon)
  · exact hnext (by simp [hlen]) (smbFlashAddr_of_off h8 h10)
  · exact hread (smbFlashRead_of_idle hstage hidle hin)
  · refine hnext (by simp [h1, h32]) ?_
    rw [smbFlashWrite, hrange]
    exact smbFlashOp_of_idle hstage hidle _
  · refine hnext rfl ((if_neg (by decide)).trans ?_)
    rw [hreach]
    exact smbFlashOp_of_idle hstage hidle _

end Sys2Proof.Machine

namespace Sys2Proof.Machine
open Sys2Proof

/-! ## Reflection pairs form, beat and part (O58) -/

section
variable {s : State} {t0 n : Nat}

theorem formTimeout_of_forming (hrel : s.refl.releaseTime = some t0) (hstate : s.refl.state = 1) (hrole : s.refl.role = false)
    (hrun : s.refl.running = false) : formTimeout s = if t0 + 10000000 ≤ s.time then setRefl (startMirrored s) 5 else s := by
  simp only [formTimeout, hrel, hstate, hrole, hrun, rFORMING, true_and]
  rfl

theorem retryLate_of_none (h : ∀ e ∈ s.flows, e.2.late = false) : retryLate s = s := by
  have hempty : (s.flows.filter fun e => e.2.late) = [] := List.filter_eq_nil_iff.mpr fun e he => by simp [h e he]
  rw [retryLate, hempty]
  rfl

/-- An edge after an edge is classified by the time between them (R413). -/
theorem aliveEdge_of_spacing (hlast : s.refl.lastEdgeIn = some t0) :
    let s1 : State := { s with refl := { s.refl with pinIn := !s.refl.pinIn, lastEdgeIn := some s.time } }
    let d := s.time - t0
    aliveEdge s = if 30000 ≤ d ∧ d ≤ 70000 then classify s1 1
      else if 6000 ≤ d ∧ d ≤ 14000 then classify s1 2
      else if 1000 ≤ d ∧ d ≤ 3000 then classify s1 3
      else report s1 0xB003 .device [BitVec.ofNat 64 d] (some (twinWit s)) := by
  simp only [aliveEdge, hlast]
  rfl

theorem aliveSilent_of_some (hlast : s.refl.lastEdgeIn = some t0) :
    aliveSilent s = if t0 + 500000 ≤ s.time then classify s 0 else s := by
  simp only [aliveSilent, hlast]

theorem classify_of_new (hne : s.refl.hbIn ≠ n) (hstate : s.refl.state ≠ 4) (hsettle : s.refl.settle = none) :
    classify s n = { s with refl := { s.refl with hbIn := n } } := by
  have hlost : ¬(s.refl.state = rLOST ∧ s.refl.role = false) := fun h => hstate h.1
  have hwindow : ¬(n = 0 ∧ s.refl.settle.isSome = true) := fun h => by simp [hsettle] at h
  exact (if_neg hne).trans ((if_neg hlost).trans (if_neg hwindow))

theorem settleEnd_of_some (h : s.refl.settle = some t0) : settleEnd s = if t0 + 500000 ≤ s.time then twinActs s else s := by
  simp only [settleEnd, h]

section
variable (hlost : linkLost s = true) (hstate : s.refl.state = 3)
include hlost hstate

theorem reflLoss_of_primary (hrole : s.refl.role = false) : reflLoss s = primaryActs s := by
  refine (if_neg ?_).trans (if_pos hrole)
  rw [hlost, hstate]
  decide

theorem reflLoss_of_twin (hrole : s.refl.role = true) : reflLoss s =
    if s.refl.hbIn = 0 then beginTakeover s else setRefl { s with refl := { s.refl with settle := some s.time } } 4 := by
  refine (if_neg ?_).trans ((if_neg (by simp [hrole])).trans (if_neg ?_))
  · rw [hlost, hstate]
    decide
  · rw [hstate]
    decide

end

theorem primaryActs_of_solo (h : s.refl.hbIn = 0 ∨ s.refl.hbIn = 2) : primaryActs s = goSolo s := by
  rcases h with h | h <;> simp only [primaryActs, h]

end

/-- Settles O58, event by event and command by command. -/
theorem pairsFormAndPart : Obligations.PairsFormAndPart := by
  refine ⟨?form, ?beat, ?edge, fun s n => ⟨fun h => if_pos h, classify_of_new⟩, ?pattern, ?settle, ?loss, ?commands⟩
  case form =>
    intro s t0 hrel hstate hrole hrun
    have h := formTimeout_of_forming hrel hstate hrole hrun
    exact ⟨fun hdue => congrArg Host.Outcome.next (h.trans (if_pos hdue)),
      fun hearly => congrArg Host.Outcome.next (h.trans (if_neg (Nat.not_le.mpr hearly)))⟩
  case beat =>
    exact fun s => ⟨fun h => congrArg Host.Outcome.next (if_pos h), fun hstate hdue =>
      ⟨congrArg Host.Outcome.next (if_neg (not_or.mpr ⟨hstate, Nat.not_lt.mpr hdue⟩)), retryLate_of_none⟩⟩
  case edge =>
    intro s t0 hlast hle
    have hedge := aliveEdge_of_spacing hlast
    have hsilent := aliveSilent_of_some hlast
    dsimp only at hedge ⊢
    refine ⟨fun h1 h2 => ?_, fun h1 h2 => ?_, fun h1 h2 => ?_, fun h => ?_,
      fun hdue => congrArg Host.Outcome.next (hsilent.trans (if_pos hdue)),
      fun hearly => congrArg Host.Outcome.next (hsilent.trans (if_neg (Nat.not_le.mpr hearly)))⟩
    · rw [if_pos ⟨h1, h2⟩] at hedge
      exact congrArg Host.Outcome.next hedge
    · rw [if_neg (by omega), if_pos ⟨h1, h2⟩] at hedge
      exact congrArg Host.Outcome.next hedge
    · rw [if_neg (by omega), if_neg (by omega), if_pos ⟨h1, h2⟩] at hedge
      exact congrArg Host.Outcome.next hedge
    · rw [if_neg (by omega), if_neg (by omega), if_neg (by omega)] at hedge
      exact congrArg Host.Outcome.next hedge
  case pattern =>
    exact fun s => ⟨fun h => congrArg Host.Outcome.next (if_pos (.inl h)),
      fun hdrive hdue => congrArg Host.Outcome.next (if_neg (not_or.mpr ⟨hdrive, Nat.not_lt.mpr hdue⟩))⟩
  case settle =>
    intro s t0 hsettle
    have h := settleEnd_of_some hsettle
    refine ⟨fun hearly => congrArg Host.Outcome.next (h.trans (if_neg (Nat.not_le.mpr hearly))), fun hdue hbeat => ?_, fun hdue hbeat => ?_⟩
    · exact congrArg Host.Outcome.next (h.trans ((if_pos hdue).trans (by simp only [twinActs, hbeat])))
    · exact congrArg Host.Outcome.next (h.trans ((if_pos hdue).trans (by simp only [twinActs, hbeat])))
  case loss =>
    refine fun s => ⟨fun h => congrArg Host.Outcome.next (if_pos (.inl h)), fun hlost hstate => ⟨fun hrole hbeat => ?_,
      fun hrole hbeat => ?_, fun hrole hbeat => ?_, fun hrole hbeat => ?_, fun hrole hbeat => ?_⟩⟩
    · exact congrArg Host.Outcome.next ((reflLoss_of_primary hlost hstate hrole).trans (by simp only [primaryActs, hbeat, rLOST]))
    · exact congrArg Host.Outcome.next ((reflLoss_of_primary hlost hstate hrole).trans (by simp only [primaryActs, hbeat]))
    · exact congrArg Host.Outcome.next ((reflLoss_of_primary hlost hstate hrole).trans (primaryActs_of_solo hbeat))
    · exact congrArg Host.Outcome.next ((reflLoss_of_twin hlost hstate hrole).trans (if_pos hbeat))
    · exact congrArg Host.Outcome.next ((reflLoss_of_twin hlost hstate hrole).trans (if_neg hbeat))
  case commands =>
    refine fun s => ⟨fun h => congrArg Host.Outcome.next (if_pos h), fun h6 h5 href => congrArg Host.Outcome.next (if_neg ?_),
      fun h => congrArg Host.Outcome.next (if_pos h), fun h => congrArg Host.Outcome.next (if_neg (by simp [h])),
      fun hrole hstate => congrArg Host.Outcome.next (if_pos ⟨hrole, hstate⟩), fun h => congrArg Host.Outcome.next (if_neg ?_)⟩
    · exact not_or.mpr ⟨h6, not_or.mpr ⟨h5, not_not_intro href⟩⟩
    · rintro ⟨hrole, hstate⟩
      rcases h with h | h
      · exact Bool.false_ne_true (h.symm.trans hrole)
      · exact h hstate

end Sys2Proof.Machine

namespace Sys2Proof.Machine
open Sys2Proof

/-! ## Control messages of another device (O41) -/

section
variable {s : State} {port op : Nat} {h : CtrlHdr} {args : List Word}

/-- A control message of another device for this one is received and acts (R322). -/
theorem ctrlIn_of_mine {run : State → State} (hopen : linkOpen s port = true) (hseq : inSeq s port h.seq = true) (hmine : h.target = s.dev) :
    ctrlIn s port op h args run = run (notePresent (rxFlit s port 0 1) h.origin) :=
  (if_neg (by rw [hopen, hseq]; decide)).trans (if_pos hmine)

theorem keeps_received (s : State) (port dev : Nat) : Keeps ⟨s, False⟩ (notePresent (rxFlit s port 0 1) dev) :=
  (Keeps.refl s).rxFlit.notePresent

theorem routePass_of_mine (hmine : h.target = s.dev) (via : Nat) : routePass s h via = s := if_pos (.inl hmine)

section
variable {d : W64} {via : Nat}

theorem routeOpen_of_undefined (hdef : (getPart s h.part).defined = false) : routeOpen h d via s =
    sendCtrl s h.origin 2 h.part [Word.fixN 2, ⟨tagRAW, tdtDigest (getPart s h.part)⟩] h.token := if_pos hdef

section
variable (hdef : (getPart s h.part).defined = true)
include hdef

theorem routeOpen_of_sealed (hsealed : (getPart s h.part).sealed = true) : routeOpen h d via s =
    sendCtrl s h.origin 2 h.part [Word.fixN 3, ⟨tagRAW, tdtDigest (getPart s h.part)⟩] h.token :=
  (if_neg (by simp [hdef])).trans (if_pos hsealed)

variable (hsealed : (getPart s h.part).sealed = false) (hmirror : (getPart s h.part).mirrored = false)
include hsealed hmirror

theorem routeOpen_of_mismatch (hne : d ≠ tdtDigest (getPart s h.part)) : routeOpen h d via s =
    sendCtrl (digestMismatch s h.part h.origin) h.origin 2 h.part [Word.fixN 1, ⟨tagRAW, tdtDigest (getPart s h.part)⟩] h.token :=
  (if_neg (by simp [hdef])).trans ((if_neg (by simp [hsealed])).trans ((if_neg (by simp [hmirror])).trans (if_pos hne)))

theorem routeOpen_of_match : routeOpen h (tdtDigest (getPart s h.part)) via s =
    sendCtrl (setRoute s h.part h.origin (viaPort s h.origin via)) h.origin 2 h.part
      [Word.fixN 0, ⟨tagRAW, tdtDigest (getPart s h.part)⟩] h.token :=
  (if_neg (by simp [hdef])).trans ((if_neg (by simp [hsealed])).trans ((if_neg (by simp [hmirror])).trans (if_neg (not_not_intro rfl))))

end
end

section
variable (hpart : h.part ∈ routable s)
include hpart

theorem routeReply_of_accepted : routeReply port h 0 (tdtDigest (getPart s h.part)) s =
    setRoute s h.part h.origin (viaPort s h.origin h.token) :=
  (if_neg (by simpa using hpart)).trans (if_pos rfl)

theorem routeReply_of_mismatch (d : W64) : routeReply port h 1 d s = digestMismatch s h.part h.origin := if_neg (by simpa using hpart)

end

/-- The only withdrawal, where no other waits, is acknowledged at once or waits for its path (R318). -/
theorem settleWithdraw_of_one {e : Withdrawal} (hin : s.withdrawn = []) (hout : s.withdrawing = []) :
    let u : State := { s with withdrawn := [e] }
    (pathBusy u e = false → settleWithdraw u = sendCtrl s e.dev 4 e.part [Word.fixN e.kind, Word.fixN e.ix] e.token) ∧
      (pathBusy u e = true → settleWithdraw u = u) := by
  cases s
  cases hin
  cases hout
  refine ⟨fun hfree => ?_, fun hbusy => ?_⟩
  · simp only [settleWithdraw, hfree, List.filter_cons, List.filter_nil, List.foldl_cons, List.foldl_nil, List.map_nil, Bool.not_false,
      if_true, Bool.false_eq_true, if_false]
    rfl
  · simp only [settleWithdraw, hbusy, List.filter_cons, List.filter_nil, List.foldl_nil, List.map_nil, Bool.not_true,
      if_true, Bool.false_eq_true, if_false]

/-- The request for a flow that a control message carries. -/
def requestedFlow (h : CtrlHdr) (rec ix : Nat) : InFlow :=
  let v := BitVec.ofNat 64 rec
  { dev := h.origin, cluster := bits v 24 20, ix, part := h.part, queue := bits v 15 0, rate := bits v 40 32, burst := bits v 27 25 + 1
    flits := if bits v 31 28 ≤ 7 then 1 else 2 }

theorem flowRequest_of_judged {rec ix : Nat}
    (hnew : ∀ g ∈ s.inFlows, (g.dev, g.cluster, g.ix, g.queue) ≠
      ((requestedFlow h rec ix).dev, (requestedFlow h rec ix).cluster, (requestedFlow h rec ix).ix, (requestedFlow h rec ix).queue))
    (hdev : bits (BitVec.ofNat 64 rec) 19 16 = s.dev) (hst : (getPort s h.origin).st = 2) (hflight : (getPort s h.origin).flight = false)
    (hlock : s.tsync.lock = true) (hsun : s.power.nosun = false)
    (hmirror : (getQ s (requestedFlow h rec ix).queue).owned = false ∨
      (getPart s (getQ s (requestedFlow h rec ix).queue).owner).mirrored = false) :
    let f := requestedFlow h rec ix
    (dstRefusal s f.queue f.rate f.burst f.flits = none →
      flowRequest h rec ix s = sendCtrl (addInFlow s f) h.origin 6 h.part [Word.fixN 0, Word.fixN ix] h.token) ∧
    ∀ c, dstRefusal s f.queue f.rate f.burst f.flits = some c →
      flowRequest h rec ix s = sendCtrl s h.origin 6 h.part [Word.fixN c, Word.fixN ix] h.token := by
  let f := requestedFlow h rec ix
  have hsame : ¬(s.inFlows.any fun g => g.dev == f.dev && g.cluster == f.cluster && g.ix == f.ix && g.queue == f.queue) = true := by
    rw [List.any_eq_true]
    rintro ⟨g, hg, hall⟩
    simp only [Bool.and_eq_true, beq_iff_eq] at hall
    obtain ⟨⟨⟨h1, h2⟩, h3⟩, h4⟩ := hall
    exact hnew g hg (by rw [h1, h2, h3, h4])
  have hcond : ¬(bits (BitVec.ofNat 64 rec) 19 16 ≠ s.dev ∨ (getPort s h.origin).st ≠ 2 ∨ (getPort s h.origin).flight = true ∨
      s.tsync.lock = false ∨ s.power.nosun = true) := by
    simp [hdev, hst, hflight, hlock, hsun]
  have hheld : ¬((getQ s f.queue).owned && (getPart s (getQ s f.queue).owner).mirrored) = true := by
    rcases hmirror with hm | hm
    · rw [hm]; exact Bool.false_ne_true
    · rw [hm, Bool.and_false]; exact Bool.false_ne_true
  have hrun : flowRequest h rec ix s = _ := (if_neg hsame).trans ((if_neg hcond).trans (if_neg hheld))
  dsimp only at hrun
  refine ⟨fun hnone => ?_, fun c hsome => ?_⟩
  · dsimp only [requestedFlow] at hnone
    rw [hrun, hnone]
    rfl
  · dsimp only [requestedFlow] at hsome
    rw [hrun, hsome]

section
variable {ix k : Nat} {f : Flow} (hfind : (s.flows.find? fun e => !e.2.admitted && e.1 % 256 == h.token && e.2.part == h.part &&
  e.2.qid / 65536 == h.origin && flowIxOf s e.1 == ix) = some (k, f))
include hfind

theorem flowReply_of_granted (hfits : srcRefusal s f = none) : flowReply port h 0 ix s = grantFlow s k := by
  simp only [flowReply, hfind, hfits, ne_eq, not_true_eq_false, if_false]

theorem flowReply_of_unfit {c : Nat} (hunfit : srcRefusal s f = some c) : flowReply port h 0 ix s =
    sendWithdraw (flowRefused s f c) 1 f.part h.origin (f.cluster * 256 + ix) := by
  simp only [flowReply, hfind, hunfit, ne_eq, not_true_eq_false, if_false]

theorem flowReply_of_refused {c : Nat} (hc : c ≠ 0) : flowReply port h c ix s = flowRefused s f c := by
  simp only [flowReply, hfind, ne_eq, hc, not_false_eq_true, if_true]

end

theorem forwardDeclare_of_no_routes (hroutes : s.img.routes = []) (mask dst : Nat) :
    (h.origin, dst, mask) ∈ (forwardDeclare h mask dst s).forwards := by
  simp [forwardDeclare, hroutes]

theorem collectIn_of_older {v : W64} (hle : h.origin ≤ s.dev) (hdef : (getPart s h.part).defined = true) (hfull : s.part.full = true) :
    collectIn port h v s = collCommand s h.part v :=
  if_neg (by simp [Nat.not_lt.mpr hle, hdef, hfull])

end

/-- Settles O41, message by message. -/
theorem controlMessagesAct : Obligations.ControlMessagesAct := by
  intro s port h hopen hseq hmine
  have hin : ∀ {op args run t}, run (notePresent (rxFlit s port 0 1) h.origin) = t →
      Host.Outcome.next (ctrlIn s port op h args run) = (.next t : Host.Outcome State Fault Refusal) := fun hrun =>
    congrArg Host.Outcome.next ((ctrlIn_of_mine hopen hseq hmine).trans hrun)
  have hkeeps := keeps_received s port h.origin
  obtain ⟨s1, hs1⟩ : ∃ s1, notePresent (rxFlit s port 0 1) h.origin = s1 := ⟨_, rfl⟩
  rw [hs1] at hkeeps
  have hopened : ∀ {d via t}, routeOpen h d via s1 = t → Keeps ⟨s, False⟩ t → exec (.ctrlRouteOpen port h d via) s = .next t :=
    fun {d via t} hrun ht => by
      have hreceived : ctrlIn s port 1 h [⟨tagRAW, d⟩, Word.fixN via] (routeOpen h d via) = t :=
        (ctrlIn_of_mine hopen hseq hmine).trans (by rw [hs1, hrun])
      have hpass : (if linkOpen s port && inSeq s port h.seq then routePass t h via else t) = t := by
        rw [routePass_of_mine (hmine.trans ht.dev_of_no_reset.symm), ite_self]
      exact congrArg Host.Outcome.next ((congrArg (fun t => if linkOpen s port && inSeq s port h.seq then routePass t h via else t)
        hreceived).trans hpass)
  dsimp only
  rw [hs1]
  rw [hs1] at hin
  refine ⟨fun hdef hsealed hmirror => ⟨?_, fun d via hne => ?_⟩, fun d via hdef => ?_, fun d via hdef hsealed => ?_, fun hpart => ⟨?_, fun d => ?_⟩,
    fun ix => ⟨hin rfl, hin rfl, hin rfl, fun t kind hwithdrawn hwithdrawing => ?_⟩, fun kind ix => hin rfl,
    fun rec ix hnew hdev hst hflight hlock hsun hmirror => ?_, fun ix k f hfind => ⟨fun hnone => ?_, fun c hsome => ?_, fun c hc => ?_⟩,
    fun mask dst => ⟨?_, hin rfl⟩, hin rfl, fun v horigin hdef hfull => ?_, fun phase cycle hdef => hin (if_neg (by simp [hdef]))⟩
  · exact hopened (routeOpen_of_match hdef hsealed hmirror) hkeeps.setRoute.sendCtrl
  · exact hopened (routeOpen_of_mismatch hdef hsealed hmirror hne) hkeeps.digestMismatch.sendCtrl
  · exact hopened (routeOpen_of_undefined hdef) hkeeps.sendCtrl
  · exact hopened (routeOpen_of_sealed hdef hsealed) hkeeps.sendCtrl
  · exact hin (routeReply_of_accepted hpart)
  · exact hin (routeReply_of_mismatch hpart d)
  · obtain ⟨hfree, hbusy⟩ := settleWithdraw_of_one (s := t)
      (e := { kind, part := h.part, dev := h.origin, ix, token := h.token }) hwithdrawn hwithdrawing
    rw [hwithdrawn]
    exact ⟨hfree, hbusy⟩
  · obtain ⟨hnone, hsome⟩ := flowRequest_of_judged hnew hdev hst hflight hlock hsun hmirror
    exact ⟨fun hfits => hin (hnone hfits), fun c hc => hin (hsome c hc)⟩
  · exact hin (flowReply_of_granted hfind hnone)
  · exact hin (flowReply_of_unfit hfind hsome)
  · exact hin (flowReply_of_refused hfind hc)
  · exact forwardDeclare_of_no_routes rfl mask dst
  · exact hin (collectIn_of_older (by omega) hdef hfull)

end Sys2Proof.Machine
